-- ==== Sys2Proof/Word.lean ====
section
/-! DEFINITION. The plain bit-vector types of the CX-40 (00 R7, R10): a byte, a 32-bit instruction or slot word,
a 64-bit word, a 64-byte line. Nothing here does more than name a width. -/

namespace Sys2Proof

/-- One byte. -/
abbrev Byte := BitVec 8
/-- A 32-bit instruction word, or a slot word (R10). -/
abbrev Word32 := BitVec 32
/-- A 64-bit word (R10). -/
abbrev Word := BitVec 64
/-- A 64-byte line, and the contents of a vector register (R10, R95). -/
abbrev Line := BitVec 512

end Sys2Proof
end

