-- ==== Sys2Proof/Machine/Bits.lean ====
section
/-! DEFINITION. Bit fields, extension, saturation and byte order (R7, R11, R133). Natural numbers stand for bit
patterns while an effect is computed, since the spec's pseudocode arithmetic is exact (R11). -/

namespace Sys2Proof.Machine

/-- x[h:l] (R7). -/
def bits (x h l : Nat) : Nat := (x >>> l) % 2 ^ (h + 1 - l)

/-- Bit i of x. -/
def bit (x i : Nat) : Bool := x.testBit i

/-- A flag as a number. -/
def b2n (b : Bool) : Nat := if b then 1 else 0

/-- The signed reading of the low n bits of x. -/
def toSigned (n x : Nat) : Int :=
  let y := x % 2 ^ n
  if y < 2 ^ (n - 1) then (y : Int) else (y : Int) - (2 ^ n : Nat)

/-- The low n bits of an integer. -/
def ofSigned (n : Nat) (x : Int) : Nat := (x % ((2 ^ n : Nat) : Int)).toNat

/-- SignExtend(x, n) to 64 bits (R133). -/
def signExtend (n x : Nat) : Nat := ofSigned 64 (toSigned n x)

/-- Wrap(x, n) (R133). -/
def wrap (x : Int) (n : Nat) : Nat := ofSigned n x

/-- Clamp(x, lo, hi) (R133). -/
def clampInt (x lo hi : Int) : Int := min (max x lo) hi

/-- SatS(x, n) (R133). -/
def satS (x : Int) (n : Nat) : Int := clampInt x (-(2 ^ (n - 1) : Nat)) ((2 ^ (n - 1) : Nat) - 1)

/-- SatN(x, n) (R133). -/
def satN (x : Nat) (n : Nat) : Nat := min x (2 ^ n - 1)

/-- The number that little-endian bytes stand for (R7). -/
def leNat : List Byte → Nat
  | [] => 0
  | b :: bs => b.toNat + 256 * leNat bs

/-- The n little-endian bytes of a number (R7). -/
def natLE : Nat → Nat → List Byte
  | 0, _ => []
  | n + 1, x => BitVec.ofNat 8 x :: natLE n (x / 256)

/-- x is a multiple of n. -/
def aligned (x n : Nat) : Bool := x % n == 0

/-- The smallest multiple of n at or above x. -/
def roundUp (x n : Nat) : Nat := (x + n - 1) / n * n

/-- The number of set bits among the low n. -/
def popcount : Nat → Nat → Nat
  | 0, _ => 0
  | n + 1, x => (if x.testBit n then 1 else 0) + popcount n x

/-- The places of the set bits among the low n, ascending. -/
def setBits (n x : Nat) : List Nat := (List.range n).filter (fun i => x.testBit i)

/-- x with bits [h:l] replaced by v. -/
def putBits (x h l v : Nat) : Nat :=
  x - (bits x h l) * 2 ^ l + (v % 2 ^ (h + 1 - l)) * 2 ^ l

end Sys2Proof.Machine
end

