-- ==== Sys2Proof/Machine/Aes.lean ====
section
/-! DEFINITION. AES-256 (FIPS 197) and its XTS mode over a 64-byte line, which R351 names: data unit one line, tweak
PA[43:6]. Bytes are numbers below 256; a block is the list of its 16 bytes in their order in memory. -/

namespace Sys2Proof.Machine

/-! ### The byte field -/

/-- x times the field's generator, modulo x^8 + x^4 + x^3 + x + 1. -/
def aesDouble (x : Nat) : Nat := if x < 128 then 2 * x else (2 * x) ^^^ 0x11B

/-- Product of two bytes, b's bits from the top. -/
def aesMul (a b : Nat) : Nat :=
  (List.range 8).foldl (fun r i => aesDouble r ^^^ (if b.testBit (7 - i) then a else 0)) 0

/-- The reciprocal of a byte, its 254th power: the product of its powers 2, 4, …, 128. -/
def aesRecip (a : Nat) : Nat :=
  ((List.range 7).foldl (fun (q : Nat × Nat) _ => (aesMul q.1 q.1, aesMul q.2 (aesMul q.1 q.1))) (a, 1)).2

/-- The exclusive or of a byte turned left by each of the distances. -/
def aesTurns (x : Nat) (ds : List Nat) : Nat :=
  ds.foldl (fun r d => r ^^^ (x * 2 ^ d % 256 + x * 2 ^ d / 256)) 0

/-- The substitution of a byte, and its inverse. -/
def aesSub (x : Nat) : Nat := aesTurns (aesRecip x) [0, 1, 2, 3, 4] ^^^ 0x63
def aesUnsub (x : Nat) : Nat := aesRecip (aesTurns x [1, 3, 6] ^^^ 0x05)

/-! ### Blocks and the key schedule -/

def xorBytes (a b : List Nat) : List Nat := List.zipWith (· ^^^ ·) a b

/-- Row r of a block moves left by r·d columns. -/
def aesShift (d : Nat) (b : List Nat) : List Nat :=
  (List.range 16).map fun n => b.getD ((n + 4 * (n % 4) * d) % 16) 0

/-- Each column is multiplied by the circulant matrix whose first row is m. -/
def aesMix (m : List Nat) (b : List Nat) : List Nat :=
  (List.range 16).map fun n =>
    (List.range 4).foldl (fun r k => r ^^^ aesMul (m.getD ((k + 4 - n % 4) % 4) 0) (b.getD (n / 4 * 4 + k) 0)) 0

/-- Words n, n + 1, … of the schedule, at most f of them, behind the eight latest, oldest first; rc is the next round
constant. -/
def aesSchedule : Nat → Nat → Nat → List (List Nat) → List (List Nat)
  | 0, _, _, _ => []
  | f + 1, n, rc, last =>
    let p := last.getD 7 []
    let t :=
      if n % 8 = 0 then xorBytes ((p.drop 1 ++ p.take 1).map aesSub) [rc, 0, 0, 0]
      else if n % 8 = 4 then p.map aesSub else p
    let w := xorBytes (last.getD 0 []) t
    w :: aesSchedule f (n + 1) (if n % 8 = 0 then aesDouble rc else rc) (last.drop 1 ++ [w])

/-- The fifteen round keys of a 32-byte key. -/
def aesRoundKeys (key : List Nat) : List (List Nat) :=
  let ws := (List.range 8).map fun i => (key.drop (4 * i)).take 4
  let all := ws ++ aesSchedule 52 8 1 ws
  (List.range 15).map fun r => ((all.drop (4 * r)).take 4).flatten

/-- One block enciphered under round keys. -/
def aesEncipher (ks : List (List Nat)) (b : List Nat) : List Nat :=
  let b := (List.range 13).foldl (fun b r =>
    xorBytes (aesMix [2, 3, 1, 1] (aesShift 1 (b.map aesSub))) (ks.getD (r + 1) [])) (xorBytes b (ks.getD 0 []))
  xorBytes (aesShift 1 (b.map aesSub)) (ks.getD 14 [])

/-- One block deciphered: the rounds undone from the last. -/
def aesDecipher (ks : List (List Nat)) (b : List Nat) : List Nat :=
  let b := (aesShift 3 (xorBytes b (ks.getD 14 []))).map aesUnsub
  let b := (List.range 13).foldl (fun b r =>
    (aesShift 3 (aesMix [14, 11, 13, 9] (xorBytes b (ks.getD (13 - r) [])))).map aesUnsub) b
  xorBytes b (ks.getD 0 [])

/-! ### XTS over a line (R351) -/

/-- The low n bytes of a number, lowest first. -/
def lowBytes (v n : Nat) : List Nat := (List.range n).map fun i => v / 256 ^ i % 256
/-- The number that bytes make up, lowest first. -/
def ofLowBytes (bs : List Nat) : Nat := bs.foldr (fun b r => 256 * r + b) 0

/-- The tweak of the next block: the 128-bit number doubled modulo x^128 + x^7 + x^2 + x + 1. -/
def xtsNext (t : Nat) : Nat := (2 * t) % 2 ^ 128 ^^^ (if t < 2 ^ 127 then 0 else 0x87)

/-- The blocks of a data unit, each between two additions of its tweak. -/
def xtsBlocks (f : List Nat → List Nat) : Nat → Nat → List Nat → List Nat
  | 0, _, _ => []
  | n + 1, t, bs =>
    xorBytes (f (xorBytes (bs.take 16) (lowBytes t 16))) (lowBytes t 16) ++ xtsBlocks f n (xtsNext t) (bs.drop 16)

/-- A line under a key pair: its data key is bits 255..0, its tweak key bits 511..256 (DESIGN CHOICE: assumption log, entry 3). -/
def xtsLine (f : List (List Nat) → List Nat → List Nat) (pair unit line : Nat) : Nat :=
  let t := ofLowBytes (aesEncipher (aesRoundKeys (lowBytes (pair / 2 ^ 256) 32)) (lowBytes unit 16))
  ofLowBytes (xtsBlocks (f (aesRoundKeys (lowBytes pair 32))) 4 t (lowBytes line 64))

def xtsEncrypt (pair unit line : Nat) : Nat := xtsLine aesEncipher pair unit line
def xtsDecrypt (pair unit line : Nat) : Nat := xtsLine aesDecipher pair unit line

end Sys2Proof.Machine
end

