-- ==== Sys2Proof/Syntax.lean ====
section
/-! DEFINITION. The one inductive of instructions: a constructor for every row of spec/opcode_table.json, the core
instructions first. A core instruction carries its encoded fields (R101, R102): `W0` for a base row, `Ext` for an extended or
literal row. A host command names the queue whose next packet it begins; an event of the machine or of its
surroundings names the agent, the message (by its place among those in flight) or the input it acts on. -/

namespace Sys2Proof

/-- The fields of word 0 but for OP and L (R101). -/
structure W0 where
  g : BitVec 4 := 0
  m : BitVec 3 := 0
  b : BitVec 5 := 0
  a : BitVec 5 := 0
  d : BitVec 5 := 0
  deriving DecidableEq, Repr

/-- The fields of extended word 1 (R102). -/
structure W1 where
  xop : BitVec 4 := 0
  sr : BitVec 1 := 0
  sl : BitVec 3 := 0
  sc : BitVec 3 := 0
  th : BitVec 2 := 0
  g2 : BitVec 4 := 0
  f : BitVec 5 := 0
  e : BitVec 5 := 0
  c : BitVec 5 := 0
  deriving DecidableEq, Repr

/-- Which of the lengths 0b01, 0b10 and 0b11 an extended row has (R100). -/
inductive ExtForm where
  /-- L = 0b01: word 1 and IMM32. -/
  | ext
  /-- L = 0b10: a literal and nothing else. -/
  | lit
  /-- L = 0b11: word 1, IMM32 and a literal. -/
  | extLit
  deriving DecidableEq, Repr

/-- The operands of an extended or literal row. -/
structure Ext where
  form : ExtForm := .ext
  w : W0 := {}
  x : W1 := {}
  imm : Word32 := 0
  lit : Word := 0
  deriving DecidableEq, Repr

/-- Every row of the opcode table. -/
inductive Instr where
  /-- END (R142): Ends the threadlet, keeping (.k) or freeing (.f) its frame. -/
  | endInstr (o : W0)
  /-- FORK (R143): Split-phase creation of a frame from a template on a target core, returning its handle. -/
  | fork (o : Ext)
  /-- FREE (R144): Frees the frame whose handle is in gA. -/
  | free (o : W0)
  /-- SIG (R145): Decrements a slot by n. -/
  | sig (o : Ext)
  /-- SIGV (R146): Deposits up to two words into a frame and decrements one of its slots. -/
  | sigv (o : Ext)
  /-- ARM (R147): Overwrites a whole slot word. -/
  | arm (o : Ext)
  /-- SLOTRD (R148): Reads a slot word of the issuing frame. -/
  | slotrd (o : Ext)
  /-- ROAM (R149): Ends the threadlet and migrates it with masked registers to the core near an address. -/
  | roam (o : Ext)
  /-- PRIO (R150): Sets the PRIO special register. -/
  | prio (o : W0)
  /-- BAR (R153): Sends one arrival to the barrier slot bound at a level and id. -/
  | bar (o : Ext)
  /-- BARCFG (R152): Binds a barrier-table entry to a handle, slot and participant count. -/
  | barcfg (o : Ext)
  /-- DQPUSH (R155): Pushes two words onto the core's deque. -/
  | dqpush (o : W0)
  /-- DQPOP (R155): Pops two words from the owner's end of the deque. -/
  | dqpop (o : W0)
  /-- DQSTEAL (R156): Split-phase steal of one entry from a victim core's deque. -/
  | dqsteal (o : Ext)
  /-- WDQ (R157): Split-phase query of the die's Beacon in grid or merge-path mode. -/
  | wdq (o : Ext)
  /-- BR (R159): Branch by an 18-bit offset (base form). -/
  | br (o : W0)
  /-- BR_EXT (R159): Branch by a 32-bit offset (extended form). -/
  | brExt (o : Ext)
  /-- JAL (R159): Jump and link by a 13-bit offset (base form). -/
  | jal (o : W0)
  /-- JAL_EXT (R159): Jump and link by a 32-bit offset (extended form). -/
  | jalExt (o : Ext)
  /-- JALR (R159): Jump and link to gA (base form). -/
  | jalr (o : W0)
  /-- JALR_EXT (R159): Jump and link to gA plus an immediate (extended form). -/
  | jalrExt (o : Ext)
  /-- DBNZ (R159): Decrement and branch if nonzero by a 13-bit offset (base form). -/
  | dbnz (o : W0)
  /-- DBNZ_EXT (R159): Decrement and branch if nonzero by a 32-bit offset (extended form). -/
  | dbnzExt (o : Ext)
  /-- TERMW (R160): Asks the dusk detector to signal when the scope instance is quiescent. -/
  | termw (o : Ext)
  /-- CANCEL_INSTRUCTION (R161): Cancels a job in the issuing region, as a CANCEL command with CLR = 0. -/
  | cancelInstruction (o : Ext)
  /-- MFS (R162): Reads a special register. -/
  | mfs (o : W0)
  /-- MTS (R162): Writes a special register, with the checks of R98. -/
  | mts (o : W0)
  /-- SVC (R163): Raises the SVC trap, cause 0x12. -/
  | svc (o : W0)
  /-- TRAP (R163): Raises a named cause exactly, with a tag. -/
  | trap (o : W0)
  /-- RFE (R424): Returns from the supervisor handler according to ESTAT.DISP. -/
  | rfe (o : W0)
  /-- BRK (R163): Raises the breakpoint trap, cause 0x11. -/
  | brk (o : W0)
  /-- WAITI (R165): Stops issue until a firing, message, recorded trap or request arrives. -/
  | waiti (o : W0)
  /-- SYNCI (R166): Invalidates instruction and constant caches over a scope and signals. -/
  | synci (o : Ext)
  /-- ADD (R170): Integer add at width W (base form). -/
  | add (o : W0)
  /-- ADD_EXT (R170): Integer add in extended or literal form, with optional saturation. -/
  | addExt (o : Ext)
  /-- SUB (R170): Integer subtract (base form). -/
  | sub (o : W0)
  /-- SUB_EXT (R170): Integer subtract in extended or literal form. -/
  | subExt (o : Ext)
  /-- MUL (R170): Integer multiply (base form). -/
  | mul (o : W0)
  /-- MUL_EXT (R170): Integer multiply in extended or literal form. -/
  | mulExt (o : Ext)
  /-- MULH (R171): Signed upper half of the product (base form). -/
  | mulh (o : W0)
  /-- MULH_EXT (R171): Signed upper half of the product, extended or literal form. -/
  | mulhExt (o : Ext)
  /-- MULHN (R171): Natural upper half of the product (base form). -/
  | mulhn (o : W0)
  /-- MULHN_EXT (R171): Natural upper half of the product, extended or literal form. -/
  | mulhnExt (o : Ext)
  /-- DIV (R172): Signed division truncated toward zero (base form). -/
  | div (o : W0)
  /-- DIV_EXT (R172): Signed division, extended or literal form. -/
  | divExt (o : Ext)
  /-- DIVN (R172): Natural division (base form). -/
  | divn (o : W0)
  /-- DIVN_EXT (R172): Natural division, extended or literal form. -/
  | divnExt (o : Ext)
  /-- REM (R172): Signed remainder (base form). -/
  | rem (o : W0)
  /-- REM_EXT (R172): Signed remainder, extended or literal form. -/
  | remExt (o : Ext)
  /-- REMN (R172): Natural remainder (base form). -/
  | remn (o : W0)
  /-- REMN_EXT (R172): Natural remainder, extended or literal form. -/
  | remnExt (o : Ext)
  /-- AND (R174): Bitwise and (base form). -/
  | and (o : W0)
  /-- AND_EXT (R174): Bitwise and, extended or literal form. -/
  | andExt (o : Ext)
  /-- OR (R174): Bitwise or (base form). -/
  | or (o : W0)
  /-- OR_EXT (R174): Bitwise or, extended or literal form. -/
  | orExt (o : Ext)
  /-- XOR (R174): Bitwise xor (base form). -/
  | xor (o : W0)
  /-- XOR_EXT (R174): Bitwise xor, extended or literal form. -/
  | xorExt (o : Ext)
  /-- ANDN (R174): a and not b (base form). -/
  | andn (o : W0)
  /-- ANDN_EXT (R174): a and not b, extended or literal form. -/
  | andnExt (o : Ext)
  /-- ORN (R174): a or not b (base form). -/
  | orn (o : W0)
  /-- ORN_EXT (R174): a or not b, extended or literal form. -/
  | ornExt (o : Ext)
  /-- SHL (R175): Shift left (base form). -/
  | shl (o : W0)
  /-- SHL_EXT (R175): Shift left, extended or literal form. -/
  | shlExt (o : Ext)
  /-- SHR (R175): Logical shift right (base form). -/
  | shr (o : W0)
  /-- SHR_EXT (R175): Logical shift right, extended or literal form. -/
  | shrExt (o : Ext)
  /-- SHA (R175): Arithmetic shift right (base form). -/
  | sha (o : W0)
  /-- SHA_EXT (R175): Arithmetic shift right, extended or literal form. -/
  | shaExt (o : Ext)
  /-- ROT (R175): Rotate left (base form). -/
  | rot (o : W0)
  /-- ROT_EXT (R175): Rotate left, extended or literal form. -/
  | rotExt (o : Ext)
  /-- MIN (R176): Signed minimum (base form). -/
  | min (o : W0)
  /-- MIN_EXT (R176): Signed minimum, extended or literal form. -/
  | minExt (o : Ext)
  /-- MAX (R176): Signed maximum (base form). -/
  | max (o : W0)
  /-- MAX_EXT (R176): Signed maximum, extended or literal form. -/
  | maxExt (o : Ext)
  /-- MINN (R176): Natural minimum (base form). -/
  | minn (o : W0)
  /-- MINN_EXT (R176): Natural minimum, extended or literal form. -/
  | minnExt (o : Ext)
  /-- MAXN (R176): Natural maximum (base form). -/
  | maxn (o : W0)
  /-- MAXN_EXT (R176): Natural maximum, extended or literal form. -/
  | maxnExt (o : Ext)
  /-- ABS (R176): Absolute value (base form). -/
  | abs (o : W0)
  /-- ABS_EXT (R176): Absolute value, extended form. -/
  | absExt (o : Ext)
  /-- NEG (R176): Negation (base form). -/
  | neg (o : W0)
  /-- NEG_EXT (R176): Negation, extended form. -/
  | negExt (o : Ext)
  /-- CMP (R177): 64-bit integer comparison into a predicate (base form). -/
  | cmp (o : W0)
  /-- CMP_EXT (R177): Integer comparison at width W, extended or literal form. -/
  | cmpExt (o : Ext)
  /-- SEL (R178): Selects gA or gB by a predicate (base form). -/
  | sel (o : W0)
  /-- SEL_EXT (R178): Select, extended or literal form. -/
  | selExt (o : Ext)
  /-- MOV (R178): Moves gB to gD (base form). -/
  | mov (o : W0)
  /-- MOV_EXT (R178): Move, extended or literal form. -/
  | movExt (o : Ext)
  /-- CLZ (R179): Packed count of leading zeros (base form). -/
  | clz (o : W0)
  /-- CLZ_EXT (R179): Packed count of leading zeros, extended form. -/
  | clzExt (o : Ext)
  /-- CTZ (R179): Packed count of trailing zeros (base form). -/
  | ctz (o : W0)
  /-- CTZ_EXT (R179): Packed count of trailing zeros, extended form. -/
  | ctzExt (o : Ext)
  /-- FFS (R179): Packed find first set (base form). -/
  | ffs (o : W0)
  /-- FFS_EXT (R179): Packed find first set, extended form. -/
  | ffsExt (o : Ext)
  /-- POPC (R179): Packed population count (base form). -/
  | popc (o : W0)
  /-- POPC_EXT (R179): Packed population count, extended form. -/
  | popcExt (o : Ext)
  /-- BREV (R179): Packed bit reversal (base form). -/
  | brev (o : W0)
  /-- BREV_EXT (R179): Packed bit reversal, extended form. -/
  | brevExt (o : Ext)
  /-- BFX (R180): Extracts a bit field, optionally sign-extended. -/
  | bfx (o : Ext)
  /-- BFI (R180): Inserts a bit field into gD. -/
  | bfi (o : Ext)
  /-- SEXT (R181): Sign-extends from width W (base form). -/
  | sext (o : W0)
  /-- SEXT_EXT (R181): Sign extension, extended form. -/
  | sextExt (o : Ext)
  /-- ZEXT (R181): Zero-extends from width W (base form). -/
  | zext (o : W0)
  /-- ZEXT_EXT (R181): Zero extension, extended form. -/
  | zextExt (o : Ext)
  /-- LEA (R182): Computes gA + (gB << M) (base form). -/
  | lea (o : W0)
  /-- LEA_EXT (R182): Address computation with displacement, extended or literal form. -/
  | leaExt (o : Ext)
  /-- MADD (R173): Wrapped multiply-add a × b + c. -/
  | madd (o : Ext)
  /-- PAND (R183): Predicate and. -/
  | pand (o : W0)
  /-- POR (R183): Predicate or. -/
  | por (o : W0)
  /-- PXOR (R183): Predicate xor. -/
  | pxor (o : W0)
  /-- PNOT (R183): Predicate not. -/
  | pnot (o : W0)
  /-- PMOV (R183): Predicate move. -/
  | pmov (o : W0)
  /-- SLICE (R184): Writes HomeSlice of gA. -/
  | slice (o : W0)
  /-- FADD (R188): Scalar floating-point add, RNE (base form). -/
  | fadd (o : W0)
  /-- FADD_EXT (R188): Scalar floating-point add with rounding mode, extended or literal form. -/
  | faddExt (o : Ext)
  /-- FSUB (R188): Scalar floating-point subtract (base form). -/
  | fsub (o : W0)
  /-- FSUB_EXT (R188): Scalar floating-point subtract, extended or literal form. -/
  | fsubExt (o : Ext)
  /-- FMUL (R188): Scalar floating-point multiply (base form). -/
  | fmul (o : W0)
  /-- FMUL_EXT (R188): Scalar floating-point multiply, extended or literal form. -/
  | fmulExt (o : Ext)
  /-- FFMA (R188): Scalar fused multiply-add, rounded once. -/
  | ffma (o : Ext)
  /-- FDIV (R188): Scalar floating-point divide (base form). -/
  | fdiv (o : W0)
  /-- FDIV_EXT (R188): Scalar floating-point divide, extended or literal form. -/
  | fdivExt (o : Ext)
  /-- FSQRT (R188): Scalar square root (base form). -/
  | fsqrt (o : W0)
  /-- FSQRT_EXT (R188): Scalar square root with rounding mode, extended form. -/
  | fsqrtExt (o : Ext)
  /-- FMIN (R189): Scalar floating-point minimum (base form). -/
  | fmin (o : W0)
  /-- FMIN_EXT (R189): Scalar floating-point minimum, extended or literal form. -/
  | fminExt (o : Ext)
  /-- FMAX (R189): Scalar floating-point maximum (base form). -/
  | fmax (o : W0)
  /-- FMAX_EXT (R189): Scalar floating-point maximum, extended or literal form. -/
  | fmaxExt (o : Ext)
  /-- FCMP (R190): Scalar floating-point comparison into a predicate. -/
  | fcmp (o : Ext)
  /-- FCVT (R191): Scalar conversion between float and integer kinds. -/
  | fcvt (o : Ext)
  /-- FABS (R192): Clears the sign bit of a scalar float. -/
  | fabs (o : W0)
  /-- FNEG (R192): Inverts the sign bit of a scalar float. -/
  | fneg (o : W0)
  /-- FCLASS (R192): Writes a one-hot class mask of a scalar float. -/
  | fclass (o : W0)
  /-- LD (R198): Synchronous scratchpad load (base form). -/
  | ld (o : W0)
  /-- LD_EXT (R198): Scratchpad load with displacement and sign extension, extended form. -/
  | ldExt (o : Ext)
  /-- ST (R198): Synchronous scratchpad store (base form). -/
  | st (o : W0)
  /-- ST_EXT (R198): Scratchpad store with displacement, extended form. -/
  | stExt (o : Ext)
  /-- LDF (R200): Split-phase global read that waits until its line is full. -/
  | ldf (o : Ext)
  /-- STF (R201): Posted global store that sets its line full (base form). -/
  | stf (o : W0)
  /-- STF_EXT (R201): Posted full-setting store with displacement and hint, extended form. -/
  | stfExt (o : Ext)
  /-- FEOP (R202): Sets a line's full/empty bit (base form). -/
  | feop (o : W0)
  /-- FEOP_EXT (R202): Sets a line's full/empty bit, extended form. -/
  | feopExt (o : Ext)
  /-- FETCH (R203): Split-phase global read into scratchpad, optionally acquiring. -/
  | fetch (o : Ext)
  /-- POST (R204): Posted, journalled global store, optionally releasing. -/
  | post (o : Ext)
  /-- STN (R206): Posted non-temporal store outside release ordering. -/
  | stn (o : Ext)
  /-- DRAIN (R207): Signals when every earlier STN of the core is performed at the scope. -/
  | drain (o : Ext)
  /-- FENCE (R208): Signals when every earlier POST, STF and FEOP is performed at the scope. -/
  | fence (o : Ext)
  /-- AOP (R209): Split-phase bank operation at the home slice, returning the old value. -/
  | aop (o : Ext)
  /-- ACAS (R211): Split-phase compare-and-swap of 8 or 16 bytes. -/
  | acas (o : Ext)
  /-- BUPD (R212): Split-phase element-wise bank update of n elements. -/
  | bupd (o : Ext)
  /-- PREF (R213): Prefetches a range of lines into home slices (base form). -/
  | pref (o : W0)
  /-- PREF_EXT (R213): Prefetch with displacement and hint, extended form. -/
  | prefExt (o : Ext)
  /-- GET (R214): Split-phase copy from global memory, possibly another module, to scratchpad. -/
  | get (o : Ext)
  /-- PUT (R214): Split-phase copy from scratchpad to global memory, possibly another module. -/
  | put (o : Ext)
  /-- COPY (R217): Split-phase window copy between two shape-cache tensors, in chunks. -/
  | copy (o : Ext)
  /-- ENQ (R221): Sends one entry to a queue of a core, split-phase. -/
  | enq (o : Ext)
  /-- DEQ (R222): Removes the head entry of a local queue. -/
  | deq (o : W0)
  /-- QCFG (R223): Writes a local queue's configuration, including glint handler and bound slot. -/
  | qcfg (o : Ext)
  /-- SBIND (R225): Binds f0-f7 to a memory, queue or channel stream. -/
  | sbind (o : Ext)
  /-- SUNB (R227): Unbinds or queries a stream binding. -/
  | sunb (o : W0)
  /-- REDSEND (R228): Contributes elements to a reduction tree at the cluster router. -/
  | redsend (o : Ext)
  /-- REDCFG (R229): Writes the issuing router's entry for a reduction tree. -/
  | redcfg (o : Ext)
  /-- TLBI (R230): Invalidates translation-cache entries in the slices of a scope. -/
  | tlbi (o : Ext)
  /-- CFLUSH (R231): Writes back and/or invalidates cached HBM lines of a range. -/
  | cflush (o : Ext)
  /-- VADD (R240): Lane-wise floating-point add (base form). -/
  | vadd (o : W0)
  /-- VADD_EXT (R240): Lane-wise floating-point add, extended form with mask, rounding or stream mode. -/
  | vaddExt (o : Ext)
  /-- VSUB (R240): Lane-wise floating-point subtract (base form). -/
  | vsub (o : W0)
  /-- VSUB_EXT (R240): Lane-wise floating-point subtract, extended form. -/
  | vsubExt (o : Ext)
  /-- VMUL (R240): Lane-wise floating-point multiply (base form). -/
  | vmul (o : W0)
  /-- VMUL_EXT (R240): Lane-wise floating-point multiply, extended form. -/
  | vmulExt (o : Ext)
  /-- VFMA (R240): Lane-wise fused multiply-add, C reading f0 (base form). -/
  | vfma (o : W0)
  /-- VFMA_EXT (R240): Lane-wise fused multiply-add, extended form. -/
  | vfmaExt (o : Ext)
  /-- VMIN (R240): Lane-wise floating-point minimum (base form). -/
  | vmin (o : W0)
  /-- VMIN_EXT (R240): Lane-wise floating-point minimum, extended form. -/
  | vminExt (o : Ext)
  /-- VMAX (R240): Lane-wise floating-point maximum (base form). -/
  | vmax (o : W0)
  /-- VMAX_EXT (R240): Lane-wise floating-point maximum, extended form. -/
  | vmaxExt (o : Ext)
  /-- VABS (R240): Lane-wise sign clear (base form). -/
  | vabs (o : W0)
  /-- VABS_EXT (R240): Lane-wise sign clear, extended form. -/
  | vabsExt (o : Ext)
  /-- VNEG (R240): Lane-wise sign inversion (base form). -/
  | vneg (o : W0)
  /-- VNEG_EXT (R240): Lane-wise sign inversion, extended form. -/
  | vnegExt (o : Ext)
  /-- VCMP (R242): Lane-wise comparison into a mask register (base form, condition eq). -/
  | vcmp (o : W0)
  /-- VCMP_EXT (R242): Lane-wise comparison with condition and mask, extended form. -/
  | vcmpExt (o : Ext)
  /-- VSEL (R243): Lane-wise select by a g-register mask (base form). -/
  | vsel (o : W0)
  /-- VSEL_EXT (R243): Lane-wise select, extended form. -/
  | vselExt (o : Ext)
  /-- VAND (R241): Lane-wise bitwise and (base form). -/
  | vand (o : W0)
  /-- VAND_EXT (R241): Lane-wise bitwise and, extended form. -/
  | vandExt (o : Ext)
  /-- VOR (R241): Lane-wise bitwise or (base form). -/
  | vor (o : W0)
  /-- VOR_EXT (R241): Lane-wise bitwise or, extended form. -/
  | vorExt (o : Ext)
  /-- VXOR (R241): Lane-wise bitwise xor (base form). -/
  | vxor (o : W0)
  /-- VXOR_EXT (R241): Lane-wise bitwise xor, extended form. -/
  | vxorExt (o : Ext)
  /-- VSHL (R241): Lane-wise shift left (base form). -/
  | vshl (o : W0)
  /-- VSHL_EXT (R241): Lane-wise shift left, extended form. -/
  | vshlExt (o : Ext)
  /-- VSHR (R241): Lane-wise logical shift right (base form). -/
  | vshr (o : W0)
  /-- VSHR_EXT (R241): Lane-wise shift right, logical or arithmetic, extended form. -/
  | vshrExt (o : Ext)
  /-- VIADD (R241): Lane-wise integer add (base form). -/
  | viadd (o : W0)
  /-- VIADD_EXT (R241): Lane-wise integer add, optionally saturating, extended form. -/
  | viaddExt (o : Ext)
  /-- VIMUL (R241): Lane-wise integer multiply (base form). -/
  | vimul (o : W0)
  /-- VIMUL_EXT (R241): Lane-wise integer multiply, optionally saturating, extended form. -/
  | vimulExt (o : Ext)
  /-- VCVT (R244): Lane-wise conversion between vector types. -/
  | vcvt (o : Ext)
  /-- VRED (R246): Pairwise-tree reduction of enabled lanes into gD (base form, add). -/
  | vred (o : W0)
  /-- VRED_EXT (R246): Lane reduction with a combining code and mask, extended form. -/
  | vredExt (o : Ext)
  /-- VSCAN (R247): Inclusive prefix combination over lanes (base form, add). -/
  | vscan (o : W0)
  /-- VSCAN_EXT (R247): Prefix combination, inclusive or exclusive, extended form. -/
  | vscanExt (o : Ext)
  /-- VEXP2 (R248): Lane-wise 2^x (base form). -/
  | vexp2 (o : W0)
  /-- VEXP2_EXT (R248): Lane-wise 2^x, extended form. -/
  | vexp2Ext (o : Ext)
  /-- VLOG2 (R248): Lane-wise log2 x (base form). -/
  | vlog2 (o : W0)
  /-- VLOG2_EXT (R248): Lane-wise log2 x, extended form. -/
  | vlog2Ext (o : Ext)
  /-- VRCP (R248): Lane-wise reciprocal (base form). -/
  | vrcp (o : W0)
  /-- VRCP_EXT (R248): Lane-wise reciprocal, extended form. -/
  | vrcpExt (o : Ext)
  /-- VRSQ (R248): Lane-wise reciprocal square root (base form). -/
  | vrsq (o : W0)
  /-- VRSQ_EXT (R248): Lane-wise reciprocal square root, extended form. -/
  | vrsqExt (o : Ext)
  /-- VSQRT (R248): Lane-wise square root, RNE (base form). -/
  | vsqrt (o : W0)
  /-- VSQRT_EXT (R248): Lane-wise square root with rounding mode, extended form. -/
  | vsqrtExt (o : Ext)
  /-- VSIN (R248): Lane-wise sine (base form). -/
  | vsin (o : W0)
  /-- VSIN_EXT (R248): Lane-wise sine, extended form. -/
  | vsinExt (o : Ext)
  /-- VCOS (R248): Lane-wise cosine (base form). -/
  | vcos (o : W0)
  /-- VCOS_EXT (R248): Lane-wise cosine, extended form. -/
  | vcosExt (o : Ext)
  /-- VTANH (R248): Lane-wise hyperbolic tangent (base form). -/
  | vtanh (o : W0)
  /-- VTANH_EXT (R248): Lane-wise hyperbolic tangent, extended form. -/
  | vtanhExt (o : Ext)
  /-- VSIGM (R248): Lane-wise sigmoid (base form). -/
  | vsigm (o : W0)
  /-- VSIGM_EXT (R248): Lane-wise sigmoid, extended form. -/
  | vsigmExt (o : Ext)
  /-- VPERM (R250): Permutes lanes by indices in fB (base form). -/
  | vperm (o : W0)
  /-- VPERM_EXT (R250): Lane permutation with mask, extended form. -/
  | vpermExt (o : Ext)
  /-- VBCAST (R250): Broadcasts gB to every lane (base form). -/
  | vbcast (o : W0)
  /-- VBCAST_EXT (R250): Broadcast of a register or literal, extended or stream form. -/
  | vbcastExt (o : Ext)
  /-- VMOV (R250): Copies 32-bit lanes from fA (base form). -/
  | vmov (o : W0)
  /-- VMOV_EXT (R250): Vector move with mask or stream, extended form. -/
  | vmovExt (o : Ext)
  /-- VLD (R251): Loads 64 bytes of scratchpad into fD (base form). -/
  | vld (o : W0)
  /-- VLD_EXT (R251): Masked 64-byte scratchpad load, extended form. -/
  | vldExt (o : Ext)
  /-- VST (R251): Stores fD to 64 bytes of scratchpad (base form). -/
  | vst (o : W0)
  /-- VST_EXT (R251): Masked 64-byte scratchpad store, extended form. -/
  | vstExt (o : Ext)
  /-- VGATH (R252): Gathers lanes from scratchpad by indices (base form). -/
  | vgath (o : W0)
  /-- VGATH_EXT (R252): Masked gather, extended form. -/
  | vgathExt (o : Ext)
  /-- VSCAT (R252): Scatters lanes to scratchpad by indices (base form). -/
  | vscat (o : W0)
  /-- VSCAT_EXT (R252): Masked scatter, extended form. -/
  | vscatExt (o : Ext)
  /-- VRAND (R253): Writes random lanes from RandBits (base form). -/
  | vrand (o : W0)
  /-- VRAND_EXT (R253): Random lanes with mask or stream, extended form. -/
  | vrandExt (o : Ext)
  /-- VQNT (R254): Block quantisation of a block to an FP8, FP4 or INT8 format with an E8M0 scale. -/
  | vqnt (o : Ext)
  /-- VDOT (R255): Sixteen grouped dot products into FP32 or INT32 lanes (base form). -/
  | vdot (o : W0)
  /-- VDOT_EXT (R255): Grouped dot products with mask, extended form. -/
  | vdotExt (o : Ext)
  /-- TLD (R265): Split-phase tile load from memory, by rows or through a shape-entry window. -/
  | tld (o : Ext)
  /-- TACLD (R266): Loads an accumulator from 1,024 bytes of scratchpad. -/
  | tacld (o : Ext)
  /-- TACST (R267): Stores accumulator rows into a tile, converting, optionally skipping dead elements. -/
  | tacst (o : Ext)
  /-- TACZ (R268): Zeroes an accumulator and resets its state. -/
  | tacz (o : W0)
  /-- TMMA (R269): Adds the product of two tiles to an accumulator by rows and K-blocks. -/
  | tmma (o : Ext)
  /-- TMMAS (R271): TMMA with an N-of-64 mask per row of B. -/
  | tmmas (o : Ext)
  /-- TMMSP (R272): Multiplies a tile by a sparse weight record served through Prism. -/
  | tmmsp (o : Ext)
  /-- SPCOMP (R274): Asks the cluster's Prism to build the entry for a sparse record. -/
  | spcomp (o : Ext)
  /-- SPINV (R275): Discards Prism entries for an identity or for the whole cluster. -/
  | spinv (o : W0)
  /-- TCVT (R276): Converts an accumulator or tile into a tile, optionally scaled. -/
  | tcvt (o : Ext)
  /-- TRED (R280): Reduces accumulator rows or columns, optionally by segment, into a tile. -/
  | tred (o : Ext)
  /-- TNORM (R281): RMS or layer normalisation of an accumulator in place, optionally by segment. -/
  | tnorm (o : Ext)
  /-- TSMAX (R282): Row softmax of an accumulator over allowed elements. -/
  | tsmax (o : Ext)
  /-- TTRN (R283): Transposes one tile into another. -/
  | ttrn (o : Ext)
  /-- TMASK (R278): Builds an accumulator's segment map from a shape entry and tile origin. -/
  | tmask (o : Ext)
  /-- TADD (R284): Element-wise add, multiply or scale of accumulators over live elements. -/
  | tadd (o : Ext)
  /-- SHLD (R286): Loads a shape record and its first boundary entries into a shape-cache entry. -/
  | shld (o : Ext)
  /-- SHINV (R287): Marks one or all shape-cache entries invalid. -/
  | shinv (o : W0)
  /-- SHBND (R288): Writes one boundary-table entry in the cache and in memory. -/
  | shbnd (o : Ext)
  /-- RGLD (R289): Packs whole sequences into consecutive tile rows and writes their offsets. -/
  | rgld (o : Ext)
  /-- TEXLOG (R264): Reads, and optionally clears, a tile exception log entry. -/
  | texlog (o : W0)
  /-- NOP (R141): All-zero word with no effect. -/
  | nop
  /-- NOPC (R77): Command packet that does nothing and completes at once. -/
  | nopc (q : Nat)
  /-- LOADW (R77): Command packet that loads a weave image into a region, sets each core's state, allocates root frames and leaves the gates closed. -/
  | loadw (q : Nat)
  /-- LOADW_UNLOAD (R77): LOADW with image VA 0, which unloads a loaded region or discards a swapped-out one. -/
  | loadwUnload (q : Nat)
  /-- GATES_OPEN (R20): GATES command with bit 8 set, which opens a region's ingress buffers and delivers the messages they hold. -/
  | gatesOpen (q : Nat)
  /-- GATES_CLOSE (R77): GATES command with bit 8 clear, which closes a region's gates so that later outside messages wait in ingress. -/
  | gatesClose (q : Nat)
  /-- ARRIVE (R20): Command packet that deposits up to four values into a root frame and decrements one of its slots. -/
  | arrive (q : Nat)
  /-- WAITQ (R19): Command packet that blocks its queue until another queue's completion counter reaches a target. -/
  | waitq (q : Nat)
  /-- SIGNAL (R20): Command packet that writes a fence value to a VA at scope .sy. -/
  | signal (q : Nat)
  /-- SWAP (R80): Command packet that pre-empts a victim region and loads a fresh weave image in its place, with a lazy save. -/
  | swap (q : Nat)
  /-- SWAP_RESTORE (R79): SWAP with a restore record, which puts a saved context back onto the victim's clusters or onto free clusters. -/
  | swapRestore (q : Nat)
  /-- CANCEL (R82): CANCEL command with CLR = 0, which adds a job id to the region's cancelled-job set and sends the cancel to every core. -/
  | cancel (q : Nat)
  /-- CANCEL_CLR (R82): CANCEL command with CLR = 1, which removes a job id from the cancelled-job set. -/
  | cancelClr (q : Nat)
  /-- FENCEC (R77): Command packet that completes when every earlier write of the package is visible at the named scope. -/
  | fencec (q : Nat)
  /-- STAMP (R77): Command packet that writes FETIME to a VA at scope .sy. -/
  | stamp (q : Nat)
  /-- PACKET_ACCEPT (R15): The front end examines a ring slot and accepts the packet whose header SEQ equals QSEQ, advancing QSEQ. -/
  | packetAccept (q : Nat)
  /-- PACKET_COMPLETE (R17): A packet's completion adds 1 to QCMPL and lets the next packet of the queue begin. -/
  | packetComplete (q : Nat)
  /-- PACKET_AGING (R74): A packet that has waited 200 us to begin is treated as priority 3. -/
  | packetAging (q : Nat)
  /-- LEASE_RENEW (R87): Every 0.5 ms the leader renews its lease by compare-and-swap, setting EXPIRY 2 ms ahead. -/
  | leaseRenew (die : Nat)
  /-- LEASE_CHECK (R87): Every 0.5 ms a follower reads the lease and, when it has lapsed, attempts to take leadership. -/
  | leaseCheck (die : Nat)
  /-- DEBUG_READ (R65): Debug-service request that reads one 64-bit word at a service address. -/
  | debugRead (tag : BitVec 8) (saddr : BitVec 48)
  /-- DEBUG_WRITE (R66): Debug-service request that writes one 64-bit word to a writable service address with no behaviour of its own. -/
  | debugWrite (tag : BitVec 8) (saddr : BitVec 48) (data : BitVec 64)
  /-- DEBUG_ATTEST (R92): Debug-service request that returns a signed attestation report for a region and nonce. -/
  | debugAttest (tag : BitVec 8) (data : BitVec 64) (nonce : BitVec 256)
  /-- WINDOW_WRITE (R67): Debug-service write of an inbound or outbound window, checked and effective for later accesses. -/
  | windowWrite (tag : BitVec 8) (saddr : BitVec 48) (data : BitVec 64)
  /-- ERROR_WORD_CLEAR (R67): Debug-service write of 0 that clears the Belide port's error word. -/
  | errorWordClear (tag : BitVec 8) (data : BitVec 64)
  /-- QCTL_ENABLE (R70): Write of QCTL.EN that starts or stops examination of the queue's headers. -/
  | qctlEnable (tag : BitVec 8) (q : Nat) (data : BitVec 64)
  /-- QCTL_RESUME_RETRY (R73): Write of QCTL.ACT = 01 that clears HALT and begins the recorded packet again. -/
  | qctlResumeRetry (tag : BitVec 8) (q : Nat) (data : BitVec 64)
  /-- QCTL_RESUME_SKIP (R73): Write of QCTL.ACT = 10 that clears HALT, counts the packet as completed and goes on. -/
  | qctlResumeSkip (tag : BitVec 8) (q : Nat) (data : BitVec 64)
  /-- HOST_WINDOW_ACCESS (R62): A host read or write of device memory through an inbound window, translated at its home slice. -/
  | hostWindowAccess (write : Bool) (addr : Nat) (bytes : List (BitVec 8))
  /-- POWER_ON_RESET (R89): Power-on reset powers the base dies, starts FETIME and begins the start-up sequence. -/
  | powerOnReset
  /-- BOOT_VERIFY (R90): A die's boot ROM verifies the firmware signature, fencing the die's clusters on failure. -/
  | bootVerify (die : Nat)
  /-- HBM_TRAINING (R89): An HBM stack completes training and its lines' full/empty bits are set full. -/
  | hbmTraining (stack : Nat)
  /-- CLUSTER_POWER_UP (R89): Package cluster n powers up at 30 ms plus 5 us times n. -/
  | clusterPowerUp (cl : Nat)
  /-- KEY_LOAD (R351): Firmware loads an AES-256-XTS key pair through a base die's key port. -/
  | keyLoad (die : Nat) (id : Nat) (pair : BitVec 512)
  /-- SLICE_CONFIGURATION_WRITE (R331): Firmware writes a slice's configuration word, setting DIRECT and ASTBASE. -/
  | sliceConfigurationWrite (slice : Nat) (data : BitVec 64)
  /-- I3C_READ (R94): The board controller reads temperatures, power, boot status, fenced clusters or readiness over I3C. -/
  | i3cRead (item : Nat)
  /-- I3C_RESET_REQUEST (R94): The board controller requests a module reset over I3C. -/
  | i3cResetRequest
  /-- I3C_DYNAMIC_ADDRESS_ASSIGNMENT (R94): The I3C controller assigns the module its dynamic address. -/
  | i3cDynamicAddressAssignment (addr : BitVec 7)
  /-- THERMAL_ALARM (R94): A thermal alarm is raised as an I3C in-band interrupt. -/
  | thermalAlarm (die : Nat)
  /-- ARRIVAL (R294): The frame engine applies an arrival's deposits, status word and decrement to a slot, recording a firing when COUNT reaches zero. -/
  | arrival (k : Nat)
  /-- ARM_MESSAGE (R147): A remote ARM message overwrites a slot word at its destination frame. -/
  | armMessage (k : Nat)
  /-- FREE_MESSAGE (R144): A FREE message frees the named frame on arrival, or when its running threadlet or transfer ends. -/
  | freeMessage (k : Nat)
  /-- FORK_REQUEST (R143): A FORK request at its target core allocates a frame from the template, or enters the spawn backlog. -/
  | forkRequest (k : Nat)
  /-- ROAM_ARRIVAL (R50): A ROAM message allocates a frame at the target and fires the carried threadlet with its registers. -/
  | roamArrival (k : Nat)
  /-- BACKLOG_SERVE (R43): A freed block or index serves a pending fill or the oldest spawn-backlog FORK. -/
  | backlogServe (c : Nat)
  /-- SPILL_COMPLETE (R44): A spill's umbra record is written, the frame becomes Spilled and its block is freed. -/
  | spillComplete (c : Nat) (fix : Nat)
  /-- FILL_COMPLETE (R46): A filled-back frame becomes Dormant and the pending-arrival buffer's entries for it are applied in order. -/
  | fillComplete (c : Nat) (fix : Nat)
  /-- FIRING_ISSUE (R300): The idle pipeline takes the head of the highest non-empty ready level and starts its threadlet. -/
  | firingIssue (c : Nat)
  /-- PROMOTION (R299): A ready entry whose WAIT exceeds 4,096 is promoted into the promotion area of the level above. -/
  | promotion (c : Nat) (level : Nat)
  /-- CANCEL_ACKNOWLEDGE (R58): A core receiving a cancel flushes the job's frames and acknowledges. -/
  | cancelAcknowledge (k : Nat)
  /-- UNLOAD_ACKNOWLEDGE (R77): A core of an unloading region ends its threadlet at the next boundary, frees every frame and acknowledges. -/
  | unloadAcknowledge (c : Nat)
  /-- WATERMARK_REPORT (R306): A core's free-block report reaches the front end and throttles or releases ARRIVE admission for the region. -/
  | watermarkReport (k : Nat)
  /-- ENQ_ARRIVAL (R221): An ENQ entry reaches its destination queue and is placed or refused. -/
  | enqArrival (k : Nat)
  /-- STEAL (R406): A DQSTEAL request is applied at the victim's deque, taking the entry at TOP or none. -/
  | steal (k : Nat)
  /-- TENSOR_ROW (R270): The tensor engine runs one row of its current operation once the row's operands are readable. -/
  | tensorRow (c : Nat)
  /-- COPY_PIECE (R219): The copy engine performs one row, chunk or 64-byte piece of the chosen operation. -/
  | copyPiece (c : Nat)
  /-- COPY_AGING (R305): A copy-engine operation that has waited 4,096 cycles counts one PRIO level higher. -/
  | copyAging (c : Nat) (n : Nat)
  /-- STREAM_GROUP (R238): The vector engine runs one group of an in-flight stream operation, round-robin. -/
  | streamGroup (c : Nat)
  /-- ROW_WAIT_TIMEOUT (R259): An operation that waited 2^26 core cycles for a row completes with status 4. -/
  | rowWaitTimeout (c : Nat) (n : Nat)
  /-- LDF_TIMEOUT (R200): An LDF parked 2^24 slice cycles completes with status 4. -/
  | ldfTimeout (slice : Nat) (n : Nat)
  /-- REMOTE_TIMEOUT (R216): A remote GET or PUT without acknowledgement within the link timeout completes with status 4. -/
  | remoteTimeout (c : Nat) (n : Nat)
  /-- GLOBAL_ACCESS (R332): A global access reaches its home slice, is translated, checked and performed or forwarded to its performing agent. -/
  | globalAccess (k : Nat)
  /-- LINE_FILL (R334): A missed HBM line arrives and the accesses attached to its miss register are performed in order. -/
  | lineFill (slice : Nat) (n : Nat)
  /-- FAULT_RECORD (R346): The service core's network interface writes a fault record into the ring once its place is free and decrements the service slot. -/
  | faultRecord (k : Nat)
  /-- FAULT_REPLY_RESUME (R347): A reply word with ACT 01 retranslates every access parked on the fault. -/
  | faultReplyResume (k : Nat)
  /-- FAULT_REPLY_ABORT (R347): A reply word with ACT 10 ends every access parked on the fault with status 3. -/
  | faultReplyAbort (k : Nat)
  /-- HELD_ACCESS_RELEASE (R446): The network interface releases an access held at its home slice once the accesses it follows are settled. -/
  | heldAccessRelease (slice : Nat) (n : Nat)
  /-- STORE_ACKNOWLEDGE (R205): A home slice's acknowledgement releases a posted store's journal entry. -/
  | storeAcknowledge (k : Nat)
  /-- STORE_REFUSAL (R427): A refused posted store sets its journal entry to STATE 2 and posts recorded trap 0x0B. -/
  | storeRefusal (k : Nat)
  /-- WATCH_ADVANCE (R348): An advance from a performing slice adds 1 to a watched page's generation. -/
  | watchAdvance (k : Nat)
  /-- SCRUB (R354): A slice or controller scrubs a word or line, correcting soft errors. -/
  | scrub (loc : Nat)
  /-- PRISM_SERVE (R392): A TMMSP or SPCOMP reaching Prism is looked up by identity and served, queued on a compile, or sent down the dense path. -/
  | prismServe (k : Nat)
  /-- PRISM_COMPILE (R392): Prism reads and checks a sparse record and builds its entry, then serves the waiting operations. -/
  | prismCompile (cl : Nat)
  /-- BEACON_OPEN (R408): A WDQ query with ACT open opens a grid or merge job in the die's job table. -/
  | beaconOpen (k : Nat)
  /-- BEACON_NEXT (R410): A WDQ query with ACT next hands out the next grid indices or merge part, or the end-of-work token. -/
  | beaconNext (k : Nat)
  /-- BEACON_CLOSE (R408): A WDQ query with ACT close frees a job. -/
  | beaconClose (k : Nat)
  /-- TREE_ENTRY_WRITE (R229): A REDCFG entry reaches its cluster router and replaces the tree entry, discarding its round. -/
  | treeEntryWrite (k : Nat)
  /-- REDUCTION_DELIVERY (R400): A contribution or child packet reaches a router entry and, when the round is complete, is combined and forwarded. -/
  | reductionDelivery (k : Nat)
  /-- REDUCTION_TIMEOUT (R402): A round's timer expires and a timeout packet is sent towards the root, or trap 0x0C is posted there. -/
  | reductionTimeout (cl : Nat) (tree : Nat)
  /-- DUSK_SAMPLE (R416): The dusk detector takes its two samples 2,048 cycles apart and signals outstanding TERMWs when quiescent. -/
  | duskSample (die : Nat) (n : Nat)
  /-- LIVELOCK_WINDOW (R417): At the end of a livelock window the detector posts trap 0x0D where refusals rose and nothing was taken. -/
  | livelockWindow (region : Nat) (die : Nat)
  /-- RECORDED_TRAP_ENTRY (R426): An idle pipeline enters the handler for the next recorded trap in the fault queue. -/
  | recordedTrapEntry (c : Nat)
  /-- PREEMPT (R430): A pre-emption request enters the handler with ECAUSE 0x00 at the next instruction boundary. -/
  | preempt (c : Nat)
  /-- CLUSTER_FENCE (R356): Firmware fences a failed cluster out of placement and restarts its restartable threadlets. -/
  | clusterFence (cl : Nat)
  /-- BLOCK_CLAIM (R420): An incoming weave's first access to a victim scratchpad block saves it if touched, enters it in the directory and zeroes it. -/
  | blockClaim (c : Nat) (block : Nat)
  /-- STEPCTL_HALT (R441): Write of STEPCTL.HALT that halts the core at the next instruction boundary. -/
  | stepctlHalt (c : Nat)
  /-- STEPCTL_GO (R441): Write of STEPCTL.GO that applies held arrivals and resumes the core. -/
  | stepctlGo (c : Nat)
  /-- STEPCTL_STEP (R441): Write of STEPCTL.STEP that permits exactly one firing and halts again. -/
  | stepctlStep (c : Nat)
  /-- STEPCTL_RELH (R441): Write of STEPCTL.RELH that applies the whole held-arrival list in order. -/
  | stepctlRelh (c : Nat)
  /-- LOAD_ACKNOWLEDGEMENT (R20): A core of a region being loaded by LOADW, a fresh SWAP or a restore acknowledges its load, and the last acknowledgement completes the packet, with the SWAP's commit word written. -/
  | loadAcknowledgement (c : Nat)
  /-- SOFT_ERROR (R354): A soft error strikes a bit of a scratchpad word, a slice SRAM word or an HBM line. -/
  | softError (loc : Nat) (bits : Nat)
  /-- HOST_MEMORY_ACCEPTANCE (R63): The host's memory accepts a device write into the host aperture, or answers a device read, through the Belide port. -/
  | hostMemoryAcceptance (k : Nat)
  /-- REMOTE_ACKNOWLEDGEMENT (R216): A remote module's acknowledgement, or its report of failure, for a GET or PUT arrives through a Verot link port. -/
  | remoteAcknowledgement (c : Nat) (n : Nat) (cause : BitVec 8) (data : List (BitVec 8))
  deriving DecidableEq, Repr

end Sys2Proof
end

