-- ==== Sys2Proof/Machine/Encoding.lean ====
section
/-! DEFINITION. The encoding tables R117 to R122: for each major opcode the forms, the permitted codes and the
operand classes, and from them the check of step 2 of R123 on the fields of a base or an extended row. A set of
permitted codes is a number whose bit n stands for code n. -/

namespace Sys2Proof.Machine

/-- Operand class of a 5-bit field (R96): must be zero, any register, 0-7, or 0-15. -/
inductive Cls where
  | z | r | p3 | s4
  deriving DecidableEq, Repr

/-- How an opcode uses SL, SR, F and E (R106, R107): no slot; a slot of SIG, SIGV or ARM; the own slot of SLOTRD;
split-phase; vector. -/
inductive SlotUse where
  | no | plain | own | split | vec
  deriving DecidableEq, Repr

/-- One row of R117 to R122. -/
structure Row where
  base : Bool := false
  ext : Bool := false
  lit : Bool := false
  sv : Bool := false
  th : Bool := false
  slot : SlotUse := .no
  m : Nat := 1
  xop : Nat := 1
  sc : Nat := 1
  imm : Nat := 0
  d : Cls := .z
  a : Cls := .z
  b : Cls := .z
  c : Cls := .z
  deriving DecidableEq, Repr

/-- Every bit of IMM32. -/
def immAny : Nat := 0xFFFFFFFF

/-- R117, base and extended rows apart where they differ. -/
def rowControl (ext : Bool) : Nat → Option Row
  | 0x01 => some { base := true, m := 0b11 }
  | 0x02 => some { ext := true, slot := .split, imm := 0x1FFF, a := .r }
  | 0x03 => some { base := true, a := .r }
  | 0x04 => some { ext := true, slot := .plain, imm := 0xFFFF }
  | 0x05 => some { ext := true, lit := true, slot := .plain, m := 0b111, imm := 0x1F, a := .r, b := .r }
  | 0x06 => some { ext := true, slot := .plain, m := 0b11, imm := immAny, a := .r }
  | 0x07 => some { ext := true, slot := .own, d := .r }
  | 0x08 => some { ext := true, m := 0b11, imm := 0x1FFFFFFF, a := .r, b := .r }
  | 0x09 => some { base := true, m := 0x0F }
  | 0x0A => some { ext := true, sc := 0b111100, imm := 0xF }
  | 0x0B => some { ext := true, sc := 0b111100, imm := 0xFFFF007F, a := .r }
  | 0x0C => some { base := true, d := .p3, a := .r, b := .r }
  | 0x0D => some { base := true, d := .r, a := .p3 }
  | 0x0E => some { ext := true, slot := .split, imm := 0x1F, a := .r }
  | 0x0F => some { ext := true, slot := .split, m := 0b11, d := .r, a := .r }
  | 0x10 => some (if ext then { ext := true, imm := immAny }
      else { base := true, ext := true, m := 0xFF, d := .r, a := .r, b := .r })
  | 0x11 => some (if ext then { ext := true, imm := immAny, d := .r }
      else { base := true, ext := true, m := 0xFF, d := .r, a := .r, b := .r })
  | 0x12 => some { base := true, ext := true, imm := immAny, d := .r, a := .r }
  | 0x13 => some (if ext then { ext := true, imm := immAny, d := .r }
      else { base := true, ext := true, m := 0xFF, d := .r, a := .r, b := .r })
  | 0x14 => some { ext := true, slot := .split, sc := 0b111000 }
  | 0x15 => some { ext := true, slot := .split, a := .r }
  | 0x16 => some { base := true, d := .r, a := .r, b := .r }
  | 0x17 => some { base := true, d := .r, a := .r, b := .r }
  | 0x18 => some { base := true, m := 0xFF, d := .r, a := .r, b := .r }
  | 0x19 => some { base := true, m := 0xFF, d := .r, a := .r, b := .r }
  | 0x1A => some { base := true, sv := true }
  | 0x1B => some { base := true, m := 0xFF, d := .r, a := .r, b := .r }
  | 0x1C => some { base := true, sv := true }
  | 0x1D => some { ext := true, sv := true, slot := .split, sc := 0b111110 }
  | _ => none

/-- A two-source integer row of R118. -/
def rowInt (m xop : Nat) : Row := { base := true, ext := true, lit := true, m := m, xop := xop, d := .r, a := .r, b := .r }

/-- A one-source integer row of R118. -/
def rowInt1 (m : Nat) : Row := { base := true, ext := true, m := m, d := .r, a := .r }

/-- R118. -/
def rowInteger (op : Nat) : Option Row :=
  if op ≤ 0x22 then some (rowInt 0xFF 0b11)
  else if op ≤ 0x28 then some (rowInt 0x0F 1)
  else if op ≤ 0x2E then some (rowInt 0xFF 1)
  else if op ≤ 0x30 then some (rowInt 0x0F 1)
  else if op = 0x31 then some (rowInt 0xFF 1)
  else if op ≤ 0x35 then some (rowInt 0x0F 1)
  else if op ≤ 0x37 then some (rowInt1 0x0F)
  else match op with
  | 0x38 => some { rowInt 0x7F 0x0F with d := .p3 }
  | 0x39 => some (rowInt 0xFF 1)
  | 0x3A => some { rowInt 1 1 with a := .z }
  | 0x3B => some (rowInt1 0x0F)
  | 0x3C => some (rowInt1 0x0F)
  | 0x3D => some (rowInt1 0x0F)
  | 0x3E => some (rowInt1 0x0F)
  | 0x3F => some (rowInt1 0x0F)
  | 0x40 => some { ext := true, m := 0x11, imm := 0x7F3F, d := .r, a := .r }
  | 0x41 => some { ext := true, imm := 0x7F3F, d := .r, a := .r }
  | 0x42 => some (rowInt1 0x07)
  | 0x43 => some (rowInt1 0x07)
  | 0x44 => some { rowInt 0x0F 1 with imm := immAny }
  | 0x45 => some { ext := true, lit := true, m := 0xFF, d := .r, a := .r, b := .r, c := .r }
  | 0x46 => some { base := true, d := .p3, a := .p3, b := .p3 }
  | 0x47 => some { base := true, d := .p3, a := .p3, b := .p3 }
  | 0x48 => some { base := true, d := .p3, a := .p3, b := .p3 }
  | 0x49 => some { base := true, d := .p3, a := .p3 }
  | 0x4A => some { base := true, d := .p3, a := .p3 }
  | 0x4B => some { base := true, d := .r, a := .r }
  | _ => none

/-- R119; RM 0-3 only (R185). -/
def rowFloat : Nat → Option Row
  | 0x60 => some (rowInt 0x0F 0x0F)
  | 0x61 => some (rowInt 0x0F 0x0F)
  | 0x62 => some (rowInt 0x0F 0x0F)
  | 0x63 => some { ext := true, lit := true, m := 0x0F, xop := 0x0F, d := .r, a := .r, b := .r, c := .r }
  | 0x64 => some (rowInt 0x0F 0x0F)
  | 0x65 => some { rowInt1 0x0F with xop := 0x0F }
  | 0x66 => some (rowInt 0x0F 1)
  | 0x67 => some (rowInt 0x0F 1)
  | 0x68 => some { ext := true, lit := true, m := 0x0F, xop := 0x1F, d := .p3, a := .r, b := .r }
  | 0x69 => some { ext := true, m := 0xFF, xop := 0x0F, d := .r, a := .r, c := .p3 }
  | 0x6A => some { base := true, m := 0x0F, d := .r, a := .r }
  | 0x6B => some { base := true, m := 0x0F, d := .r, a := .r }
  | 0x6C => some { base := true, m := 0x0F, d := .r, a := .r }
  | _ => none

/-- R120. -/
def rowMemory : Nat → Option Row
  | 0x70 => some { base := true, ext := true, m := 0x0F, xop := 0b11, imm := immAny, d := .r, a := .r }
  | 0x71 => some { base := true, ext := true, m := 0x0F, imm := immAny, d := .r, a := .r }
  | 0x72 => some { ext := true, slot := .split, th := true, m := 0x7F, imm := immAny, d := .r, a := .r }
  | 0x73 => some { base := true, ext := true, th := true, m := 0x7F, imm := immAny, d := .r, a := .r }
  | 0x74 => some { base := true, ext := true, m := 0b11, imm := immAny, a := .r }
  | 0x75 => some { ext := true, slot := .split, th := true, m := 0x7F, xop := 0b11, sc := 0x7F, imm := immAny, d := .r, a := .r }
  | 0x76 => some { ext := true, th := true, m := 0x7F, xop := 0b11, sc := 0x7F, imm := immAny, d := .r, a := .r }
  | 0x77 => some { ext := true, th := true, m := 0x7F, imm := immAny, d := .r, a := .r }
  | 0x78 => some { ext := true, slot := .split, sc := 0x7E }
  | 0x79 => some { ext := true, slot := .split, sc := 0x7E }
  | 0x7A => some { ext := true, lit := true, slot := .split, th := true, m := 0x0F, xop := 0x1FFF, imm := immAny, d := .r, a := .r, b := .r, c := .r }
  | 0x7B => some { ext := true, slot := .split, th := true, m := 0x18, imm := immAny, d := .r, a := .r, b := .r, c := .r }
  | 0x7C => some { ext := true, slot := .split, th := true, m := 0x0F, xop := 0xFFF, imm := immAny, a := .r, b := .r, c := .r }
  | 0x7D => some { base := true, ext := true, th := true, imm := immAny, a := .r, b := .r }
  | 0x7E => some { ext := true, slot := .split, th := true, m := 0b11, imm := immAny, d := .r, a := .r, b := .r, c := .r }
  | 0x7F => some { ext := true, slot := .split, th := true, m := 0b11, imm := immAny, d := .r, a := .r, b := .r, c := .r }
  | 0x80 => some { ext := true, slot := .split, imm := 0xFF, a := .r }
  | 0x81 => some { ext := true, lit := true, slot := .split, m := 0b11, a := .r, b := .r }
  | 0x82 => some { base := true, m := 0xFF, d := .r, a := .p3 }
  | 0x83 => some { ext := true, a := .p3, b := .r }
  | 0x84 => some { ext := true, m := 0b111, d := .p3, a := .r }
  | 0x85 => some { base := true, m := 0b11, d := .r, a := .p3 }
  | 0x86 => some { ext := true, slot := .split, m := 0xE7, xop := 0x3F, imm := 0x3F, a := .r, b := .r }
  | 0x87 => some { ext := true, imm := 0x3F, a := .r }
  | 0x88 => some { ext := true, slot := .split, sv := true, m := 0b111, sc := 0x30, a := .r, b := .r }
  | 0x89 => some { ext := true, slot := .split, m := 0b111, a := .r, b := .r }
  | _ => none

/-- A vector row of R121 with f or g operands D, A and B. -/
def rowVec (m xop : Nat) : Row := { base := true, ext := true, slot := .vec, m := m, xop := xop, d := .r, a := .r, b := .r }

/-- R121. -/
def rowVector (op : Nat) : Option Row :=
  if op ≤ 0xA2 then some (rowVec 0b111 0x1F)
  else if op = 0xA3 then some { rowVec 0b111 0x1F with c := .r }
  else if op ≤ 0xA5 then some (rowVec 0b111 1)
  else if op ≤ 0xA7 then some { rowVec 0b111 1 with b := .z }
  else match op with
  | 0xA8 => some (rowVec 0xE7 0x7F)
  | 0xA9 => some { rowVec 0xFF 1 with c := .r }
  | 0xAA => some (rowVec 0xE0 1)
  | 0xAB => some (rowVec 0xE0 1)
  | 0xAC => some (rowVec 0xE0 1)
  | 0xAD => some (rowVec 0xE0 1)
  | 0xAE => some (rowVec 0xE0 0b11)
  | 0xAF => some (rowVec 0xE0 0b11)
  | 0xB0 => some (rowVec 0xE0 0b11)
  | 0xB1 => some { rowVec 0xFF 0x1F with base := false, b := .z, c := .p3 }
  | 0xB2 => some { rowVec 0xE7 0x3F with b := .z }
  | 0xB3 => some { rowVec 0xE7 0x73F with b := .z }
  | 0xBD => some (rowVec 0xFF 1)
  | 0xBE => some { rowVec 0xFF 1 with a := .z, lit := true }
  | 0xBF => some { rowVec 1 1 with b := .z }
  | 0xC0 => some { rowVec 1 1 with b := .z }
  | 0xC1 => some { rowVec 1 1 with b := .z }
  | 0xC2 => some (rowVec 0xFF 1)
  | 0xC3 => some (rowVec 0xFF 1)
  | 0xC4 => some { rowVec 0x21 1 with b := .z }
  | 0xC5 => some { rowVec 0b111 0x1F with base := false, c := .p3 }
  | 0xC6 => some (rowVec 0x9E 1)
  | _ => if 0xB4 ≤ op ∧ op ≤ 0xBC then some { rowVec 0b111 (if op = 0xB8 then 0x1F else 1) with b := .z } else none

/-- R122. -/
def rowTile : Nat → Option Row
  | 0xD0 => some { ext := true, slot := .split, th := true, m := 0b11, imm := 0xF, d := .p3, a := .r, b := .r }
  | 0xD1 => some { ext := true, slot := .split, d := .p3, a := .r }
  | 0xD2 => some { ext := true, slot := .split, m := 0b11, xop := 0x1F, imm := 0xF, d := .p3, a := .p3 }
  | 0xD3 => some { base := true, d := .p3 }
  | 0xD4 => some { ext := true, slot := .split, d := .p3, a := .p3, b := .p3 }
  | 0xD5 => some { ext := true, slot := .split, d := .p3, a := .p3, b := .p3, c := .r }
  | 0xD6 => some { ext := true, slot := .split, d := .p3, a := .p3, b := .r }
  | 0xD7 => some { ext := true, slot := .split, a := .r }
  | 0xD8 => some { base := true, m := 0b11, a := .r }
  | 0xD9 => some { ext := true, slot := .split, m := 0x0F, xop := 0x1F, d := .p3, a := .p3, b := .r }
  | 0xDA => some { ext := true, slot := .split, m := 0b11, xop := 0x0F, imm := 0x1F, d := .p3, a := .p3 }
  | 0xDB => some { ext := true, slot := .split, m := 0b11, imm := 0x1F, d := .p3, a := .p3, b := .r }
  | 0xDC => some { ext := true, slot := .split, m := 0b111, imm := 0xF, d := .p3, b := .r }
  | 0xDD => some { ext := true, slot := .split, d := .p3, a := .p3 }
  | 0xDE => some { ext := true, slot := .split, imm := 0xF, d := .p3, a := .r }
  | 0xDF => some { ext := true, slot := .split, m := 0b111, d := .p3, a := .p3, b := .r }
  | 0xE0 => some { ext := true, slot := .split, d := .s4, a := .r }
  | 0xE1 => some { base := true, m := 0b11, d := .s4 }
  | 0xE2 => some { ext := true, slot := .split, d := .s4, a := .r, b := .r }
  | 0xE3 => some { ext := true, slot := .split, imm := 0xF, d := .p3, a := .r, b := .r }
  | 0xE4 => some { base := true, m := 0b11, d := .r, a := .p3 }
  | _ => none

/-- The row of a major opcode (R116); none where the opcode is unassigned, reserved, or NOP's. -/
def rowOf (ext : Bool) (op : Nat) : Option Row :=
  if op < 0x20 then rowControl ext op
  else if op < 0x60 then rowInteger op
  else if op < 0x70 then rowFloat op
  else if op < 0xA0 then rowMemory op
  else if op < 0xD0 then rowVector op
  else rowTile op

/-- A field value lies in its class (R96). -/
def Cls.ok (k : Cls) (v : BitVec 5) : Bool :=
  match k with
  | .z => v == 0
  | .r => true
  | .p3 => decide (v.toNat < 8)
  | .s4 => decide (v.toNat < 16)

/-- The limits on the fields of word 0 that a row states beside its codes and classes (R117-R122). -/
def extraBase (op : Nat) (w : W0) : Bool :=
  match op with
  | 0x0D => decide (1 ≤ w.d.toNat) && decide (w.d.toNat ≤ 28)
  | 0x19 =>
    let cause := (w.a.toNat % 8) * 32 + w.d.toNat
    decide (1 ≤ cause) && decide (cause ≤ 0x14)
  | 0xD8 => w.m == 0 || w.a == 0
  | 0xE1 => w.m == 0 || w.d == 0
  | _ => true

/-- The limits on an extended row's fields that its row states beside its codes and classes (R117-R122, R143-R156,
R180, R191, R209-R211). -/
def extraExt (op : Nat) (o : Ext) : Bool :=
  let i := o.imm.toNat
  let lit := o.form == .extLit
  match op with
  | 0x02 => decide (bits i 12 8 ≤ 27)
  | 0x04 => decide (i ≠ 0)
  | 0x05 =>
    match o.w.m.toNat with
    | 0 => i == 0 && o.w.a == 0 && o.w.b == 0 && !lit
    | 1 => decide (i ≤ 27) && o.w.b == 0 && !lit
    | _ => decide (i ≤ 26)
  | 0x06 => if o.w.m == 0 then decide (i < 2 ^ 31) && o.w.a == 0 else i == 0
  | 0x08 => decide (popcount 29 i ≤ 16)
  | 0x0B => decide (bits i 31 16 ≠ 0)
  | 0x0E => decide (i ≤ 26)
  | 0x40 => decide (1 ≤ bits i 14 8) && decide (bits i 14 8 ≤ 64) && decide (bits i 5 0 + bits i 14 8 ≤ 64)
  | 0x41 => decide (1 ≤ bits i 14 8) && decide (bits i 14 8 ≤ 64) && decide (bits i 5 0 + bits i 14 8 ≤ 64)
  | 0x69 => decide (o.w.m.toNat < 4) || decide (o.x.c.toNat < 4)
  | 0x75 => (o.x.xop == 1) == (o.x.sc != 0)
  | 0x76 => (o.x.xop == 1) == (o.x.sc != 0)
  | 0x7A => (o.x.xop == 12 || o.x.c == 0) && (o.x.xop != 10 || o.w.m == 2) && (o.x.xop != 11 || o.w.m == 1)
  | 0x7B => o.w.m == 3 ||
      (o.w.b.toNat % 2 == 0 && decide (2 ≤ o.w.b.toNat) && decide (o.w.b.toNat ≤ 28) &&
       o.x.c.toNat % 2 == 0 && decide (2 ≤ o.x.c.toNat) && decide (o.x.c.toNat ≤ 28))
  | 0x7C => (o.x.xop != 10 || o.w.m == 2) && (o.x.xop != 11 || o.w.m == 1)
  | 0x86 => decide (o.x.xop.toNat < 3) || decide (5 ≤ o.w.m.toNat)
  | 0xA8 => if o.w.m.toNat < 5 then decide (o.x.xop.toNat ≤ 4) else o.x.xop != 3
  | 0xB2 => decide (o.x.xop.toNat < 3) || decide (5 ≤ o.w.m.toNat)
  | 0xB3 => decide (o.x.xop.toNat % 8 < 3) || decide (5 ≤ o.w.m.toNat)
  | 0xC5 => decide (4 ≤ o.x.c.toNat)
  | 0xD0 => if o.w.m == 0 then i == 0 else o.w.b == 0
  | 0xD2 => o.w.m == 1 || i == 0
  | 0xD9 => decide (2 ≤ o.w.m.toNat) || o.w.b == 0
  | 0xDF => o.w.m == 2 || decide (o.w.b.toNat < 8)
  | _ => true

/-- The fields of word 0 fit the row. -/
def Row.okW0 (r : Row) (w : W0) : Bool :=
  w.g != 8 && r.m.testBit w.m.toNat && r.d.ok w.d && r.a.ok w.a && r.b.ok w.b

/-- SR, SL, F and E fit the row's use of a slot (R106, R107). -/
def SlotUse.ok (u : SlotUse) (x : W1) : Bool :=
  match u with
  | .no => x.sr == 0 && x.sl == 0 && x.f == 0 && x.e == 0
  | .plain => (x.sr == 1 || x.f == 0) && x.e == 0
  | .own => x.sr == 0 && x.f == 0 && x.e == 0
  | .split => (x.sr == 1 || x.f == 0) && decide (x.e.toNat ≤ 28)
  | .vec => decide (x.e.toNat ≤ 28)

/-- The fields of word 1 and IMM32 fit the row. -/
def Row.okX (r : Row) (x : W1) (imm : Nat) : Bool :=
  x.g2 != 8 && r.xop.testBit x.xop.toNat && r.sc.testBit x.sc.toNat && (r.th || x.th == 0) &&
  r.slot.ok x && r.c.ok x.c && (imm &&& (immAny ^^^ r.imm)) == 0

/-- Step 2 of R123 for a base row. -/
def checkBase (op : Nat) (w : W0) : Bool :=
  match rowOf false op with
  | none => false
  | some r => r.base && r.okW0 w && extraBase op w

/-- Step 2 of R123 for an extended or literal row. L = 0b10 belongs to a row with a base form, L = 0b01 and 0b11 to a
row with an extended form (log entry 8). -/
def checkExt (op : Nat) (o : Ext) : Bool :=
  match rowOf true op with
  | none => false
  | some r =>
    r.okW0 o.w && r.okX o.x o.imm.toNat && extraExt op o &&
    match o.form with
    | .ext => r.ext && o.lit == 0
    | .lit => r.base && r.lit && o.w.b == 0 && o.x == {} && o.imm == 0
    | .extLit => r.ext && r.lit && o.w.b == 0

end Sys2Proof.Machine
end

