-- ==== Sys2Proof/Machine/Rows.lean ====
section
/-! DEFINITION. Which constructor stands for which row: the major opcode and the form of every core instruction
(R117-R122), in both directions. The compiler gives a constructor beyond the 245th no runtime form when it carries
operands, so what builds the last rows is marked noncomputable; the kernel evaluates it like any other definition. -/

namespace Sys2Proof.Machine

/-- An instruction as its encoding sees it: NOP, a base row, an extended row, or no core instruction. -/
inductive Raw where
  | nop
  | base (op : Nat) (w : W0)
  | ext (op : Nat) (o : Ext)
  | event
  deriving DecidableEq, Repr

/-- The row of each constructor. -/
def rawOf : Instr → Raw
  | .endInstr o => .base 0x01 o
  | .fork o => .ext 0x02 o
  | .free o => .base 0x03 o
  | .sig o => .ext 0x04 o
  | .sigv o => .ext 0x05 o
  | .arm o => .ext 0x06 o
  | .slotrd o => .ext 0x07 o
  | .roam o => .ext 0x08 o
  | .prio o => .base 0x09 o
  | .bar o => .ext 0x0A o
  | .barcfg o => .ext 0x0B o
  | .dqpush o => .base 0x0C o
  | .dqpop o => .base 0x0D o
  | .dqsteal o => .ext 0x0E o
  | .wdq o => .ext 0x0F o
  | .br o => .base 0x10 o
  | .brExt o => .ext 0x10 o
  | .jal o => .base 0x11 o
  | .jalExt o => .ext 0x11 o
  | .jalr o => .base 0x12 o
  | .jalrExt o => .ext 0x12 o
  | .dbnz o => .base 0x13 o
  | .dbnzExt o => .ext 0x13 o
  | .termw o => .ext 0x14 o
  | .cancelInstruction o => .ext 0x15 o
  | .mfs o => .base 0x16 o
  | .mts o => .base 0x17 o
  | .svc o => .base 0x18 o
  | .trap o => .base 0x19 o
  | .rfe o => .base 0x1A o
  | .brk o => .base 0x1B o
  | .waiti o => .base 0x1C o
  | .synci o => .ext 0x1D o
  | .add o => .base 0x20 o
  | .addExt o => .ext 0x20 o
  | .sub o => .base 0x21 o
  | .subExt o => .ext 0x21 o
  | .mul o => .base 0x22 o
  | .mulExt o => .ext 0x22 o
  | .mulh o => .base 0x23 o
  | .mulhExt o => .ext 0x23 o
  | .mulhn o => .base 0x24 o
  | .mulhnExt o => .ext 0x24 o
  | .div o => .base 0x25 o
  | .divExt o => .ext 0x25 o
  | .divn o => .base 0x26 o
  | .divnExt o => .ext 0x26 o
  | .rem o => .base 0x27 o
  | .remExt o => .ext 0x27 o
  | .remn o => .base 0x28 o
  | .remnExt o => .ext 0x28 o
  | .and o => .base 0x29 o
  | .andExt o => .ext 0x29 o
  | .or o => .base 0x2A o
  | .orExt o => .ext 0x2A o
  | .xor o => .base 0x2B o
  | .xorExt o => .ext 0x2B o
  | .andn o => .base 0x2C o
  | .andnExt o => .ext 0x2C o
  | .orn o => .base 0x2D o
  | .ornExt o => .ext 0x2D o
  | .shl o => .base 0x2E o
  | .shlExt o => .ext 0x2E o
  | .shr o => .base 0x2F o
  | .shrExt o => .ext 0x2F o
  | .sha o => .base 0x30 o
  | .shaExt o => .ext 0x30 o
  | .rot o => .base 0x31 o
  | .rotExt o => .ext 0x31 o
  | .min o => .base 0x32 o
  | .minExt o => .ext 0x32 o
  | .max o => .base 0x33 o
  | .maxExt o => .ext 0x33 o
  | .minn o => .base 0x34 o
  | .minnExt o => .ext 0x34 o
  | .maxn o => .base 0x35 o
  | .maxnExt o => .ext 0x35 o
  | .abs o => .base 0x36 o
  | .absExt o => .ext 0x36 o
  | .neg o => .base 0x37 o
  | .negExt o => .ext 0x37 o
  | .cmp o => .base 0x38 o
  | .cmpExt o => .ext 0x38 o
  | .sel o => .base 0x39 o
  | .selExt o => .ext 0x39 o
  | .mov o => .base 0x3A o
  | .movExt o => .ext 0x3A o
  | .clz o => .base 0x3B o
  | .clzExt o => .ext 0x3B o
  | .ctz o => .base 0x3C o
  | .ctzExt o => .ext 0x3C o
  | .ffs o => .base 0x3D o
  | .ffsExt o => .ext 0x3D o
  | .popc o => .base 0x3E o
  | .popcExt o => .ext 0x3E o
  | .brev o => .base 0x3F o
  | .brevExt o => .ext 0x3F o
  | .bfx o => .ext 0x40 o
  | .bfi o => .ext 0x41 o
  | .sext o => .base 0x42 o
  | .sextExt o => .ext 0x42 o
  | .zext o => .base 0x43 o
  | .zextExt o => .ext 0x43 o
  | .lea o => .base 0x44 o
  | .leaExt o => .ext 0x44 o
  | .madd o => .ext 0x45 o
  | .pand o => .base 0x46 o
  | .por o => .base 0x47 o
  | .pxor o => .base 0x48 o
  | .pnot o => .base 0x49 o
  | .pmov o => .base 0x4A o
  | .slice o => .base 0x4B o
  | .fadd o => .base 0x60 o
  | .faddExt o => .ext 0x60 o
  | .fsub o => .base 0x61 o
  | .fsubExt o => .ext 0x61 o
  | .fmul o => .base 0x62 o
  | .fmulExt o => .ext 0x62 o
  | .ffma o => .ext 0x63 o
  | .fdiv o => .base 0x64 o
  | .fdivExt o => .ext 0x64 o
  | .fsqrt o => .base 0x65 o
  | .fsqrtExt o => .ext 0x65 o
  | .fmin o => .base 0x66 o
  | .fminExt o => .ext 0x66 o
  | .fmax o => .base 0x67 o
  | .fmaxExt o => .ext 0x67 o
  | .fcmp o => .ext 0x68 o
  | .fcvt o => .ext 0x69 o
  | .fabs o => .base 0x6A o
  | .fneg o => .base 0x6B o
  | .fclass o => .base 0x6C o
  | .ld o => .base 0x70 o
  | .ldExt o => .ext 0x70 o
  | .st o => .base 0x71 o
  | .stExt o => .ext 0x71 o
  | .ldf o => .ext 0x72 o
  | .stf o => .base 0x73 o
  | .stfExt o => .ext 0x73 o
  | .feop o => .base 0x74 o
  | .feopExt o => .ext 0x74 o
  | .fetch o => .ext 0x75 o
  | .post o => .ext 0x76 o
  | .stn o => .ext 0x77 o
  | .drain o => .ext 0x78 o
  | .fence o => .ext 0x79 o
  | .aop o => .ext 0x7A o
  | .acas o => .ext 0x7B o
  | .bupd o => .ext 0x7C o
  | .pref o => .base 0x7D o
  | .prefExt o => .ext 0x7D o
  | .get o => .ext 0x7E o
  | .put o => .ext 0x7F o
  | .copy o => .ext 0x80 o
  | .enq o => .ext 0x81 o
  | .deq o => .base 0x82 o
  | .qcfg o => .ext 0x83 o
  | .sbind o => .ext 0x84 o
  | .sunb o => .base 0x85 o
  | .redsend o => .ext 0x86 o
  | .redcfg o => .ext 0x87 o
  | .tlbi o => .ext 0x88 o
  | .cflush o => .ext 0x89 o
  | .vadd o => .base 0xA0 o
  | .vaddExt o => .ext 0xA0 o
  | .vsub o => .base 0xA1 o
  | .vsubExt o => .ext 0xA1 o
  | .vmul o => .base 0xA2 o
  | .vmulExt o => .ext 0xA2 o
  | .vfma o => .base 0xA3 o
  | .vfmaExt o => .ext 0xA3 o
  | .vmin o => .base 0xA4 o
  | .vminExt o => .ext 0xA4 o
  | .vmax o => .base 0xA5 o
  | .vmaxExt o => .ext 0xA5 o
  | .vabs o => .base 0xA6 o
  | .vabsExt o => .ext 0xA6 o
  | .vneg o => .base 0xA7 o
  | .vnegExt o => .ext 0xA7 o
  | .vcmp o => .base 0xA8 o
  | .vcmpExt o => .ext 0xA8 o
  | .vsel o => .base 0xA9 o
  | .vselExt o => .ext 0xA9 o
  | .vand o => .base 0xAA o
  | .vandExt o => .ext 0xAA o
  | .vor o => .base 0xAB o
  | .vorExt o => .ext 0xAB o
  | .vxor o => .base 0xAC o
  | .vxorExt o => .ext 0xAC o
  | .vshl o => .base 0xAD o
  | .vshlExt o => .ext 0xAD o
  | .vshr o => .base 0xAE o
  | .vshrExt o => .ext 0xAE o
  | .viadd o => .base 0xAF o
  | .viaddExt o => .ext 0xAF o
  | .vimul o => .base 0xB0 o
  | .vimulExt o => .ext 0xB0 o
  | .vcvt o => .ext 0xB1 o
  | .vred o => .base 0xB2 o
  | .vredExt o => .ext 0xB2 o
  | .vscan o => .base 0xB3 o
  | .vscanExt o => .ext 0xB3 o
  | .vexp2 o => .base 0xB4 o
  | .vexp2Ext o => .ext 0xB4 o
  | .vlog2 o => .base 0xB5 o
  | .vlog2Ext o => .ext 0xB5 o
  | .vrcp o => .base 0xB6 o
  | .vrcpExt o => .ext 0xB6 o
  | .vrsq o => .base 0xB7 o
  | .vrsqExt o => .ext 0xB7 o
  | .vsqrt o => .base 0xB8 o
  | .vsqrtExt o => .ext 0xB8 o
  | .vsin o => .base 0xB9 o
  | .vsinExt o => .ext 0xB9 o
  | .vcos o => .base 0xBA o
  | .vcosExt o => .ext 0xBA o
  | .vtanh o => .base 0xBB o
  | .vtanhExt o => .ext 0xBB o
  | .vsigm o => .base 0xBC o
  | .vsigmExt o => .ext 0xBC o
  | .vperm o => .base 0xBD o
  | .vpermExt o => .ext 0xBD o
  | .vbcast o => .base 0xBE o
  | .vbcastExt o => .ext 0xBE o
  | .vmov o => .base 0xBF o
  | .vmovExt o => .ext 0xBF o
  | .vld o => .base 0xC0 o
  | .vldExt o => .ext 0xC0 o
  | .vst o => .base 0xC1 o
  | .vstExt o => .ext 0xC1 o
  | .vgath o => .base 0xC2 o
  | .vgathExt o => .ext 0xC2 o
  | .vscat o => .base 0xC3 o
  | .vscatExt o => .ext 0xC3 o
  | .vrand o => .base 0xC4 o
  | .vrandExt o => .ext 0xC4 o
  | .vqnt o => .ext 0xC5 o
  | .vdot o => .base 0xC6 o
  | .vdotExt o => .ext 0xC6 o
  | .tld o => .ext 0xD0 o
  | .tacld o => .ext 0xD1 o
  | .tacst o => .ext 0xD2 o
  | .tacz o => .base 0xD3 o
  | .tmma o => .ext 0xD4 o
  | .tmmas o => .ext 0xD5 o
  | .tmmsp o => .ext 0xD6 o
  | .spcomp o => .ext 0xD7 o
  | .spinv o => .base 0xD8 o
  | .tcvt o => .ext 0xD9 o
  | .tred o => .ext 0xDA o
  | .tnorm o => .ext 0xDB o
  | .tsmax o => .ext 0xDC o
  | .ttrn o => .ext 0xDD o
  | .tmask o => .ext 0xDE o
  | .tadd o => .ext 0xDF o
  | .shld o => .ext 0xE0 o
  | .shinv o => .base 0xE1 o
  | .shbnd o => .ext 0xE2 o
  | .rgld o => .ext 0xE3 o
  | .texlog o => .base 0xE4 o
  | .nop => .nop
  | .nopc _ => .event
  | .loadw _ => .event
  | .loadwUnload _ => .event
  | .gatesOpen _ => .event
  | .gatesClose _ => .event
  | .arrive _ => .event
  | .waitq _ => .event
  | .signal _ => .event
  | .swap _ => .event
  | .swapRestore _ => .event
  | .cancel _ => .event
  | .cancelClr _ => .event
  | .fencec _ => .event
  | .stamp _ => .event
  | .packetAccept _ => .event
  | .packetComplete _ => .event
  | .packetAging _ => .event
  | .leaseRenew _ => .event
  | .leaseCheck _ => .event
  | .debugRead _ _ => .event
  | .debugWrite _ _ _ => .event
  | .debugAttest _ _ _ => .event
  | .windowWrite _ _ _ => .event
  | .errorWordClear _ _ => .event
  | .qctlEnable _ _ _ => .event
  | .qctlResumeRetry _ _ _ => .event
  | .qctlResumeSkip _ _ _ => .event
  | .hostWindowAccess _ _ _ => .event
  | .powerOnReset => .event
  | .bootVerify _ => .event
  | .hbmTraining _ => .event
  | .clusterPowerUp _ => .event
  | .keyLoad _ _ _ => .event
  | .sliceConfigurationWrite _ _ => .event
  | .i3cRead _ => .event
  | .i3cResetRequest => .event
  | .i3cDynamicAddressAssignment _ => .event
  | .thermalAlarm _ => .event
  | .arrival _ => .event
  | .armMessage _ => .event
  | .freeMessage _ => .event
  | .forkRequest _ => .event
  | .roamArrival _ => .event
  | .backlogServe _ => .event
  | .spillComplete _ _ => .event
  | .fillComplete _ _ => .event
  | .firingIssue _ => .event
  | .promotion _ _ => .event
  | .cancelAcknowledge _ => .event
  | .unloadAcknowledge _ => .event
  | .watermarkReport _ => .event
  | .enqArrival _ => .event
  | .steal _ => .event
  | .tensorRow _ => .event
  | .copyPiece _ => .event
  | .copyAging _ _ => .event
  | .streamGroup _ => .event
  | .rowWaitTimeout _ _ => .event
  | .ldfTimeout _ _ => .event
  | .remoteTimeout _ _ => .event
  | .globalAccess _ => .event
  | .lineFill _ _ => .event
  | .faultRecord _ => .event
  | .faultReplyResume _ => .event
  | .faultReplyAbort _ => .event
  | .heldAccessRelease _ _ => .event
  | .storeAcknowledge _ => .event
  | .storeRefusal _ => .event
  | .watchAdvance _ => .event
  | .scrub _ => .event
  | .prismServe _ => .event
  | .prismCompile _ => .event
  | .beaconOpen _ => .event
  | .beaconNext _ => .event
  | .beaconClose _ => .event
  | .treeEntryWrite _ => .event
  | .reductionDelivery _ => .event
  | .reductionTimeout _ _ => .event
  | .duskSample _ _ => .event
  | .livelockWindow _ _ => .event
  | .recordedTrapEntry _ => .event
  | .preempt _ => .event
  | .clusterFence _ => .event
  | .blockClaim _ _ => .event
  | .stepctlHalt _ => .event
  | .stepctlGo _ => .event
  | .stepctlStep _ => .event
  | .stepctlRelh _ => .event
  | .loadAcknowledgement _ => .event
  | .softError _ _ => .event
  | .hostMemoryAcceptance _ => .event
  | .remoteAcknowledgement _ _ _ _ => .event

/-- The base row of opcodes 0x00 to 0x1F. -/
def ofBase0 (w : W0) : Nat → Option Instr
  | 0x01 => some (.endInstr w)
  | 0x03 => some (.free w)
  | 0x09 => some (.prio w)
  | 0x0C => some (.dqpush w)
  | 0x0D => some (.dqpop w)
  | 0x10 => some (.br w)
  | 0x11 => some (.jal w)
  | 0x12 => some (.jalr w)
  | 0x13 => some (.dbnz w)
  | 0x16 => some (.mfs w)
  | 0x17 => some (.mts w)
  | 0x18 => some (.svc w)
  | 0x19 => some (.trap w)
  | 0x1A => some (.rfe w)
  | 0x1B => some (.brk w)
  | 0x1C => some (.waiti w)
  | _ => none

/-- The base row of opcodes 0x20 to 0x5F. -/
def ofBase1 (w : W0) : Nat → Option Instr
  | 0x20 => some (.add w)
  | 0x21 => some (.sub w)
  | 0x22 => some (.mul w)
  | 0x23 => some (.mulh w)
  | 0x24 => some (.mulhn w)
  | 0x25 => some (.div w)
  | 0x26 => some (.divn w)
  | 0x27 => some (.rem w)
  | 0x28 => some (.remn w)
  | 0x29 => some (.and w)
  | 0x2A => some (.or w)
  | 0x2B => some (.xor w)
  | 0x2C => some (.andn w)
  | 0x2D => some (.orn w)
  | 0x2E => some (.shl w)
  | 0x2F => some (.shr w)
  | 0x30 => some (.sha w)
  | 0x31 => some (.rot w)
  | 0x32 => some (.min w)
  | 0x33 => some (.max w)
  | 0x34 => some (.minn w)
  | 0x35 => some (.maxn w)
  | 0x36 => some (.abs w)
  | 0x37 => some (.neg w)
  | 0x38 => some (.cmp w)
  | 0x39 => some (.sel w)
  | 0x3A => some (.mov w)
  | 0x3B => some (.clz w)
  | 0x3C => some (.ctz w)
  | 0x3D => some (.ffs w)
  | 0x3E => some (.popc w)
  | 0x3F => some (.brev w)
  | 0x42 => some (.sext w)
  | 0x43 => some (.zext w)
  | 0x44 => some (.lea w)
  | 0x46 => some (.pand w)
  | 0x47 => some (.por w)
  | 0x48 => some (.pxor w)
  | 0x49 => some (.pnot w)
  | 0x4A => some (.pmov w)
  | 0x4B => some (.slice w)
  | _ => none

/-- The base row of opcodes 0x60 to 0x6F. -/
def ofBase2 (w : W0) : Nat → Option Instr
  | 0x60 => some (.fadd w)
  | 0x61 => some (.fsub w)
  | 0x62 => some (.fmul w)
  | 0x64 => some (.fdiv w)
  | 0x65 => some (.fsqrt w)
  | 0x66 => some (.fmin w)
  | 0x67 => some (.fmax w)
  | 0x6A => some (.fabs w)
  | 0x6B => some (.fneg w)
  | 0x6C => some (.fclass w)
  | _ => none

/-- The base row of opcodes 0x70 to 0x9F. -/
def ofBase3 (w : W0) : Nat → Option Instr
  | 0x70 => some (.ld w)
  | 0x71 => some (.st w)
  | 0x73 => some (.stf w)
  | 0x74 => some (.feop w)
  | 0x7D => some (.pref w)
  | 0x82 => some (.deq w)
  | 0x85 => some (.sunb w)
  | _ => none

/-- The base row of opcodes 0xA0 to 0xCF. -/
def ofBase4 (w : W0) : Nat → Option Instr
  | 0xA0 => some (.vadd w)
  | 0xA1 => some (.vsub w)
  | 0xA2 => some (.vmul w)
  | 0xA3 => some (.vfma w)
  | 0xA4 => some (.vmin w)
  | 0xA5 => some (.vmax w)
  | 0xA6 => some (.vabs w)
  | 0xA7 => some (.vneg w)
  | 0xA8 => some (.vcmp w)
  | 0xA9 => some (.vsel w)
  | 0xAA => some (.vand w)
  | 0xAB => some (.vor w)
  | 0xAC => some (.vxor w)
  | 0xAD => some (.vshl w)
  | 0xAE => some (.vshr w)
  | 0xAF => some (.viadd w)
  | 0xB0 => some (.vimul w)
  | 0xB2 => some (.vred w)
  | 0xB3 => some (.vscan w)
  | 0xB4 => some (.vexp2 w)
  | 0xB5 => some (.vlog2 w)
  | 0xB6 => some (.vrcp w)
  | 0xB7 => some (.vrsq w)
  | 0xB8 => some (.vsqrt w)
  | 0xB9 => some (.vsin w)
  | 0xBA => some (.vcos w)
  | 0xBB => some (.vtanh w)
  | 0xBC => some (.vsigm w)
  | 0xBD => some (.vperm w)
  | 0xBE => some (.vbcast w)
  | 0xBF => some (.vmov w)
  | 0xC0 => some (.vld w)
  | 0xC1 => some (.vst w)
  | 0xC2 => some (.vgath w)
  | 0xC3 => some (.vscat w)
  | 0xC4 => some (.vrand w)
  | 0xC6 => some (.vdot w)
  | _ => none

/-- The base row of opcodes 0xD0 to 0xFF. -/
noncomputable def ofBase5 (w : W0) : Nat → Option Instr
  | 0xD3 => some (.tacz w)
  | 0xD8 => some (.spinv w)
  | 0xE1 => some (.shinv w)
  | 0xE4 => some (.texlog w)
  | _ => none

/-- The base row of an opcode. -/
noncomputable def ofBase (op : Nat) (w : W0) : Option Instr :=
  if op < 0x20 then ofBase0 w op
  else if op < 0x60 then ofBase1 w op
  else if op < 0x70 then ofBase2 w op
  else if op < 0xA0 then ofBase3 w op
  else if op < 0xD0 then ofBase4 w op
  else ofBase5 w op

/-- The extended row of opcodes 0x00 to 0x1F. -/
def ofExt0 (o : Ext) : Nat → Option Instr
  | 0x02 => some (.fork o)
  | 0x04 => some (.sig o)
  | 0x05 => some (.sigv o)
  | 0x06 => some (.arm o)
  | 0x07 => some (.slotrd o)
  | 0x08 => some (.roam o)
  | 0x0A => some (.bar o)
  | 0x0B => some (.barcfg o)
  | 0x0E => some (.dqsteal o)
  | 0x0F => some (.wdq o)
  | 0x10 => some (.brExt o)
  | 0x11 => some (.jalExt o)
  | 0x12 => some (.jalrExt o)
  | 0x13 => some (.dbnzExt o)
  | 0x14 => some (.termw o)
  | 0x15 => some (.cancelInstruction o)
  | 0x1D => some (.synci o)
  | _ => none

/-- The extended row of opcodes 0x20 to 0x5F. -/
def ofExt1 (o : Ext) : Nat → Option Instr
  | 0x20 => some (.addExt o)
  | 0x21 => some (.subExt o)
  | 0x22 => some (.mulExt o)
  | 0x23 => some (.mulhExt o)
  | 0x24 => some (.mulhnExt o)
  | 0x25 => some (.divExt o)
  | 0x26 => some (.divnExt o)
  | 0x27 => some (.remExt o)
  | 0x28 => some (.remnExt o)
  | 0x29 => some (.andExt o)
  | 0x2A => some (.orExt o)
  | 0x2B => some (.xorExt o)
  | 0x2C => some (.andnExt o)
  | 0x2D => some (.ornExt o)
  | 0x2E => some (.shlExt o)
  | 0x2F => some (.shrExt o)
  | 0x30 => some (.shaExt o)
  | 0x31 => some (.rotExt o)
  | 0x32 => some (.minExt o)
  | 0x33 => some (.maxExt o)
  | 0x34 => some (.minnExt o)
  | 0x35 => some (.maxnExt o)
  | 0x36 => some (.absExt o)
  | 0x37 => some (.negExt o)
  | 0x38 => some (.cmpExt o)
  | 0x39 => some (.selExt o)
  | 0x3A => some (.movExt o)
  | 0x3B => some (.clzExt o)
  | 0x3C => some (.ctzExt o)
  | 0x3D => some (.ffsExt o)
  | 0x3E => some (.popcExt o)
  | 0x3F => some (.brevExt o)
  | 0x40 => some (.bfx o)
  | 0x41 => some (.bfi o)
  | 0x42 => some (.sextExt o)
  | 0x43 => some (.zextExt o)
  | 0x44 => some (.leaExt o)
  | 0x45 => some (.madd o)
  | _ => none

/-- The extended row of opcodes 0x60 to 0x6F. -/
def ofExt2 (o : Ext) : Nat → Option Instr
  | 0x60 => some (.faddExt o)
  | 0x61 => some (.fsubExt o)
  | 0x62 => some (.fmulExt o)
  | 0x63 => some (.ffma o)
  | 0x64 => some (.fdivExt o)
  | 0x65 => some (.fsqrtExt o)
  | 0x66 => some (.fminExt o)
  | 0x67 => some (.fmaxExt o)
  | 0x68 => some (.fcmp o)
  | 0x69 => some (.fcvt o)
  | _ => none

/-- The extended row of opcodes 0x70 to 0x9F. -/
def ofExt3 (o : Ext) : Nat → Option Instr
  | 0x70 => some (.ldExt o)
  | 0x71 => some (.stExt o)
  | 0x72 => some (.ldf o)
  | 0x73 => some (.stfExt o)
  | 0x74 => some (.feopExt o)
  | 0x75 => some (.fetch o)
  | 0x76 => some (.post o)
  | 0x77 => some (.stn o)
  | 0x78 => some (.drain o)
  | 0x79 => some (.fence o)
  | 0x7A => some (.aop o)
  | 0x7B => some (.acas o)
  | 0x7C => some (.bupd o)
  | 0x7D => some (.prefExt o)
  | 0x7E => some (.get o)
  | 0x7F => some (.put o)
  | 0x80 => some (.copy o)
  | 0x81 => some (.enq o)
  | 0x83 => some (.qcfg o)
  | 0x84 => some (.sbind o)
  | 0x86 => some (.redsend o)
  | 0x87 => some (.redcfg o)
  | 0x88 => some (.tlbi o)
  | 0x89 => some (.cflush o)
  | _ => none

/-- The extended row of opcodes 0xA0 to 0xCF. -/
def ofExt4 (o : Ext) : Nat → Option Instr
  | 0xA0 => some (.vaddExt o)
  | 0xA1 => some (.vsubExt o)
  | 0xA2 => some (.vmulExt o)
  | 0xA3 => some (.vfmaExt o)
  | 0xA4 => some (.vminExt o)
  | 0xA5 => some (.vmaxExt o)
  | 0xA6 => some (.vabsExt o)
  | 0xA7 => some (.vnegExt o)
  | 0xA8 => some (.vcmpExt o)
  | 0xA9 => some (.vselExt o)
  | 0xAA => some (.vandExt o)
  | 0xAB => some (.vorExt o)
  | 0xAC => some (.vxorExt o)
  | 0xAD => some (.vshlExt o)
  | 0xAE => some (.vshrExt o)
  | 0xAF => some (.viaddExt o)
  | 0xB0 => some (.vimulExt o)
  | 0xB1 => some (.vcvt o)
  | 0xB2 => some (.vredExt o)
  | 0xB3 => some (.vscanExt o)
  | 0xB4 => some (.vexp2Ext o)
  | 0xB5 => some (.vlog2Ext o)
  | 0xB6 => some (.vrcpExt o)
  | 0xB7 => some (.vrsqExt o)
  | 0xB8 => some (.vsqrtExt o)
  | 0xB9 => some (.vsinExt o)
  | 0xBA => some (.vcosExt o)
  | 0xBB => some (.vtanhExt o)
  | 0xBC => some (.vsigmExt o)
  | 0xBD => some (.vpermExt o)
  | 0xBE => some (.vbcastExt o)
  | 0xBF => some (.vmovExt o)
  | 0xC0 => some (.vldExt o)
  | 0xC1 => some (.vstExt o)
  | 0xC2 => some (.vgathExt o)
  | 0xC3 => some (.vscatExt o)
  | 0xC4 => some (.vrandExt o)
  | 0xC5 => some (.vqnt o)
  | 0xC6 => some (.vdotExt o)
  | _ => none

/-- The extended row of opcodes 0xD0 to 0xFF. -/
noncomputable def ofExt5 (o : Ext) : Nat → Option Instr
  | 0xD0 => some (.tld o)
  | 0xD1 => some (.tacld o)
  | 0xD2 => some (.tacst o)
  | 0xD4 => some (.tmma o)
  | 0xD5 => some (.tmmas o)
  | 0xD6 => some (.tmmsp o)
  | 0xD7 => some (.spcomp o)
  | 0xD9 => some (.tcvt o)
  | 0xDA => some (.tred o)
  | 0xDB => some (.tnorm o)
  | 0xDC => some (.tsmax o)
  | 0xDD => some (.ttrn o)
  | 0xDE => some (.tmask o)
  | 0xDF => some (.tadd o)
  | 0xE0 => some (.shld o)
  | 0xE2 => some (.shbnd o)
  | 0xE3 => some (.rgld o)
  | _ => none

/-- The extended row of an opcode. -/
noncomputable def ofExt (op : Nat) (o : Ext) : Option Instr :=
  if op < 0x20 then ofExt0 o op
  else if op < 0x60 then ofExt1 o op
  else if op < 0x70 then ofExt2 o op
  else if op < 0xA0 then ofExt3 o op
  else if op < 0xD0 then ofExt4 o op
  else ofExt5 o op

end Sys2Proof.Machine
end

