-- ==== Sys2Proof/WellFormed.lean ====
section
/-! DEFINITION. Which instructions are well formed: a core instruction's fields pass step 2 of R123 under the tables
R117 to R122; a command or an event names units that exist (R2, R3). -/

namespace Sys2Proof.Machine

/-- A core id {die[11:10], cluster[9:5], core[4:0]} that exists (R30, R97). -/
def validCore (c : Nat) : Bool := decide (c < 4096) && decide (bits c 9 5 < 24) && decide (bits c 4 0 < 24)

/-- The units a command or an event names exist. -/
def checkEvent : Instr → Bool
  | .nopc q => decide (q < 4096) | .loadw q => decide (q < 4096) | .loadwUnload q => decide (q < 4096)
  | .gatesOpen q => decide (q < 4096) | .gatesClose q => decide (q < 4096) | .arrive q => decide (q < 4096)
  | .waitq q => decide (q < 4096) | .signal q => decide (q < 4096) | .swap q => decide (q < 4096)
  | .swapRestore q => decide (q < 4096) | .cancel q => decide (q < 4096) | .cancelClr q => decide (q < 4096)
  | .fencec q => decide (q < 4096) | .stamp q => decide (q < 4096) | .packetAccept q => decide (q < 4096)
  | .packetComplete q => decide (q < 4096) | .packetAging q => decide (q < 4096)
  | .qctlEnable _ q _ => decide (q < 4096) | .qctlResumeRetry _ q _ => decide (q < 4096)
  | .qctlResumeSkip _ q _ => decide (q < 4096)
  | .leaseRenew d => decide (d < 4) | .leaseCheck d => decide (d < 4) | .bootVerify d => decide (d < 4)
  | .thermalAlarm d => decide (d < 4) | .duskSample d _ => decide (d < 4)
  | .livelockWindow r d => decide (r < 96) && decide (d < 4)
  | .hbmTraining s => decide (s < 12) | .keyLoad d i _ => decide (d < 4) && decide (i < 256)
  | .sliceConfigurationWrite s _ => decide (s < 256) | .ldfTimeout s _ => decide (s < 256)
  | .lineFill s _ => decide (s < 256) | .heldAccessRelease s _ => decide (s < 256)
  | .clusterPowerUp c => decide (c < 96) | .prismCompile c => decide (c < 96)
  | .reductionTimeout c t => decide (c < 96) && decide (t < 64) | .clusterFence c => decide (c < 96)
  | .backlogServe c => validCore c | .spillComplete c _ => validCore c | .fillComplete c _ => validCore c
  | .firingIssue c => validCore c | .promotion c l => validCore c && decide (l < 3)
  | .unloadAcknowledge c => validCore c | .tensorRow c => validCore c | .copyPiece c => validCore c
  | .copyAging c _ => validCore c | .streamGroup c => validCore c | .rowWaitTimeout c _ => validCore c
  | .remoteTimeout c _ => validCore c | .recordedTrapEntry c => validCore c | .preempt c => validCore c
  | .blockClaim c b => validCore c && decide (b < 256)
  | .stepctlHalt c => validCore c | .stepctlGo c => validCore c | .stepctlStep c => validCore c
  | .stepctlRelh c => validCore c | .loadAcknowledgement c => validCore c
  | .remoteAcknowledgement c _ _ _ => validCore c
  | _ => true

end Sys2Proof.Machine

namespace Sys2Proof

/-- The instruction is well formed. -/
def Instr.wf (i : Instr) : Bool :=
  match Machine.rawOf i with
  | .nop => true
  | .base op w => Machine.checkBase op w
  | .ext op o => Machine.checkExt op o
  | .event => Machine.checkEvent i

end Sys2Proof
end

