-- ==== Sys2Proof/Decode.lean ====
section
/-! DEFINITION. Decoding, total on any words, and after it the encoder, both from R100 to R103. The constructors'
rows stand in Machine/Rows.lean, the tables in Machine/Encoding.lean. -/

namespace Sys2Proof

/-- Why a word sequence is no instruction. -/
inductive DecodeError where
  /-- A word of the instruction is missing: cause 0x05 (R100). -/
  | truncated
  /-- The major opcode is unassigned, reserved, or 0x00 with a nonzero field: cause 0x01 (R124). -/
  | unassigned (op : Nat)
  /-- The length, a code or a field is not one the row permits: cause 0x01 (R124). -/
  | illegalField (op : Nat)
  deriving DecidableEq, Repr

/-- The fields of word 0 (R101). -/
def w0Of (w : Word32) : W0 :=
  { g := w.extractLsb' 28 4, m := w.extractLsb' 25 3, b := w.extractLsb' 20 5,
    a := w.extractLsb' 15 5, d := w.extractLsb' 10 5 }

/-- OP of word 0. -/
def opOf (w : Word32) : Nat := (w.extractLsb' 2 8).toNat

/-- L of word 0. -/
def lenOf (w : Word32) : BitVec 2 := w.extractLsb' 0 2

/-- The fields of word 1 (R102). -/
def w1Of (w : Word32) : W1 :=
  { xop := w.extractLsb' 28 4, sr := w.extractLsb' 27 1, sl := w.extractLsb' 24 3, sc := w.extractLsb' 21 3,
    th := w.extractLsb' 19 2, g2 := w.extractLsb' 15 4, f := w.extractLsb' 10 5, e := w.extractLsb' 5 5,
    c := w.extractLsb' 0 5 }

/-- The number of words of an instruction whose word 0 is w (R100). -/
def wordCount (w : Word32) : Nat :=
  match (lenOf w).toNat with
  | 0 => 1
  | 1 => 3
  | 2 => 3
  | _ => 5

/-- Step 2 of R123 failed: which name the rejection has. -/
def rejectOp (ext : Bool) (op : Nat) : DecodeError :=
  match Machine.rowOf ext op with
  | none => .unassigned op
  | some _ => .illegalField op

/-- A base row. -/
noncomputable def decodeBase (op : Nat) (w : W0) : Except DecodeError Instr :=
  match Machine.checkBase op w, Machine.ofBase op w with
  | true, some i => .ok i
  | _, _ => .error (rejectOp false op)

/-- An extended or literal row. -/
noncomputable def decodeExt (op : Nat) (o : Ext) : Except DecodeError Instr :=
  match Machine.checkExt op o, Machine.ofExt op o with
  | true, some i => .ok i
  | _, _ => .error (rejectOp true op)

/-- The instruction at the head of a word sequence (R100, R123 step 2). -/
noncomputable def decode : List Word32 → Except DecodeError Instr
  | [] => .error .truncated
  | w :: rest =>
    if w = 0 then .ok .nop
    else match (lenOf w).toNat, rest with
    | 0, _ => decodeBase (opOf w) (w0Of w)
    | 1, x :: imm :: _ => decodeExt (opOf w) { form := .ext, w := w0Of w, x := w1Of x, imm := imm, lit := 0 }
    | 2, lo :: hi :: _ => decodeExt (opOf w) { form := .lit, w := w0Of w, x := {}, imm := 0, lit := hi ++ lo }
    | 3, x :: imm :: lo :: hi :: _ =>
      decodeExt (opOf w) { form := .extLit, w := w0Of w, x := w1Of x, imm := imm, lit := hi ++ lo }
    | _, _ => .error .truncated

/-- Words from bytes at ascending addresses, each word little-endian (R7, R100). -/
def wordsOfBytes : List Byte → List Word32
  | b0 :: b1 :: b2 :: b3 :: rest => (b3 ++ b2 ++ b1 ++ b0) :: wordsOfBytes rest
  | _ => []

/-- The four bytes of a word, lowest address first. -/
def bytesOfWord (w : Word32) : List Byte :=
  [w.extractLsb' 0 8, w.extractLsb' 8 8, w.extractLsb' 16 8, w.extractLsb' 24 8]

/-- Word 0 from its fields (R101). -/
def word0 (op : Nat) (l : BitVec 2) (w : W0) : Word32 :=
  w.g ++ w.m ++ w.b ++ w.a ++ w.d ++ BitVec.ofNat 8 op ++ l

/-- Word 1 from its fields (R102). -/
def word1 (x : W1) : Word32 :=
  x.xop ++ x.sr ++ x.sl ++ x.sc ++ x.th ++ x.g2 ++ x.f ++ x.e ++ x.c

/-- The words of an extended or literal row (R100, R103). -/
def encodeExt (op : Nat) (o : Ext) : List Word32 :=
  let lo := o.lit.extractLsb' 0 32
  let hi := o.lit.extractLsb' 32 32
  match o.form with
  | .ext => [word0 op 1 o.w, word1 o.x, o.imm]
  | .lit => [word0 op 2 o.w, lo, hi]
  | .extLit => [word0 op 3 o.w, word1 o.x, o.imm, lo, hi]

/-- The words of a core instruction; none for a command or an event, which has no encoding. -/
def encode (i : Instr) : List Word32 :=
  match Machine.rawOf i with
  | .nop => [0]
  | .base op w => [word0 op 0 w]
  | .ext op o => encodeExt op o
  | .event => []

/-- The instruction has an encoding. -/
def Instr.isCore (i : Instr) : Bool := decide (Machine.rawOf i ≠ .event)

/-- The length in bytes of a core instruction (R100). -/
def Instr.len (i : Instr) : Nat := 4 * (encode i).length

/-- What the decoder reads from an instruction whose bits, numbered as the opcode table numbers them, are w; every
bit from nbits on is zero, up to the longest instruction of five words. -/
noncomputable def decodeTableWord (nbits w : Nat) : Option Instr :=
  let v := w % 2 ^ nbits
  let words := (List.range 5).map (fun i => BitVec.ofNat 32 (v >>> (32 * i)))
  match decode (wordsOfBytes (words.flatMap bytesOfWord)) with
  | .ok i => some i
  | .error _ => none

end Sys2Proof
end

