-- ==== Sys2Proof/Config.lean ====
section
/-! DEFINITION. What the spec leaves to the device: every constant here is opaque and has no body, so nothing can
evaluate it and a claim that holds, holds whatever its value is (assumption log, entry 3). -/

namespace Sys2Proof

/-- An AES-256-XTS key pair (R351): one drawn from the random source at the `boot`-th power-on for slot `id`, or
the 512 bits that firmware loaded. -/
inductive KeyPair where
  | drawn (boot id : Nat)
  | loaded (bits : Line)
  deriving DecidableEq, Repr

namespace Config

/-- By how many front-end cycles a die's FETIME lags the common reference: at most 4 (R78). -/
opaque feSkew : Nat → Fin 5
/-- The 512 bits of a key pair that the base dies' random source gives (R351): at which power-on, for which slot. -/
opaque drawnPair : Nat → Nat → Line
/-- Which of the FP32 values within the bound of R248 a special function gives, away from the exact cases of R249: counted from
the lowest one, modulo their number; opcode, type code, operand bits. -/
opaque specialFn : Nat → Nat → Nat → Nat
/-- The module's serial number (R92). -/
opaque serial : Word
/-- SHA-256 of the public key that a die's firmware is verified against, fused in the die (R90). -/
opaque fusedKey : Nat → BitVec 256
/-- The 3,072-bit block that an RSA-3072 signature over a digest has to give (R90): the spec names no padding scheme. -/
opaque signatureBlock : BitVec 256 → BitVec 3072
/-- RSA-3072 signature, under the module's identity key, over a report's digest (R92). -/
opaque signature : BitVec 256 → BitVec 3072
/-- What CORE_ID reads on the firmware core of a die, which no core id names (R97; assumption log, entry 61). -/
opaque fwCoreId : Nat → BitVec 12
/-- How the debug service and I3C show what the spec gives no code for: 0 a die's boot status (0 not verified, 1 verified, 2
failed; R66, R94), 1 the KIND of an accumulator (0 NONE, 1 FP32, 2 TRI; R66). -/
opaque code : Nat → Nat → Word
/-- Which of two rules of the spec that disagree the device follows for the bank operations (AOP, ACAS) of one core on a line of a page that
is not strongly ordered: R325, by which nothing orders those on one word, or R362, which keeps a core's accesses to one line in
order (assumption log, entry 60). -/
opaque bankLoose : Bool
/-- A byte of the part of a save area whose arrangement is not an interface (R432, R433): how many free values were drawn
before, and its place there. -/
opaque imageByte : Nat → Nat → Byte
/-- A value that the spec leaves undefined, drawn afresh: how many free values were drawn before. -/
opaque freeValue : Nat → Word

end Config
end Sys2Proof
end

