-- ==== Sys2Proof/Machine/Sparse.lean ====
section
/-! DEFINITION. Sparse tables: a list of (key, value) pairs in one canonical form, keys strictly rising and no entry
equal to what an unlisted key reads as (assumption log, entry 5). Memories, register files and the tables of the
machine's many like units are held so, since their sizes run from 8 to 2^40. -/

namespace Sys2Proof.Machine

/-- A sparse table over Nat keys. -/
abbrev Sparse (β : Type) := List (Nat × β)

/-- What key k reads as, d being what an unlisted key reads as. -/
def Sparse.get {β : Type} (d : β) : Sparse β → Nat → β
  | [], _ => d
  | (k, v) :: t, i => if i < k then d else if i = k then v else Sparse.get d t i

/-- The table without the leading entries at keys up to i. -/
def Sparse.after {β : Type} : Sparse β → Nat → Sparse β
  | [], _ => []
  | (k, v) :: t, i => if k ≤ i then Sparse.after t i else (k, v) :: t

/-- The table with key i reading as v; writing d removes the entry. -/
def Sparse.set {β : Type} [DecidableEq β] (d : β) : Sparse β → Nat → β → Sparse β
  | [], i, v => if v = d then [] else [(i, v)]
  | (k, w) :: t, i, v =>
    if i < k then (if v = d then (k, w) :: t else (i, v) :: (k, w) :: t)
    else if i = k then (if v = d then Sparse.after t i else (k, v) :: t)
    else (k, w) :: Sparse.set d t i v

/-- Every listed value changed by f, entries that come to equal d dropped. -/
def Sparse.mapV {β : Type} [DecidableEq β] (d : β) (f : Nat → β → β) : Sparse β → Sparse β
  | [] => []
  | (k, v) :: t => if f k v = d then Sparse.mapV d f t else (k, f k v) :: Sparse.mapV d f t

/-- Every key of the table is above lo. -/
def Sparse.above {β : Type} (lo : Nat) : Sparse β → Bool
  | [] => true
  | (k, _) :: _ => decide (lo < k)

/-- The canonical form: keys strictly rise, and no entry holds d. -/
def Sparse.wf {β : Type} [DecidableEq β] (d : β) : Sparse β → Bool
  | [] => true
  | (k, v) :: t => decide (v ≠ d) && Sparse.above k t && Sparse.wf d t

end Sys2Proof.Machine
end

