-- ==== Sys2Proof/Machine/Parts.lean ====
section
/-! DEFINITION. The parts State is made of: messages, the state of a core and of its engines, of slices, routers,
Prisms, Beacons, queues and regions. Plain data throughout. Handles, core ids, addresses and counts that nothing
masks as a word are numbers; register contents are bit vectors. -/

namespace Sys2Proof.Machine

/-- The channels of the network (R2, R53). -/
inductive Chan where
  | request | reply | signal | reduce
  deriving DecidableEq, Repr

/-- Who sends or receives a message. -/
inductive Agent where
  | core (c : Nat) | slice (s : Nat) | router (cl : Nat) | prism (cl : Nat)
  | beacon (die : Nat) | dusk (die : Nat) | frontEnd | host | remote
  /-- The engines of a core, whose completions nothing orders with its threadlets' messages (R371). -/
  | engine (c : Nat)
  deriving DecidableEq, Repr

/-- Where a split-phase operation completes (R36, R136): handle, slot, status offset (0 for none), and the core
that issued it with its region. -/
structure Ref where
  handle : Nat := 0
  slot : Nat := 0
  stoff : Nat := 0
  origin : Nat := 0
  region : Option Nat := none
  deriving DecidableEq, Repr

/-- An arrival at a slot (R294) with what travels with it (R138, R419): deposits as (byte offset, value) pairs, the
status word, writes to scratchpads as (core, local address, bytes), the sender and channel for ORPHLOG (R445), and
what the dusk detector counts (R414). -/
structure Arrival where
  handle : Nat := 0
  slot : Nat := 0
  n : Nat := 1
  deposits : List (Nat × Nat) := []
  status : Option (Nat × Nat) := none
  scratch : List (Nat × Nat × List Byte) := []
  /-- Floating-point flags that a reduction brings to its root core (R401). -/
  flags : Nat := 0
  src : Nat := 0xFFF
  chan : Chan := .signal
  /-- Number of counted events, and the core at which EMIT was counted (R414). -/
  absorb : Nat := 0
  origin : Nat := 0xFFF
  /-- It completes a split-phase operation (R136). -/
  op : Bool := false
  /-- The completion of an ENQ, or of a stream, with status 1 (R404). -/
  refusal : Bool := false
  /-- The region it is addressed to (R56). -/
  region : Option Nat := none
  /-- The queue whose ARRIVE it is, and the JOB that the root frame takes from it, 0 for none (R20, R77). -/
  queue : Option Nat := none
  job : Nat := 0
  deriving DecidableEq, Repr

/-- What a global access does (R120, R341). -/
inductive AccKind where
  | fetch | ldf | post | stf | stn | feop (full : Bool) | aop (op : Nat) | acas | ifetch | hostRead | hostWrite
  /-- The shape cache of the issuing core works on its operation of this number (R286, R288). -/
  | shape (id : Nat)
  /-- A line that PREF brings in (R213). -/
  | pref
  /-- A TLBI waits for the accesses it marked (R230). -/
  | tlbi
  deriving DecidableEq, Repr

/-- A global access on its way to, or waiting at, its home slice (R332). -/
structure Access where
  kind : AccKind := .fetch
  core : Nat := 0
  va : Nat := 0
  size : Nat := 1
  asid : Nat := 0
  /-- Data of a store or of a host write; operand b of AOP; expected, then new value of ACAS. -/
  data : List Byte := []
  b : Nat := 0
  c : Nat := 0
  ref : Option Ref := none
  /-- Local address that receives what is read; none to discard. -/
  dst : Option Nat := none
  acq : Bool := false
  rel : Bool := false
  scope : Nat := 0
  th : Nat := 0
  /-- Journal entry of a posted store (R205). -/
  entry : Nat := 0
  epc : Nat := 0
  handle : Nat := 0
  region : Option Nat := none
  /-- Threadlet serial and order tag (R446); of an access of the host, its number in issue order as the tag (R63). -/
  tid : Nat := 0
  tag : Nat := 0
  /-- It was parked, and RESUME let it go on (R347). -/
  resumed : Bool := false
  /-- When it was parked on an empty line (R200). -/
  since : Nat := 0
  /-- The leaf that translated it, once it is parked on an empty line, on its way to the host or to a reply window (R230, R348). -/
  leaf : Nat := 0
  /-- The TLBIs that wait for it, by issuing core and number (R230), and the FENCECs, by 8192 + queue and sequence number (R77). -/
  marks : List (Nat × Nat) := []
  deriving DecidableEq, Repr

/-- The engines whose pieces reach memory, for parking and fault records (R345, R425). -/
inductive Engine where
  | copy | vector | shape | tensor | prism | beacon
  deriving DecidableEq, Repr

/-- A contribution or a child router's packet (R228, R400), by its input: cores 0 to 23, then north, east, south, west;
`tmo` holds a timeout word (R402). -/
structure RedPacket where
  input : Nat := 0
  op : Nat := 0
  vt : Nat := 0
  elems : List Nat := []
  flags : Nat := 0
  tmo : Option Nat := none
  fromCluster : Nat := 0
  epc : Nat := 0
  handle : Nat := 0
  deriving DecidableEq, Repr

/-- A query to Beacon (R157, R407). -/
structure BeaconQuery where
  core : Nat := 0
  merge : Bool := false
  query : Nat := 0
  dst : Nat := 0
  asid : Nat := 0
  epc : Nat := 0
  handle : Nat := 0
  ref : Ref := {}
  resumed : Bool := false
  /-- A merge query holds the part it took while a read is parked, and what its descriptor gave: R, P, RPVA, rp[0], Z (R399). -/
  part : Option Nat := none
  plan : Option (Nat × Nat × Nat × Nat × Nat) := none
  deriving DecidableEq, Repr

/-- A TMMSP or SPCOMP at Prism (R392): for a TMMSP, `op` names the tensor operation of the core. -/
structure PrismOp where
  core : Nat := 0
  op : Nat := 0
  spcomp : Bool := false
  asid : Nat := 0
  va : Nat := 0
  epc : Nat := 0
  handle : Nat := 0
  ref : Ref := {}
  /-- It was parked, and RESUME let it go on (R393). -/
  resumed : Bool := false
  /-- When it began to wait on a compile, by the Prism's clock (R387). -/
  turn : Nat := 0
  deriving DecidableEq, Repr

/-- What a message carries. -/
inductive Body where
  | arrival (a : Arrival)
  | arm (handle slot word : Nat)
  | free (handle : Nat)
  | fork (ref : Ref) (word tpl job : Nat)
  /-- A ROAM (R50): the masked registers, the threadlet, the job. -/
  | roam (regs : List (Nat × Nat)) (tix job : Nat)
  | enq (queue value : Nat) (ctl stream : Bool) (ref : Ref) (status : Nat)
  | steal (word : Nat) (ref : Ref)
  /-- A glint handler to be allocated (R223): threadlet, priority, control word. -/
  | glint (tix pri value : Nat)
  /-- A restart to be allocated (R440): threadlet, priority, job, retry count, afterimage. -/
  | restart (tix pri job retry : Nat) (frame : List Byte)
  | access (a : Access)
  | storeAck (entry : Nat) (tag tid : Nat)
  | storeRefusal (entry reason : Nat) (tag tid : Nat)
  /-- A write has been performed on a watched page; its answer, with the data it returns, goes out once the
  generation has advanced (R348). -/
  | watchAdvance (asid page size : Nat) (a : Access) (data : List Byte)
  | faultRecord (asid va handle token core kind reason level entry : Nat)
  | faultReply (word : Nat) (a : Access)
  /-- A record for the fault queue of a core whose region is swapped out (R56, R425). -/
  | record (isTrap : Bool) (cause src auxid epc handle value aux : Nat)
  | prism (op : PrismOp)
  | beacon (q : BeaconQuery)
  | treeEntry (id : Nat) (words : List Nat)
  | contribution (id : Nat) (p : RedPacket) (ref : Option Ref)
  | cancel (region job : Nat)
  /-- A TERMW on its way to the detector, a CANCEL to the front end, a SYNCI of this number to a core (R138). -/
  | termw (region scope inst : Nat) (ref : Ref)
  | cancelJob (region job : Nat) (ref : Ref)
  | synci (id : Nat)
  | watermark (below : Bool)
  /-- An access of the host through an inbound window, or a device write towards host memory. -/
  | hostMem (write : Bool) (addr : Nat) (bytes : List Byte) (a : Option Access)
  deriving DecidableEq, Repr

/-- A message in flight (R138). -/
structure Msg where
  src : Agent := .frontEnd
  dst : Agent := .frontEnd
  chan : Chan := .request
  body : Body := .free 0
  /-- The region it is addressed to, where it is one (R56), and whether it comes from outside it (R55). -/
  region : Option Nat := none
  outside : Bool := false
  /-- It was spilled, and goes before every new message for its core (R56). -/
  again : Bool := false
  /-- It is no message but an update of the core's own pipeline (R293). -/
  own : Bool := false
  /-- It has come to its core's network ingress and waits there (R46, R55, R75). -/
  landed : Bool := false
  /-- The shutters have tested it (R443). `late`: but for KIND 2, since its frame was away, whose slot word they test when it is back.
  `passed`: RELH or GO has let it go, and it is not held again (R442). -/
  tested : Bool := false
  late : Bool := false
  passed : Bool := false
  deriving DecidableEq, Repr

/-- A frame-map entry (R32, R444). -/
structure FrameEnt where
  /-- STATE of R444: 0 free, 1 dormant, 2 ready, 3 running, 4 spilling, 5 spilled, 6 filling. -/
  st : Nat := 0
  gen : Nat := 1
  tpl : Nat := 0
  job : Nat := 0
  block : Nat := 0
  surp : Nat := 0
  freeP : Bool := false
  umbra : Nat := 0
  age : Nat := 0
  deriving DecidableEq, Repr

/-- A ready-queue entry (R296): `since` gives WAIT, `seq` the order of entry. -/
structure ReadyEnt where
  fix : Nat := 0
  slot : Nat := 0
  since : Nat := 0
  seq : Nat := 0
  /-- It is the frame's direct firing, which no slot names. -/
  direct : Bool := false
  deriving DecidableEq, Repr

/-- One level of the ready queue, with its overflow cursor: the frame and the slot to be visited next (R298). -/
structure Level where
  reg : List ReadyEnt := []
  prom : List ReadyEnt := []
  curFix : Nat := 0
  curSlot : Nat := 0
  deriving DecidableEq, Repr

/-- A local queue (R220, R223): entries from the head with their control bits, configuration, and what has been
consumed (the read pointer of R66). -/
structure LQueue where
  entries : List (Nat × Bool) := []
  cfg : Nat := 0
  rptr : Nat := 0
  deriving DecidableEq, Repr

/-- KIND of an accumulator (R261). -/
inductive AccK where
  | none | fp32 | tri
  deriving DecidableEq, Repr

/-- A segment map that is not all live (R279): AX, the origins, the live elements by 16 × row + column as bits, and the
segment of each row and of each column that advances, none for one that is outside. -/
structure SegMap where
  ax : Nat := 0
  rowOrg : Nat := 0
  colOrg : Nat := 0
  live : Nat := 0
  rows : List (Option Nat) := []
  cols : List (Option Nat) := []
  deriving DecidableEq, Repr

/-- An accumulator (R95, R261): words by 16 × row + column, KIND, EPOCH, and the segment map, none while all live. -/
structure Acc where
  words : Sparse Nat := []
  kind : AccK := .none
  epoch : Nat := 0
  seg : Option SegMap := none
  deriving DecidableEq, Repr

/-- A shape-cache entry (R285). -/
structure ShapeEnt where
  valid : Bool := false
  words : List Nat := []
  bounds : Sparse Nat := []
  deriving DecidableEq, Repr

/-- A barrier-table entry (R151). -/
structure BarEnt where
  handle : Nat := 0
  slot : Nat := 0
  count : Nat := 0
  deriving DecidableEq, Repr

/-- A journal entry (R205). `ord` is its place in issue order. -/
structure JEntry where
  /-- The Belide port has accepted it (R359). -/
  port : Bool := false
  state : Nat := 0
  kind : Nat := 0
  size : Nat := 0
  reason : Nat := 0
  va : Nat := 0
  epc : Nat := 0
  handle : Nat := 0
  data : Nat := 0
  ord : Nat := 0
  deriving DecidableEq, Repr

/-- What the network interface knows of an ordered access in flight (R446): none while its class is unknown. -/
structure OrderRec where
  tid : Nat := 0
  tag : Nat := 0
  cls : Option Nat := none
  acq : Bool := false
  scope : Nat := 0
  /-- It is a store whose place is not known yet, or that is on its way to the Belide port (R63). -/
  store : Bool := false
  deriving DecidableEq, Repr

/-- A stream binding (R225): kind 0 memory, 1 queue, 2 channel; the eight descriptor words; line counter k of a
channel; elements or entries consumed so far. -/
structure Stream where
  kind : Nat := 0
  words : List Nat := []
  line : Nat := 0
  used : Nat := 0
  /-- Which SBIND made it. -/
  id : Nat := 0
  /-- Queue entries taken but not yet used, or made but not yet accepted; what `used` was when the operation began. -/
  buf : List Nat := []
  mark : Nat := 0
  deriving DecidableEq, Repr

/-- Where an element or a scale byte is: its first byte, its lowest bit there, its width, and the format that it was placed by; the index
vector of the element, or of one whose scale it is, and whether its page was mapped as it was placed (R219, R376). -/
structure Cell where
  addr : Nat
  sh : Nat
  w : Nat
  fmt : Nat := 0
  ix : List Nat := []
  sure : Bool := true
  deriving DecidableEq, Repr

/-- One side of an operation: the record, its entry, its format and block geometry, whether its record fixes the
format, its local base. -/
structure Side where
  e : ShapeEnt
  n : Nat
  fmt : Nat
  blk : Nat
  fixed : Bool
  lbase : Option Nat
  deriving DecidableEq, Repr

/-- One thing that moves: the cell it comes from, or the fill, and the cell it goes to, if it goes anywhere. -/
structure Move where
  src : Option Cell
  fill : Nat
  dst : Option Cell
  deriving DecidableEq, Repr

/-- How an operation has ended: its status, CAUSE, PROG and the VALUE of its record; its place among the completions of its core that
wait for room there, none while a piece of it is still parked (R195, R293, R442). -/
structure Ending where
  code : Nat := 0
  cause : Nat := 0
  prog : Nat := 0
  recd : Option Nat := none
  place : Option Nat := none
  deriving DecidableEq, Repr

/-- An operation of the copy, vector or tensor engine, or of the shape cache, as it stood at issue, and how far it
has come. `base` names the instruction by its opcode; registers named by the instruction are held by value. -/
structure EngOp where
  id : Nat := 0
  opc : Nat := 0
  m : Nat := 0
  xop : Nat := 0
  imm : Nat := 0
  d : Nat := 0
  a : Nat := 0
  b : Nat := 0
  c : Nat := 0
  /-- Values of gD, gA, gB, gC, and the effective address. -/
  vd : Nat := 0
  va : Nat := 0
  vb : Nat := 0
  vc : Nat := 0
  ea : Nat := 0
  /-- Tile descriptors named, by value; unbound vector registers and masks of a stream operation. -/
  td1 : Nat := 0
  td2 : Nat := 0
  lanes : List Nat := []
  th : Nat := 0
  prio : Nat := 0
  since : Nat := 0
  /-- Position: rows, chunks, pieces or ordinals done; position inside the chunk; PROG so far. -/
  pos : Nat := 0
  sub : Nat := 0
  prog : Nat := 0
  /-- What the unit at which it is parked had written, and the flags of those elements (R237). -/
  part : Nat := 0
  partFlags : Nat := 0
  begun : Bool := false
  flags : Nat := 0
  /-- The first element in row-major order to raise a flag: row, column, flags (R264). -/
  first : Option (Nat × Nat × Nat) := none
  resumed : Bool := false
  parked : Bool := false
  /-- It is over, and its completion waits in the engine (R195, R442). -/
  fin : Option Ending := none
  /-- It has waited 4,096 cycles since it was last served (R305). -/
  aged : Bool := false
  /-- Shape-cache entries as the operation sees them (R381); it waits for them. -/
  snaps : List ShapeEnt := []
  waits : Bool := false
  /-- A control entry has ended it (R226): `sub` elements are left to do. -/
  last : Bool := false
  /-- Streams bound at issue: operand position (0 D, 1 A, 2 B, 3 C), register, stream. -/
  streams : List (Nat × Nat × Stream) := []
  /-- Waits for Prism (0 not sent, 1 waiting, 2 answered by a micro-program, 3 dense, 4 empty). -/
  prism : Nat := 0
  uops : List Nat := []
  /-- The unit in flight: what its pieces have given so far (R357). -/
  live : Bool := false
  memo : List (List Nat) := []
  /-- The sides of a window, and what moves, as the checks before the first element found them (R376, R379). -/
  sides : List Side := []
  plan : List Move := []
  /-- The pieces left of the chunk of a GET or PUT, as (offset, length). -/
  rest : List (Nat × Nat) := []
  /-- The place of the write that RESUME let it go on with, among the parked writes of the machine, until its unit is done (R63). -/
  order : Option Nat := none
  seed : Nat := 0
  strm : Nat := 0
  asid : Nat := 0
  epc : Nat := 0
  handle : Nat := 0
  ref : Ref := {}
  deriving DecidableEq, Repr

/-- A GET or PUT with another part (R216): its runs as (local address, address there, length); its pieces still to be read, or to be
placed once the acknowledgement has come, as (local address, place in the transfer, length); what has been read for a PUT, or
what the acknowledgement of a GET brought, by place. -/
structure Remote where
  get : Bool := false
  indexed : Bool := false
  part : Nat := 0
  pieces : List (Nat × Nat × Nat) := []
  asid : Nat := 0
  todo : List (Nat × Nat × Nat) := []
  data : List (Nat × List Byte) := []
  acked : Bool := false
  /-- Since when its acknowledgement is awaited; since when it waits for a piece of its own to be moved, at what priority; its number
  among the operations of its core (R305). -/
  since : Nat := 0
  served : Nat := 0
  prio : Nat := 0
  id : Nat := 0
  /-- Places of pieces that a fault at this module's own part has parked; whether RESUME let one of them go on, as which
  parked write; and how it has ended, where its completion waits (R63, R195, R216). -/
  parked : List Nat := []
  resumed : Bool := false
  order : Option Nat := none
  fin : Option Ending := none
  epc : Nat := 0
  handle : Nat := 0
  ref : Ref := {}
  deriving DecidableEq, Repr

/-- A FENCE or DRAIN that has not signalled (R207, R208): its scope, and the journal orders below `upto` that it covers. -/
structure Fence where
  drain : Bool := false
  scope : Nat := 0
  upto : Nat := 0
  ref : Ref := {}
  deriving DecidableEq, Repr

/-- A fault record on its way into the core's fault queue, and a recorded trap posted (R425, R426): what the entry
to the handler needs. -/
structure Posted where
  cause : Nat := 0
  value : Nat := 0
  epc : Nat := 0xFFFFFFFF
  handle : Nat := 0
  qix : Nat := 63
  lost : Bool := false
  auxid : Nat := 0
  deriving DecidableEq, Repr

/-- The user-visible registers of the running threadlet (R95). -/
structure Regs where
  g : Sparse Word := []
  p : BitVec 8 := 0
  f : Sparse Line := []
  bind : Sparse (Option Stream) := []
  deriving DecidableEq, Repr

/-- The special registers that are stored (R97); CORE_ID, RGNID, ASID, CBASE, JOBID, CYCLE and FETIME are computed. -/
structure Sprs where
  prio : BitVec 2 := 0
  excflags : BitVec 6 := 0
  excen : BitVec 6 := 0
  rngseed : Word := 0
  rngstrm : BitVec 32 := 0
  fbase : BitVec 20 := 0
  flim : BitVec 21 := 0
  dqbase : BitVec 20 := 0
  dqlim : BitVec 21 := 0
  umbase : BitVec 48 := 0
  umlim : BitVec 48 := 0
  fwlo : BitVec 12 := 8
  fwhi : BitVec 12 := 16
  orphcnt : BitVec 32 := 0
  orphlog : Sparse Word := []
  deriving DecidableEq, Repr

/-- The supervisor's special registers and the debugger's (R97, R423, R441, R443). -/
structure SupRegs where
  saveptr : BitVec 48 := 0
  faultq : BitVec 20 := 0
  evec : BitVec 32 := 0
  epc : BitVec 32 := 0
  ecause : BitVec 8 := 0
  etval : Word := 0
  estat : Word := 0
  kscr0 : Word := 0
  kscr1 : Word := 0
  shtcmp : Sparse Word := []
  shtval : Sparse Word := []
  deriving DecidableEq, Repr

/-- What the pipeline does. -/
inductive Pipe where
  /-- No threadlet and no handler runs. -/
  | idle
  /-- An instruction issues next, at pc. -/
  | run
  /-- It waits for an instruction fetch parked on a translation fault (R347). -/
  | fetchWait
  /-- The core is parked by a pre-emption (R430). -/
  | parked
  deriving DecidableEq, Repr

/-- The scalar pipeline of a core. -/
structure Pipeline where
  pipe : Pipe := .idle
  pc : Nat := 0
  sup : Bool := false
  /-- A threadlet runs, or lies suspended under the handler. -/
  live : Bool := false
  handle : Nat := 0
  fix : Nat := 0
  slot : Nat := 0
  tid : Nat := 0
  /-- The running threadlet's afterimage-log entry, if it is restartable (R439). -/
  after : Option Nat := none
  waiti : Bool := false
  /-- The resident handler of R428 stands at EVEC (assumption log, entry 7). -/
  resident : Bool := true
  image : Sparse Word32 := []
  /-- Code lines held by the instruction cache, and constant lines, by line number within the weave (R23, R166). -/
  icache : Sparse (Option Line) := []
  ccache : Sparse (Option Line) := []
  halted : Bool := false
  haltReq : Bool := false
  stepping : Bool := false
  lasth : Nat := 0
  preempt : Bool := false
  /-- The last fetch ended in ABORT (R347), or met the fault of another kind that its cause and value give. -/
  fetchTrap : Option (Nat × Nat) := none
  /-- Its frame was flushed while the handler ran; it ends at its next boundary (R58). -/
  doomed : Bool := false
  /-- Journal entry of the recorded trap that the handler serves (R424). -/
  auxid : Nat := 0
  /-- Queue and sequence number of the accepted LOADW whose code and constants the caches hold already (R84). -/
  pushed : Option (Nat × Nat) := none
  deriving DecidableEq, Repr

/-- The scratchpad of a core: bytes, lines whose full/empty bit is empty, words with an uncorrectable error, words
with a correctable one, the corrected-error count, and blocks touched since the load (R259, R354, R435). Which blocks the weave that runs
there has accessed, and so claimed (R420): all, where it was loaded with no victim's blocks among them. -/
structure Scratch where
  bytes : List Host.Cell := []
  empty : Sparse Bool := []
  bad : Sparse Bool := []
  soft : Sparse Bool := []
  corrected : Nat := 0
  touched : Sparse Bool := []
  whole : Bool := false
  had : Sparse Bool := []
  deriving DecidableEq, Repr

/-- A firing that no slot names: of ROAM, of a glint handler, of a restart (R50, R223, R440). -/
structure Direct where
  tix : Nat := 0
  pri : Nat := 0
  regs : List (Nat × Nat) := []
  retry : Nat := 0
  deriving DecidableEq, Repr

/-- The frame engine of a core. -/
structure FrameEng where
  frames : Sparse FrameEnt := []
  /-- By frame index, the firing that runs as slot 0's first. -/
  direct : Sparse (Option Direct) := []
  /-- A backlog-driven spill has begun and not stopped (R44). -/
  spilling : Bool := false
  l0 : Level := {}
  l1 : Level := {}
  l2 : Level := {}
  l3 : Level := {}
  /-- Overflow counts by 32 × FIX + 4 × SLOT + level (R297). -/
  ovf : Sparse Nat := []
  seq : Nat := 0
  /-- The spawn backlog and the pending-arrival buffer (R43, R46), each message with the agent that sent it. -/
  backlog : List Msg := []
  pending : List Msg := []
  /-- The held-arrival list (R442). -/
  held : List Msg := []
  /-- Held updates that have been released, and wait for room in the pending-arrival buffer (R46, R442). -/
  released : List Msg := []
  /-- The time up to which promotions have been made (R299). -/
  clock : Nat := 0
  /-- Jobs whose cancel the core has acknowledged (R58). -/
  cancelled : List Nat := []
  /-- Handles of the frames that a cancel flushed (R58, R445). -/
  flushed : List Nat := []
  exhausted : Bool := false
  below : Bool := false
  /-- The core has acknowledged an unload (R77). -/
  closing : Bool := false
  deriving DecidableEq, Repr

/-- The engines of a core. -/
structure Engines where
  nextId : Nat := 0
  copy : List EngOp := []
  vector : List EngOp := []
  /-- The stream operation served last, whose turn is over (R238). -/
  served : Nat := 0
  tensor : List EngOp := []
  shape : List EngOp := []
  remote : List Remote := []
  acc : Sparse Acc := []
  td : Sparse Word := []
  shapes : Sparse ShapeEnt := []
  tlog : Sparse Word := []
  /-- The engines stand still, but for a unit in flight: a halt or a pre-emption (R418, R430, R441); since when. -/
  stopped : Bool := false
  stopAt : Nat := 0
  deriving DecidableEq, Repr

/-- The network side of a core: queues, barrier table, journal, order records, fences, recorded traps, counts. -/
structure Net where
  queues : Sparse LQueue := []
  bars : Sparse (Option BarEnt) := []
  journal : Sparse JEntry := []
  ord : Nat := 0
  orders : List OrderRec := []
  fences : List Fence := []
  traps : List Posted := []
  refused : BitVec 64 := 0
  taken : BitVec 64 := 0
  /-- EMIT and ABSORB for .cl, .di, .pk by 0, 1, 2 (R414). -/
  emit : Sparse Nat := []
  absorb : Sparse Nat := []
  /-- Region whose weave the core runs, and its load acknowledgement still owed. -/
  region : Option Nat := none
  asid : Nat := 0
  deriving DecidableEq, Repr

/-- One core. -/
structure Core where
  pl : Pipeline := {}
  regs : Regs := {}
  spr : Sprs := {}
  sup : SupRegs := {}
  scr : Scratch := {}
  fe : FrameEng := {}
  eng : Engines := {}
  net : Net := {}
  deriving DecidableEq, Repr

/-- A cached line of a slice (R333). -/
structure CLine where
  data : Line := 0
  dirty : Bool := false
  full : Bool := true
  key : Nat := 0
  ret : Nat := 0
  used : Nat := 0
  /-- The words of it, as bits, with a correctable error in the slice's SRAM (R354). -/
  soft : Nat := 0
  /-- It has an uncorrectable error that nothing has read yet (R355). -/
  bad : Bool := false
  /-- The addresses, as (ASID, VA / 64), under which it has been used since it was fetched (R231). -/
  names : List (Nat × Nat) := []
  deriving DecidableEq, Repr

/-- A cached leaf (R344). -/
structure Tlb where
  asid : Nat := 0
  va : Nat := 0
  size : Nat := 0
  leaf : Nat := 0
  /-- PA of the entry, for SetAccessed (R343). -/
  ent : Nat := 0
  deriving DecidableEq, Repr

/-- Something parked on a translation fault (R345), and where it faulted; `writes` if it was to write, as its place among the parked
writes of the machine (R63); what the pieces before it in its unit have given. -/
inductive Parked where
  | access (a : Access)
  | piece (core : Nat) (eng : Engine) (id : Nat) (region : Option Nat) (va : Nat) (writes : Option Nat) (memo : List (List Nat))
  | query (q : BeaconQuery) (va : Nat)
  | compile (cl va : Nat)
  /-- An SPCOMP whose record, on a page with watch = 0, Prism reads (R274, R393). -/
  | spcomp (cl : Nat) (p : PrismOp) (va : Nat)
  /-- The packet of sequence number seq that queue q executes, at an access of its own (R72, R345). -/
  | packet (q seq va : Nat) (writes : Option Nat)
  deriving DecidableEq, Repr

/-- An outstanding fault of a slice (R345): its page by base VA and size; it holds one of the miss registers. -/
structure TFault where
  serial : Nat := 0
  asid : Nat := 0
  base : Nat := 0
  size : Nat := 4096
  reason : Nat := 0
  reg : Bool := false
  parked : List Parked := []
  deriving DecidableEq, Repr

/-- An entry of a watch table (R348): a page by ASID, base VA and size, and its generation. -/
structure WatchEnt where
  asid : Nat := 0
  base : Nat := 0
  size : Nat := 4096
  gen : Nat := 0
  deriving DecidableEq, Repr

/-- What agents inside a scope may not see unperformed (R359): the access of place `ord` of a core of a region to a line, and whether
it writes, when something of that core that follows it there, for those agents alone, has gone before it. -/
structure EarlyRel where
  line : Nat := 0
  core : Nat := 0
  region : Option Nat := none
  ord : Nat := 0
  scope : Nat := 0
  writes : Bool := false
  /-- It writes direct memory, which page walks read (R341). -/
  walked : Bool := false
  /-- It writes a watched page of an address space, whose generation Prism reads: ASID, base and size (R348). -/
  page : Option (Nat × Nat × Nat) := none
  /-- It writes in the host aperture: performed when the Belide port accepts it. -/
  port : Bool := false
  deriving DecidableEq, Repr

/-- One shared slice. -/
structure Slice where
  config : Word := 0
  stray : BitVec 32 := 0
  corrected : BitVec 32 := 0
  tlb : List Tlb := []
  watch : List WatchEnt := []
  /-- Misses outstanding: line number, then (access, leaf, PA) in order of arrival (R334). -/
  misses : List (Nat × List (Access × Nat × Nat)) := []
  faults : List TFault := []
  serial : Nat := 0
  /-- Parked LDFs with their PA (R200); held accesses with leaf and PA (R446). -/
  ldf : List (Access × Nat) := []
  held : List (Access × Nat × Nat) := []
  early : List EarlyRel := []
  lines : Sparse (Option CLine) := []
  clock : Nat := 0
  deriving DecidableEq, Repr

/-- A tree entry of a router with its round (R229, R400): packets delivered, packets held for the next round, and when the
timer began; in the image of a swapped-out region, how long it had run (R413). -/
structure Tree where
  words : List Nat := []
  got : List RedPacket := []
  next : List RedPacket := []
  start : Nat := 0
  deriving DecidableEq, Repr

/-- An afterimage-log entry (R439). -/
structure AfterEnt where
  handle : Nat := 0
  tix : Nat := 0
  pri : Nat := 0
  job : Nat := 0
  retry : Nat := 0
  frame : List Byte := []
  deriving DecidableEq, Repr

/-- A Prism directory entry (R396). `busy` is that of a compile that runs; an entry that serves is found busy by looking
at the tensor engines. The record's header, and when the entry was made and last used, by the Prism's clock. -/
structure PEnt where
  asid : Nat := 0
  va : Nat := 0
  gen : Nat := 0
  kind : Nat := 0
  busy : Bool := false
  size : Nat := 0
  offset : Nat := 0
  head : Nat := 0
  made : Nat := 0
  used : Nat := 0
  deriving DecidableEq, Repr

/-- A compile of Prism that has begun or waits to begin (R392): the generation of its identity, none while no lookup could read it,
and the one it reads its record under; its directory entry; what it has read, or how the checks of R385 failed (cause, value,
with a record). -/
structure Compile where
  asid : Nat := 0
  va : Nat := 0
  ident : Option Nat := none
  gen : Option Nat := none
  slot : Option Nat := none
  tries : Nat := 0
  got : Option (Nat × List Byte) := none
  fail : Option (Nat × Nat × Bool) := none
  resumed : Bool := false
  parked : Bool := false
  dropped : Bool := false
  /-- The operation that began it, which its fault records name. -/
  first : PrismOp := {}
  waiting : List PrismOp := []
  deriving DecidableEq, Repr

/-- One cluster's shared units. -/
structure Cluster where
  trees : Sparse Tree := []
  strayPk : BitVec 32 := 0
  log : Sparse (Option AfterEnt) := []
  dir : Sparse PEnt := []
  store : Sparse Word := []
  compiles : List Compile := []
  clock : Nat := 0
  ingress : List Msg := []
  deriving DecidableEq, Repr

/-- A Beacon job (R408). -/
structure BJob where
  state : Nat := 0
  region : Nat := 0
  va : Nat := 0
  asid : Nat := 0
  next : Nat := 0
  sizes : Nat := 0
  step : Nat := 0
  deriving DecidableEq, Repr

/-- An outstanding TERMW (R160) and the first sample taken for it (R416): time, EMIT sum, ABSORB sum. -/
structure Termw where
  region : Nat := 0
  scope : Nat := 0
  inst : Nat := 0
  ref : Ref := {}
  sample : Option (Nat × Nat × Nat) := none
  deriving DecidableEq, Repr

/-- The carrier's boot flash as a die's boot ROM reads it (R89, R90): the firmware image, the public key (384 bytes of modulus,
then the exponent, most significant byte first), the signature. -/
structure Flash where
  image : List Byte := []
  key : List Byte := []
  sig : Nat := 0
  deriving DecidableEq, Repr

/-- One die's firmware, Beacon and detector. Its firmware core stands among the cores (R86). -/
structure Die where
  jobs : Sparse BJob := []
  termw : List Termw := []
  /-- 0 not verified, 1 verified, 2 failed (R90). -/
  boot : Nat := 0
  flash : Flash := {}
  /-- The firmware image that runs (R90, R92). -/
  firmware : List Byte := []
  fwAlive : Bool := true
  /-- The EPOCH of the lease that the firmware took last, which its writes to the queue table carry (R87). -/
  fwEpoch : BitVec 8 := 0
  /-- The records of power and health that the firmware keeps (R86, R94). -/
  temp : Word := 0
  power : Word := 0
  alarm : Bool := false
  /-- The records that resident handlers forwarded to the firmware core, oldest first: the core, the 32 bytes (R428). -/
  reports : List (Nat × List Byte) := []
  staging : Sparse Word := []
  staged : Nat := 0
  deriving DecidableEq, Repr

/-- A packet of a queue (R13): its eight words and the time from which it could begin (R74). -/
structure Packet where
  words : List Nat := []
  since : Nat := 0
  urgent : Bool := false
  deriving DecidableEq, Repr

/-- A packet that executes: PHASE (R71), STAMP's FETIME (R77), cores whose acknowledgement is awaited, done; the places
in each core's issue order up to which FENCEC waits, and its operations below a number, and what was parked then; it
acts anew: a new leader begins it again (R88), or its effect waited (R75, R345); an access of it is parked (R345); the pieces of its accesses that are performed, by VA, with what they read. -/
structure Exec where
  pkt : Packet := {}
  phase : Nat := 0
  stamp : Nat := 0
  await : List Nat := []
  done : Bool := false
  fence : List (Nat × Nat × Nat) := []
  fenceParked : List Parked := []
  again : Bool := false
  parked : Bool := false
  /-- The place of the write that RESUME let it go on with, until it is performed (R63). -/
  order : Option Nat := none
  got : List (Nat × List Byte) := []
  deriving DecidableEq, Repr

/-- A row of the queue table (R68). -/
structure HQueue where
  ring : BitVec 48 := 0
  size : BitVec 13 := 16
  prio : BitVec 2 := 0
  seq : BitVec 16 := 0
  cmpl : Word := 0
  asid : BitVec 16 := 0
  halt : Bool := false
  en : Bool := false
  err : Word := 0
  accepted : List Packet := []
  exec : Option Exec := none
  deriving DecidableEq, Repr

/-- The weave a region runs (R21, R131, R132): code as words, table, templates, placement. -/
structure Weave where
  va : Nat := 0
  codesz : Nat := 0
  table : List Nat := []
  templates : List (List Byte) := []
  conoff : Nat := 0
  consz : Nat := 0
  codeoff : Nat := 0
  /-- Core records in order, then roots as (core id, template). -/
  places : List (Nat × List Nat) := []
  roots : List (Nat × Nat) := []
  bytes : List Byte := []
  deriving DecidableEq, Repr

/-- What a SWAP saves of a region (R432-R435): core and router state, spilled messages, directory as (core, block,
position among the saved blocks, none where not saved) in claim order, the empty lines of each saved block, header
words, COMMIT. The saved blocks themselves lie in memory. A victim's scratchpad stays in its core's image; what of it
was claimed, the directory says. -/
structure Save where
  va : Nat := 0
  size : Nat := 0
  gates : Bool := false
  cores : List (Nat × Core) := []
  routers : List (Nat × List (Nat × Tree)) := []
  msgs : List Msg := []
  dir : List (Nat × Nat × Option Nat) := []
  blocks : List (Nat × Nat × List Nat) := []
  lost : List (Nat × Nat) := []
  failed : Bool := false
  committed : Bool := false
  damaged : Bool := false
  /-- The weave restored in its place is back: of its own blocks it claims only those that the saved weave touched (R420). -/
  closed : Bool := false
  /-- Flushes recorded for the restore, as (core, job) (R82). -/
  cancels : List (Nat × Nat) := []
  deriving DecidableEq, Repr

/-- A cancel in progress: its job, the cores whose acknowledgement is awaited, whom to tell (R82, R161). -/
structure CancelOp where
  job : Nat := 0
  await : List Nat := []
  ref : Option Ref := none
  queue : Option Nat := none
  deriving DecidableEq, Repr

/-- A SYNCI that has not signalled: the cores whose caches it has still to reach (R166). -/
structure SyncOp where
  id : Nat := 0
  ref : Ref := {}
  await : List Nat := []
  deriving DecidableEq, Repr

/-- A region (R22, R66). -/
structure Region where
  /-- 0 free, 1 loaded, 2 swapped out. -/
  state : Nat := 0
  clusters : Nat := 0
  asid : Nat := 0
  image : Nat := 0
  gates : Bool := false
  roots : List Nat := []
  cjobs : List Nat := []
  llwin : Nat := 0
  /-- When each die's livelock window began, and REFUSED and TAKEN of each core then (R417). -/
  llstart : Sparse Nat := []
  llsnap : List (Nat × Nat × Nat) := []
  weave : Weave := {}
  throttle : List Nat := []
  save : Option Save := none
  /-- A state-changing command executes on the region: the queue that holds it (R75). -/
  busy : Option Nat := none
  cancels : List CancelOp := []
  deriving DecidableEq, Repr

/-- A window of the port (R67). -/
structure Window where
  w0 : Word := 0
  w1 : Word := 0
  w2 : Word := 0
  deriving DecidableEq, Repr

end Sys2Proof.Machine
end

