-- ==== Sys2Proof/Machine/State.lean ====
section
/-! DEFINITION. The machine's state as plain data, the ways a step can stop, and the state after reset. The rule of
spec/ behind each field stands in INVENTORY.md under State. -/

namespace Sys2Proof.Machine

/-- One entry of the schedule: which agent moves, or what the surroundings do (assumption log, entry 1). -/
inductive Act where
  /-- Core c issues its next instruction. -/
  | core (c : Nat)
  /-- A command, an event or an input of the opcode table happens. -/
  | event (i : Instr)
  /-- n core cycles pass. -/
  | tick (n : Nat)
  /-- The host stores a byte of its own memory. -/
  | hostStore (addr : Nat) (v : Byte)
  /-- A firmware core stops or starts (R86). -/
  | firmware (die : Nat) (alive : Bool)
  /-- The carrier's boot flash of a die is written (R89, R90). -/
  | flash (die : Nat) (f : Flash)
  /-- A die's firmware records its temperature and its power (R86, R94). -/
  | health (die : Nat) (temp power : Word)
  /-- A request of six words reaches the debug service (R65). -/
  | request (ws : List Word)
  /-- The leader takes the oldest request that waits (R65). -/
  | service
  /-- The k-th message in flight, which no row of the table takes, reaches its unit: the detector, the front end or a core
  (R138). -/
  | deliver (k : Nat)
  /-- The access of message k is translated at its home slice, and waits there to be performed (R332, R357). -/
  | hold (k : Nat)
  /-- Held access n of slice h is performed before the stores or the acquires that it follows, as agents outside their scope may see
  it (R359). -/
  | early (h n : Nat)
  /-- FENCE n of core c signals before the stores that it covers are performed, as agents outside its scope may see it (R359). -/
  | earlyFence (c n : Nat)
  /-- Operation id of core c begins a unit, or performs the next piece of the one in flight; n picks among those that may be next
  (R357, R369). -/
  | piece (c id n : Nat)
  /-- Transfer n of core c with another part performs a piece at its own side; i picks it (R214, R216). -/
  | remote (c n i : Nat)
  /-- Firmware sets the link timeout, in core cycles (R216). -/
  | linkTimeout (n : Nat)
  /-- The scale-up fabric numbers the module's part (R216). -/
  | partNumber (n : Nat)
  /-- The ingress buffer of a cluster, left with messages when the gates opened, delivers what it can (R55). -/
  | ingress (cl : Nat)
  deriving DecidableEq, Repr

/-- Memory: HBM and slice SRAM by PA, with what HBM's sideband and the controllers hold (R329-R331, R351). -/
structure Memory where
  cells : List Host.Cell := []
  /-- Lines, by PA / 64, whose full/empty bit is empty; poisoned lines; lines with an uncorrectable error that nothing has read yet
  (R355); the correctable errors of a line: the struck symbol of HBM plus 1, or the struck words of slice SRAM as bits (R354). -/
  empty : Sparse Bool := []
  poison : Sparse Bool := []
  bad : Sparse Bool := []
  soft : Sparse Nat := []
  /-- Corrected errors counted by each of the 12 stacks (R354). -/
  corrected : Sparse Nat := []
  /-- The key pair each HBM line was written under; the key pairs firmware loaded, by 256 × die + id. -/
  pairs : Sparse (Option KeyPair) := []
  keys : Sparse (Option KeyPair) := []
  deriving DecidableEq, Repr

/-- The Belide port, the host behind it, and the replies the module has sent (R62-R67, R94). -/
structure Port where
  inWin : Sparse Window := []
  outWin : Sparse Window := []
  err : Word := 0
  hostMem : List Host.Cell := []
  /-- Accesses of the host through inbound windows so far, and writes of engines and front ends that were parked (R63). -/
  issued : Nat := 0
  parks : Nat := 0
  replies : List (List Word) := []
  /-- Requests to the debug service that no leader has answered, oldest first (R65). -/
  pending : List (List Word) := []
  deriving DecidableEq, Repr

/-- Firmware's and the carrier's state (R87-R94). -/
structure Firmware where
  expiry : BitVec 48 := 0
  epoch : BitVec 8 := 0
  holder : BitVec 2 := 0
  powered : Nat := 0
  trained : Nat := 0
  fenced : Nat := 0
  ready : Bool := false
  /-- How long a link waits for its acknowledgement, in core cycles (R216). -/
  linkTimeout : Nat := 4000000
  /-- The module's own part number, 0 while the fabric has given none (R216; assumption log, entry 41). -/
  part : Nat := 0
  i3cAddr : BitVec 7 := 0
  boots : Nat := 0
  /-- The round-robin position of each priority: the queue begun last (R74). -/
  rr : Sparse Nat := []
  deriving DecidableEq, Repr

/-- The machine. -/
structure State where
  sched : List Act := []
  /-- A write or a read of the device's own, which nothing parks, has found that its turn at its slice has not come: the step it is
  part of does not happen yet (R332, R334, R345; assumption log, entry 83). -/
  stall : Bool := false
  cur : Nat := 0
  draws : Nat := 0
  cycles : Nat := 0
  fw : Firmware := {}
  port : Port := {}
  queues : Sparse HQueue := []
  regions : Sparse Region := []
  cores : Sparse Core := []
  clusters : Sparse Cluster := []
  dies : Sparse Die := []
  slices : Sparse Slice := []
  mem : Memory := {}
  msgs : List Msg := []
  /-- Results of reductions that have left through a link port, oldest first: the port, the tree, the packet (R400). -/
  links : List (Nat × Nat × RedPacket) := []
  /-- SYNCIs outstanding, and how many there were (R166). -/
  syncs : List SyncOp := []
  syncNext : Nat := 0
  deriving DecidableEq, Repr

/-- Why the machine stops. No rule of the spec stops it, and no constructor is needed. -/
inductive Fault where
  deriving DecidableEq, Repr

/-- Why a step is refused. -/
inductive Refusal where
  /-- Raised by an arm of exec whose instruction has no meaning yet. Safe: the hardware goes on, the model stops. -/
  | notModelled (mnemonic : String)
  deriving DecidableEq, Repr

/-- The machine right after power-on reset (R89, R9): every field at the value the spec gives, or at the value the
assumption log names (entries 2, 4 and 5). -/
def State.reset : State := {}

end Sys2Proof.Machine
end

