-- ==== Sys2Proof/Machine/Ops.lean ====
section
/-! DEFINITION. The named operations over registers, scratchpad, messages and the machine's units, and taking a trap
and returning from one. -/

namespace Sys2Proof.Machine

/-- What a step answers. -/
abbrev Out := Host.Outcome State Fault Refusal

/-! ### Units -/

def State.core (s : State) (c : Nat) : Core := Sparse.get {} s.cores c
def State.setCore (s : State) (c : Nat) (v : Core) : State := { s with cores := Sparse.set {} s.cores c v }
/-- The core changed by f. -/
def State.modCore (s : State) (c : Nat) (f : Core → Core) : State := s.setCore c (f (s.core c))
def State.slice (s : State) (i : Nat) : Slice := Sparse.get {} s.slices i
def State.setSlice (s : State) (i : Nat) (v : Slice) : State := { s with slices := Sparse.set {} s.slices i v }
def State.cluster (s : State) (i : Nat) : Cluster := Sparse.get {} s.clusters i
def State.setCluster (s : State) (i : Nat) (v : Cluster) : State := { s with clusters := Sparse.set {} s.clusters i v }
def State.die (s : State) (i : Nat) : Die := Sparse.get {} s.dies i
def State.setDie (s : State) (i : Nat) (v : Die) : State := { s with dies := Sparse.set {} s.dies i v }
def State.region (s : State) (i : Nat) : Region := Sparse.get {} s.regions i
def State.setRegion (s : State) (i : Nat) (v : Region) : State := { s with regions := Sparse.set {} s.regions i v }
def State.queue (s : State) (i : Nat) : HQueue := Sparse.get {} s.queues i
def State.setQueue (s : State) (i : Nat) (v : HQueue) : State := { s with queues := Sparse.set {} s.queues i v }

/-- The core whose pipeline moves. -/
def State.me (s : State) : Core := s.core s.cur
/-- The moving core changed by f. -/
def State.modMe (s : State) (f : Core → Core) : State := s.modCore s.cur f

/-! ### Placement (R3, R4, R30) -/

/-- Die of a core id. -/
def dieOf (c : Nat) : Nat := bits c 11 10
/-- The firmware core of a die, which no core id names (R86; assumption log, entry 61). -/
def fwCore (die : Nat) : Nat := 4096 + 1024 * die
/-- A firmware core. -/
def isFw (c : Nat) : Bool := decide (4096 ≤ c)
/-- Package cluster index of a core id: die × 24 + cluster; a die's firmware core lies in a cluster, and so in a quad, of its own (a choice:
R4; assumption log, entry 61). -/
def clusterOf (c : Nat) : Nat := if isFw c then 96 + dieOf c else dieOf c * 24 + bits c 9 5
/-- The core id of core k of package cluster p. -/
def coreOf (p k : Nat) : Nat := (p / 24) * 1024 + (p % 24) * 32 + k
/-- The 24 core ids of a package cluster. -/
def coresOf (p : Nat) : List Nat := (List.range 24).map (coreOf p)
/-- The core id by which CORE_ID, ORPHLOG and a fault record name a core (R97, R346, R445): a firmware core's, which the spec does not
give, is a free value (assumption log, entry 61). -/
def coreId (c : Nat) : Nat := if isFw c then (Config.fwCoreId (dieOf c)).toNat else c
/-- The core id that a handle's DIE, CLUS and CORE fields hold. -/
def handleCore (h : Nat) : Nat := bits h 31 20
def handleFix (h : Nat) : Nat := bits h 19 8
def handleGen (h : Nat) : Nat := bits h 7 0
/-- The handle of frame index fix, generation gen, of core c (R30). -/
def mkHandle (c fix gen : Nat) : Nat := c * 2 ^ 20 + fix * 256 + gen
/-- Two cores lie in one instance of scope SC (R3, R4). -/
def sameInst (sc a b : Nat) : Bool :=
  match sc with
  | 1 => a == b
  | 2 => clusterOf a == clusterOf b && bits a 4 0 / 4 == bits b 4 0 / 4
  | 3 => clusterOf a == clusterOf b
  | 4 => dieOf a == dieOf b
  | 0 => a == b
  | _ => true
/-- The package clusters of a region, ascending. -/
def Region.clusterList (r : Region) : List Nat := setBits 96 r.clusters
/-- The cores of a region, ascending. -/
def Region.cores (r : Region) : List Nat := r.clusterList.flatMap coresOf
/-- The region whose weave is loaded on core c. -/
def State.regionOf (s : State) (c : Nat) : Option Nat := (s.core c).net.region
/-- The weave of core c; an empty one where none is loaded. -/
def State.weaveOf (s : State) (c : Nat) : Weave :=
  match s.regionOf c with
  | some r => (s.region r).weave
  | none => {}
/-- Core d exists and lies in the region of core c; a firmware core belongs to no region, and passes the check of R54 and R143 for every
core (a choice: assumption log, entry 61). -/
def State.inRegion (s : State) (c d : Nat) : Bool :=
  validCore d && if isFw c then true else match s.regionOf c with
    | some r => (s.region r).clusters.testBit (clusterOf d)
    | none => false
/-- A handle passes R54 for an issuer on core c. -/
def State.handleOk (s : State) (c h : Nat) : Bool :=
  decide (h ≠ 0) && decide (handleGen h ≠ 0) && s.inRegion c (handleCore h)

/-! ### Time (R6, R78) -/

/-- FETIME of a die (R78). -/
def State.fetime (s : State) (die : Nat) : Nat := s.cycles / 2 - (Config.feSkew die).val

/-! ### Registers (R95) -/

def Core.readG (c : Core) (r : Nat) : Word := if r = 0 then 0 else Sparse.get 0 c.regs.g r
def Core.writeG (c : Core) (r : Nat) (v : Word) : Core :=
  if r = 0 then c else { c with regs := { c.regs with g := Sparse.set 0 c.regs.g r v } }
def Core.readP (c : Core) (r : Nat) : Bool := if r = 0 then true else c.regs.p.getLsbD r
def Core.writeP (c : Core) (r : Nat) (v : Bool) : Core :=
  if r = 0 then c
  else
    let m : BitVec 8 := BitVec.ofNat 8 (2 ^ r)
    { c with regs := { c.regs with p := if v then c.regs.p ||| m else c.regs.p &&& ~~~m } }
def Core.readF (c : Core) (r : Nat) : Line := Sparse.get 0 c.regs.f r
def Core.writeF (c : Core) (r : Nat) (v : Line) : Core :=
  { c with regs := { c.regs with f := Sparse.set 0 c.regs.f r v } }
def Core.stream (c : Core) (r : Nat) : Option Stream := Sparse.get none c.regs.bind r
def Core.setStream (c : Core) (r : Nat) (v : Option Stream) : Core :=
  { c with regs := { c.regs with bind := Sparse.set none c.regs.bind r v } }
def Core.acc (c : Core) (i : Nat) : Acc := Sparse.get {} c.eng.acc i
def Core.setAcc (c : Core) (i : Nat) (v : Acc) : Core :=
  { c with eng := { c.eng with acc := Sparse.set {} c.eng.acc i v } }
def Core.td (c : Core) (i : Nat) : Word := Sparse.get 0 c.eng.td i
def Core.setTd (c : Core) (i : Nat) (v : Word) : Core :=
  { c with eng := { c.eng with td := Sparse.set 0 c.eng.td i v } }
def Core.shape (c : Core) (i : Nat) : ShapeEnt := Sparse.get {} c.eng.shapes i
def Core.setShape (c : Core) (i : Nat) (v : ShapeEnt) : Core :=
  { c with eng := { c.eng with shapes := Sparse.set {} c.eng.shapes i v } }
def Core.lq (c : Core) (i : Nat) : LQueue := Sparse.get {} c.net.queues i
def Core.setLq (c : Core) (i : Nat) (v : LQueue) : Core :=
  { c with net := { c.net with queues := Sparse.set {} c.net.queues i v } }
def Core.frame (c : Core) (i : Nat) : FrameEnt := Sparse.get {} c.fe.frames i
def Core.setFrame (c : Core) (i : Nat) (v : FrameEnt) : Core :=
  { c with fe := { c.fe with frames := Sparse.set {} c.fe.frames i v } }
def Core.journal (c : Core) (i : Nat) : JEntry := Sparse.get {} c.net.journal i
def Core.setJournal (c : Core) (i : Nat) (v : JEntry) : Core :=
  { c with net := { c.net with journal := Sparse.set {} c.net.journal i v } }
def Core.modPl (c : Core) (f : Pipeline → Pipeline) : Core := { c with pl := f c.pl }
def Core.modFe (c : Core) (f : FrameEng → FrameEng) : Core := { c with fe := f c.fe }
def Core.modNet (c : Core) (f : Net → Net) : Core := { c with net := f c.net }
def Core.modEng (c : Core) (f : Engines → Engines) : Core := { c with eng := f c.eng }
/-- The engines stand still from now on, but for units in flight. -/
def Engines.stop (e : Engines) (now : Nat) : Engines := if e.stopped then e else { e with stopped := true, stopAt := now }
/-- They go on; the time they stood still is no part of a wait for a row, or for another part's acknowledgement (R259, R263, R418). -/
def Engines.go (e : Engines) (now : Nat) : Engines :=
  if e.stopped then
    { e with
      stopped := false
      tensor := e.tensor.map fun o => { o with since := o.since + (now - max e.stopAt o.since) }
      remote := e.remote.map fun x => { x with since := x.since + (now - max e.stopAt x.since) } }
  else e
/-- The operations of an engine. -/
def Engines.list (e : Engines) : Engine → List EngOp
  | .copy => e.copy
  | .vector => e.vector
  | .tensor => e.tensor
  | .shape => e.shape
  | _ => []
def Core.ops (k : Core) (g : Engine) : List EngOp := k.eng.list g
def Core.modScr (c : Core) (f : Scratch → Scratch) : Core := { c with scr := f c.scr }

/-- The pc moved past an instruction of n bytes. -/
def State.advance (s : State) (n : Nat) : State := s.modMe (·.modPl fun p => { p with pc := p.pc + n })

/-! ### Scratchpad bytes (R198, R259, R327, R354) -/

/-- The core and the offset a local address names (R327); a firmware core has its 256 KiB of private SRAM alone (R86). -/
def resolveLocal (c a : Nat) : Option (Nat × Nat) :=
  if isFw c then (if a < 0x40000 then some (c, a) else none)
  else if a < 0x100000 then some (c, a)
  else if 0x1000000 ≤ a ∧ a < 0x2800000 then
    some (c - bits c 4 0 + (a - 0x1000000) / 0x100000, a % 0x100000)
  else none

/-- n bytes from local address a lie in the scratchpad map, the descriptor window apart (R193, R327). -/
def localRange (a n : Nat) : Bool :=
  decide (a + n ≤ 0x100000) || (decide (0x1000000 ≤ a) && decide (a + n ≤ 0x2800000))

/-- n bytes at offset a of a scratchpad. -/
def Scratch.read (m : Scratch) (a : Nat) : Nat → List Byte
  | 0 => []
  | n + 1 => Sparse.get 0 m.bytes a :: Scratch.read m (a + 1) n

/-- The bytes written at offset a, nothing else changed. -/
def writeCells (m : List Host.Cell) (a : Nat) : List Byte → List Host.Cell
  | [] => m
  | b :: bs => writeCells (Sparse.set 0 m a b) (a + 1) bs

/-- Keys lo to lo + n - 1 of a set of numbers, given the value v. -/
def setRange (m : Sparse Bool) (v : Bool) (lo : Nat) : Nat → Sparse Bool
  | 0 => m
  | n + 1 => setRange (Sparse.set false m lo v) v (lo + 1) n

/-- A write to the scratchpad: the bytes; the blocks they lie in become touched (R435); a whole 64-bit word that is
written loses its error (R355). -/
def Scratch.write (m : Scratch) (a : Nat) (bs : List Byte) : Scratch :=
  let n := bs.length
  let w0 := roundUp a 8 / 8
  let w1 := (a + n) / 8
  { m with
    bytes := writeCells m.bytes a bs
    touched := if n = 0 then m.touched else setRange m.touched true (a / 4096) ((a + n - 1) / 4096 + 1 - a / 4096)
    bad := if m.bad = [] then [] else setRange m.bad false w0 (w1 - w0)
    soft := if m.soft = [] then [] else setRange m.soft false w0 (w1 - w0) }

/-- Some 64-bit word of [a, a + n) has an uncorrectable error (R355). -/
def Scratch.isBad (m : Scratch) (a n : Nat) : Bool :=
  m.bad.any fun e => e.2 && decide (a / 8 ≤ e.1) && decide (e.1 * 8 < a + n)

/-- A number read from the scratchpad, little-endian. -/
def Scratch.readN (m : Scratch) (a n : Nat) : Nat := leNat (m.read a n)

/-- The write reaches core c's scratchpad. -/
def State.scrWrite0 (s : State) (c a : Nat) (bs : List Byte) : State := s.modCore c (·.modScr (·.write a bs))

/-- n bytes at local address a of core c, byte by byte through the map; bytes outside it read 0. -/
def State.localRead (s : State) (c a : Nat) : Nat → List Byte
  | 0 => []
  | n + 1 =>
    (match resolveLocal c a with
      | some (d, off) => Sparse.get 0 (s.core d).scr.bytes off
      | none => 0) :: State.localRead s c (a + 1) n

/-- A number at a local address. -/
def State.localN (s : State) (c a n : Nat) : Nat := leNat (s.localRead c a n)

/-- A range of local addresses as parts of scratchpads, each by core, offset, place in the range and length: the map lays the
scratchpads of a cluster side by side (R327). -/
def localParts (c a n : Nat) : List (Nat × Nat × Nat × Nat) :=
  match resolveLocal c a with
  | some (d, off) =>
    (List.range ((off + n + 0xFFFFF) / 0x100000)).map fun i =>
      let lo := if i = 0 then off else 0
      let at_ := if i = 0 then 0 else 0x100000 * i - off
      (d + i, lo, at_, min (0x100000 - lo) (n - at_))
  | none => []

/-- A 64-bit word of [a, a + n), by local address, has an uncorrectable error. -/
def State.localBad (s : State) (c a n : Nat) : Bool := (localParts c a n).any fun p => (s.core p.1).scr.isBad p.2.1 p.2.2.2

/-! ### Messages (R138, R403) -/

/-- The message goes out behind those already in flight. -/
def State.send (s : State) (m : Msg) : State := { s with msgs := s.msgs ++ [m] }

/-- A bank operation (R209). -/
def AccKind.isBank : AccKind → Bool
  | .aop _ => true
  | .acas => true
  | _ => false

/-- Two bank operations of one core on one line, which a device that follows R325 leaves unordered among themselves, and one that follows
R362 does not (assumption log, entry 60). -/
def Access.freely (a b : Access) : Bool := a.kind.isBank && b.kind.isBank && Config.bankLoose

/-- Messages of one source to one destination that keep no order: bank operations on one line, where R325 leaves them free; an SPCOMP and a TMMSP
(R387); accesses to host memory that are not both writes and lie in different lines (R63, R362). -/
def Body.unordered : Body → Body → Bool
  | .access a, .access b => a.va / 64 == b.va / 64 && a.freely b
  | .prism p, .prism q => p.spcomp != q.spcomp
  | .hostMem v x _ a, .hostMem w y _ b => !(v && w && a.map (·.tid) == b.map (·.tid)) && x / 64 != y / 64
  | _, _ => false

/-- The message keeps the order of its source, destination and channel: what a core, its engines, the front end or the host sends, and
what units send one another; a unit's messages to a core keep none (R138, R293, R371). -/
def Msg.ordered (m : Msg) : Bool :=
  match m.src, m.dst with
  | .core _, _ | .engine _, _ | .frontEnd, _ | .host, _ => true
  | _, .core _ => false
  | _, _ => true

/-- A write that the Belide port has accepted goes before every later access to its line, as those inside .pk see it (R359). -/
def Body.leadsAtPort : Body → Body → Bool
  | .hostMem true x _ _, .hostMem _ y _ _ => x / 64 == y / 64
  | _, _ => false

/-- What agent a sends keeps behind what agent b sent before it: one source, or a core's engines behind its threadlets, whose completions
are messages of that core (R138, R360); a core's later messages keep no order with those completions (R371). -/
def Agent.follows (a b : Agent) : Bool :=
  a == b || match a, b with
    | .engine c, .core d => c == d
    | _, _ => false

/-- Message e, sent before m, goes before it (R138). -/
def Msg.leads (e m : Msg) : Bool :=
  (m.src.follows e.src && e.dst == m.dst && e.chan == m.chan && m.ordered && !e.body.unordered m.body) || e.body.leadsAtPort m.body

/-- Message k, when no earlier message goes before it (R138). -/
def State.deliverable (s : State) (k : Nat) : Option Msg :=
  match s.msgs[k]? with
  | none => none
  | some m => if (s.msgs.take k).any (·.leads m) then none else some m

/-- Message k, when those that go before it have all come to the ingress of its core, where it can come too (R46, R442). -/
def State.reachable (s : State) (k : Nat) : Option Msg :=
  match s.msgs[k]? with
  | none => none
  | some m => if (s.msgs.take k).any (fun e => e.leads m && !e.landed) then none else some m

/-- Who completes an operation for the core that issued it: the core's own engines, whose completions keep their order (R293), behind
its earlier messages (R138), and none with its later ones (R371), or core c, whose messages to the other keep theirs (R138). -/
def Ref.completer (r : Ref) (c : Nat) : Agent := if r.origin = c then .engine c else .core c

/-- Core c goes on with WAITI behind it (R165). -/
def State.wake (s : State) (c : Nat) : State := s.modCore c (·.modPl fun p => { p with waiti := false })

/-- So it does for what reaches it for its weave of a region; a weave that is swapped out does not run. -/
def State.wakeOf (s : State) (region : Option Nat) (c : Nat) : State := if s.regionOf c = region then s.wake c else s

/-- Message k has come to the ingress of core c and waits there. -/
def State.landMsg (s : State) (k c : Nat) : State :=
  ({ s with msgs := s.msgs.modify k fun m => { m with landed := true } } : State).wake c

/-- Message k has left the network. -/
def State.dropMsg (s : State) (k : Nat) : State := { s with msgs := s.msgs.eraseIdx k }

/-- A core-to-core or unit-to-core completion on the signal channel (R138). -/
def State.sendArrival (s : State) (src : Agent) (a : Arrival) : State :=
  s.send { src := src, dst := .core (handleCore a.handle), chan := a.chan, body := .arrival a, region := a.region }

/-- The status word of R38. -/
def statusWord (code cause prog : Nat) : Nat := (prog % 2 ^ 32) * 2 ^ 32 + cause * 256 + code

/-- The arrival that Signal(ref, code, cause, prog) of R136 sends. -/
def signalArrival (r : Ref) (code cause prog : Nat) : Arrival :=
  { handle := r.handle, slot := r.slot, n := 1
    status := if r.stoff = 0 then none else some (r.stoff, statusWord code cause prog)
    src := r.origin, chan := .signal, absorb := 1, origin := r.origin, region := r.region, op := true }

/-- Signal(ref, code, cause, prog) from an agent (R136). -/
def State.signal (s : State) (src : Agent) (r : Ref) (code cause prog : Nat) : State :=
  s.sendArrival src (signalArrival r code cause prog)

/-- The levels .cl, .di, .pk as 0, 1, 2 at which an event from core a to core b counts (R414). -/
def countLevels (a b : Nat) : List Nat :=
  (if clusterOf a = clusterOf b then [0] else []) ++ (if dieOf a = dieOf b then [1] else []) ++ [2]

/-- n more in one of the two counts of R414. -/
def addCounts (m : Sparse Nat) (n : Nat) : List Nat → Sparse Nat
  | [] => m
  | l :: ls => addCounts (Sparse.set 0 m l ((Sparse.get 0 m l + n) % 2 ^ 64)) n ls

/-- EMIT counts n events from core a to core b (R414). -/
def State.emit (s : State) (a b n : Nat) : State :=
  s.modCore a (·.modNet fun t => { t with emit := addCounts t.emit n (countLevels a b) })

/-- ABSORB counts n events of core a at core b (R414). -/
def State.absorb (s : State) (a b n : Nat) : State :=
  if n = 0 ∨ a = 0xFFF then s
  else s.modCore b (·.modNet fun t => { t with absorb := addCounts t.absorb n (countLevels a b) })

/-! ### Taking a trap and returning from one (R422-R424) -/

/-- ESTAT from its fields (R423). -/
def mkEstat (pprv lostr rstr rstb recd : Bool) (disp qix handle : Nat) : Word :=
  BitVec.ofNat 64 (b2n pprv * 2 ^ 44 + b2n lostr * 2 ^ 43 + b2n rstr * 2 ^ 42 + b2n rstb * 2 ^ 41 +
    b2n recd * 2 ^ 40 + disp * 2 ^ 38 + qix * 2 ^ 32 + handle % 2 ^ 32)

/-- TakeTrap of R422 on a core: the saved pc, cause, value and status; supervisor; pc at EVEC, whatever EVEC holds: an EVEC that is
no multiple of 4 is not checked (a choice: R100; assumption log, entry 69). No general, predicate or vector register changes. -/
def Core.takeTrap (c : Core) (cause val epc : Nat) (recorded lostr rstr : Bool) (qix handle : Nat) : Core :=
  { c with
    sup := { c.sup with
      epc := BitVec.ofNat 32 epc
      ecause := BitVec.ofNat 8 cause
      etval := BitVec.ofNat 64 val
      estat := mkEstat c.pl.sup lostr rstr c.pl.after.isSome recorded 0 qix handle }
    pl := { c.pl with sup := true, pc := c.sup.evec.toNat, pipe := .run } }

/-- The exact trap of R123 at the moving core: EPC is the pc of the instruction. -/
def State.trap (s : State) (cause val : Nat) : State :=
  s.modMe fun c => c.takeTrap cause val c.pl.pc false false false 63 (if c.pl.live then c.pl.handle else 0)

/-- The answer of an instruction that traps exactly. -/
def trapOut (s : State) (cause val : Nat) : Out := .next (s.trap cause val)

/-- RFE's resumption (R424, DISP 00 with a threadlet): the privilege of PPRV, the pc of EPC. -/
def Core.resume (c : Core) : Core :=
  c.modPl fun p => { p with sup := c.sup.estat.getLsbD 44, pc := c.sup.epc.toNat, pipe := .run }

/-! ### The fault queue (R425) -/

/-- Who writes a record (SRC of R425). -/
def Engine.src : Engine → Nat
  | .copy => 3 | .vector => 4 | .shape => 5 | .tensor => 2 | .prism => 10 | .beacon => 11

/-- A record of R425, and the recorded trap it posts when TRAP = 1 (R426). -/
def Core.post (c : Core) (isTrap : Bool) (cause srcUnit auxid epc handle value aux : Nat) : Core :=
  let q := c.sup.faultq.toNat
  let head := c.scr.readN q 4
  let tail := c.scr.readN (q + 8) 4
  let full := decide ((head + 2 ^ 32 - tail) % 2 ^ 32 = 32)
  let w0 := b2n isTrap * 2 ^ 63 + cause * 2 ^ 48 + srcUnit * 2 ^ 44 + auxid * 2 ^ 32 + epc % 2 ^ 32
  let scr :=
    if full then c.scr.write (q + 16) (natLE 4 (min (c.scr.readN (q + 16) 4 + 1) (2 ^ 32 - 1)))
    else
      ((((c.scr.write (q + 64 + 32 * (head % 32)) (natLE 8 w0)).write (q + 72 + 32 * (head % 32)) (natLE 8 (handle % 2 ^ 32))).write
        (q + 80 + 32 * (head % 32)) (natLE 8 value)).write (q + 88 + 32 * (head % 32)) (natLE 8 aux)).write q (natLE 4 (head + 1))
  let c := { c with scr := scr }
  if isTrap then
    c.modNet fun n => { n with traps := n.traps ++ [{
      cause := cause, value := value, epc := epc, handle := handle
      qix := if full then 63 else head % 32
      lost := full, auxid := auxid }] }
  else c

/-- A record at core c; a recorded trap ends WAITI (R165). -/
def State.post (s : State) (c : Nat) (isTrap : Bool) (cause srcUnit auxid epc handle value aux : Nat) : State :=
  s.modCore c fun k => (k.post isTrap cause srcUnit auxid epc handle value aux).modPl fun p =>
    { p with waiti := p.waiti && !isTrap }

/-! ### Orphans (R53, R445) -/

/-- CHAN of R53. -/
def Chan.code : Chan → Nat
  | .request => 0 | .reply => 1 | .signal => 2 | .reduce => 3

/-- An orphan at a core: logged while ORPHCNT is below 8, then counted (R53). -/
def Core.orphan (c : Core) (src : Nat) (chan : Chan) (slot kind handle : Nat) : Core :=
  let n := c.spr.orphcnt.toNat
  let w := BitVec.ofNat 64 (coreId src * 2 ^ 52 + chan.code * 2 ^ 50 + slot * 2 ^ 47 + kind * 2 ^ 40 + handle % 2 ^ 32)
  { c with spr := { c.spr with
      orphlog := if n < 8 then Sparse.set 0 c.spr.orphlog n w else c.spr.orphlog
      orphcnt := BitVec.ofNat 32 (min (n + 1) (2 ^ 32 - 1)) } }

/-- KIND of an orphaned arrival (R445). -/
def Arrival.kind (a : Arrival) : Nat :=
  if a.deposits ≠ [] then 2 else if a.status.isSome then 3 else 1

end Sys2Proof.Machine
end

