-- ==== Sys2Proof/Machine/Operands.lean ====
section
/-! DEFINITION. Operand forms: the fields of a base or an extended row as one context, guards (R104), second operands
and literals (R103), slot references and status selectors (R106, R107), local and global addresses (R193, R327). -/

namespace Sys2Proof.Machine

/-- An instruction's fields, however it was encoded; a base form reads every field of word 1 as zero (R232). -/
structure Ctx where
  op : Nat
  l : BitVec 2
  w : W0
  x : W1
  imm : Nat
  lit : Option Word
  len : Nat

/-- The context of a base row. -/
def ctxB (op : Nat) (w : W0) : Ctx := { op := op, l := 0, w := w, x := {}, imm := 0, lit := none, len := 4 }

/-- The context of an extended or literal row. -/
def ctxX (op : Nat) (o : Ext) : Ctx :=
  match o.form with
  | .ext => { op := op, l := 1, w := o.w, x := o.x, imm := o.imm.toNat, lit := none, len := 12 }
  | .lit => { op := op, l := 2, w := o.w, x := {}, imm := 0, lit := some o.lit, len := 12 }
  | .extLit => { op := op, l := 3, w := o.w, x := o.x, imm := o.imm.toNat, lit := some o.lit, len := 20 }

/-- Word 0 as ETVAL holds it (R421). -/
def Ctx.word (k : Ctx) : Nat := (word0 k.op k.l k.w).toNat

/-- The instruction has word 1. -/
def Ctx.isExt (k : Ctx) : Bool := k.l.getLsbD 0

def Ctx.m (k : Ctx) : Nat := k.w.m.toNat
def Ctx.d (k : Ctx) : Nat := k.w.d.toNat
def Ctx.a (k : Ctx) : Nat := k.w.a.toNat
def Ctx.b (k : Ctx) : Nat := k.w.b.toNat
def Ctx.c (k : Ctx) : Nat := k.x.c.toNat
def Ctx.f (k : Ctx) : Nat := k.x.f.toNat
def Ctx.xop (k : Ctx) : Nat := k.x.xop.toNat
def Ctx.sc (k : Ctx) : Nat := k.x.sc.toNat

/-- A guard field holds (R104). -/
def Core.guard (c : Core) (g : BitVec 4) : Bool := c.readP (g.extractLsb' 0 3).toNat ^^ g.getLsbD 3

/-- Steps 3 and 4 of R123 around an instruction's own effect: privilege, then the guards; with a guard that does not
hold, only the pc moves. -/
def run (sv : Bool) (k : Ctx) (s : State) (body : State → Out) : Out :=
  if sv && !s.me.pl.sup then trapOut s 0x03 k.word
  else if s.me.guard k.w.g && s.me.guard k.x.g2 then body s
  else .next (s.advance k.len)

/-- The moving core changed by f, and the pc moved past the instruction. -/
def done (k : Ctx) (s : State) (f : Core → Core) : Out := .next ((s.modMe f).advance k.len)

/-- gD := v, and on. -/
def setG (k : Ctx) (s : State) (v : Nat) : Out := done k s (·.writeG k.d (BitVec.ofNat 64 v))

/-- pD := v, and on. -/
def setP (k : Ctx) (s : State) (v : Bool) : Out := done k s (·.writeP k.d v)

/-- The value of gA. -/
def Ctx.vA (k : Ctx) (s : State) : Nat := (s.me.readG k.a).toNat
/-- The value of gD. -/
def Ctx.vD (k : Ctx) (s : State) : Nat := (s.me.readG k.d).toNat
/-- The value of gC. -/
def Ctx.vC (k : Ctx) (s : State) : Nat := (s.me.readG k.c).toNat
/-- The value of gB, or the literal in its place (R103). -/
def Ctx.vB (k : Ctx) (s : State) : Nat :=
  match k.lit with
  | some v => v.toNat
  | none => (s.me.readG k.b).toNat

/-- The frame, slot and status word that SL, SR, F and E name (R106, R107). -/
def Ctx.ref (k : Ctx) (s : State) : Ref :=
  { handle := if k.x.sr = 1 then (s.me.readG k.f).toNat % 2 ^ 32 else s.me.pl.handle
    slot := k.x.sl.toNat
    stoff := if k.x.e = 0 then 0 else 24 + 8 * k.x.e.toNat
    origin := s.cur
    region := s.regionOf s.cur }

/-- The slot's handle passes R54; the own slot of a threadlet does, and where no threadlet runs there is none. -/
def Ctx.refOk (k : Ctx) (s : State) : Bool :=
  if k.x.sr = 1 then s.handleOk s.cur (k.ref s).handle else s.me.pl.live

/-- The handle check of R106 before a body. -/
def withRef (k : Ctx) (s : State) (body : Ref → Out) : Out :=
  if k.refOk s then body (k.ref s) else trapOut s 0x06 (k.ref s).handle

/-- A split-phase instruction has issued: EMIT counts it (R414). -/
def issued (s : State) (r : Ref) : State := s.emit s.cur (handleCore r.handle) 1

/-- The effective address of R193: gA in the base form, gA plus the sign-extended IMM32 in the extended one. -/
def Ctx.ea (k : Ctx) (s : State) : Nat := (k.vA s + signExtend 32 k.imm) % 2 ^ 64

/-- The checks of R193 on a local address v of n bytes, in its order: the map, then alignment to al. -/
def checkLocal (s : State) (v n al : Nat) (body : Out) : Out :=
  if !localRange v n then trapOut s 0x05 v
  else if !aligned v al then trapOut s 0x04 v
  else body

/-- The checks of R193 on a global address. -/
def checkGlobal (s : State) (ea al : Nat) (body : Out) : Out :=
  if 2 ^ 48 ≤ ea then trapOut s 0x05 ea
  else if !aligned ea al then trapOut s 0x04 ea
  else body

/-- A local read by the pipeline: an uncorrectable error takes cause 0x10 (R355). -/
def checkEcc (s : State) (v n : Nat) (body : Out) : Out :=
  if s.localBad s.cur v n then trapOut s 0x10 v else body

end Sys2Proof.Machine
end

