-- ==== Sys2Proof/Machine/Flags.lean ====
section
/-! DEFINITION. Number formats and rounding (R308-R317, R239), the exact arithmetic under them, and the raising of
flags (R99, R187, R234). A finite value is held exactly, as a signed multiple of a power of two. -/

namespace Sys2Proof.Machine

/-- A binary format: exponent and fraction widths; `top` says that the highest exponent holds finite values, as in
E4M3 and E2M1 (R309, R311). -/
structure Fmt where
  eb : Nat
  mb : Nat
  top : Bool := false
  deriving DecidableEq, Repr

/-- The format of a code of R111: 1 FP32, 2 FP16, 3 BF16, 4 E4M3, 5 E5M2, 6 E2M1, 11 FP64. -/
def fmtOf (code : Nat) : Fmt :=
  match code with
  | 2 => ⟨5, 10, false⟩
  | 3 => ⟨8, 7, false⟩
  | 4 => ⟨4, 3, true⟩
  | 5 => ⟨5, 2, false⟩
  | 6 => ⟨2, 1, true⟩
  | 11 => ⟨11, 52, false⟩
  | _ => ⟨8, 23, false⟩

/-- Width of a format in bits. -/
def Fmt.width (f : Fmt) : Nat := 1 + f.eb + f.mb
def Fmt.bias (f : Fmt) : Int := (2 ^ (f.eb - 1) : Nat) - 1
/-- The exponent of the least subnormal. -/
def Fmt.emin (f : Fmt) : Int := 1 - f.bias - f.mb
/-- The code of the largest finite magnitude (R309-R311). -/
def Fmt.maxBits (f : Fmt) : Nat :=
  if f.top then (if f.eb = 2 then 7 else 0x7E) else (2 ^ f.eb - 1) * 2 ^ f.mb - 1
/-- The code of infinity. -/
def Fmt.infBits (f : Fmt) : Nat := (2 ^ f.eb - 1) * 2 ^ f.mb
/-- The canonical NaN (R308). -/
def Fmt.nan (f : Fmt) : Nat :=
  if f.top then 0x7F else f.infBits + 2 ^ (f.mb - 1)

/-- A value: NaN (signalling or not), infinity, or (−1)^neg × m × 2^e exactly. -/
inductive FV where
  | nan (sig : Bool)
  | inf (neg : Bool)
  | fin (neg : Bool) (m : Nat) (e : Int)
  deriving DecidableEq, Repr

/-- The value of a code (R308-R311). -/
def unpack (f : Fmt) (x : Nat) : FV :=
  let neg := x.testBit (f.eb + f.mb)
  let e := bits x (f.eb + f.mb - 1) f.mb
  let m := x % 2 ^ f.mb
  if f.top then
    if f.eb = 4 ∧ e = 15 ∧ m = 7 then .nan false
    else if e = 0 then .fin neg m f.emin else .fin neg (m + 2 ^ f.mb) (f.emin + e - 1)
  else if e = 2 ^ f.eb - 1 then
    if m = 0 then .inf neg else .nan (f.mb ≠ 2 && !m.testBit (f.mb - 1))
  else if e = 0 then .fin neg m f.emin
  else .fin neg (m + 2 ^ f.mb) (f.emin + e - 1)

/-- Flag bits of R99. -/
def fINX : Nat := 1
def fUNF : Nat := 2
def fOVF : Nat := 4
def fDZ : Nat := 8
def fINV : Nat := 16
def fRANGE : Nat := 32

/-- Rounding n + rem / 2^sh to an integer (R315, R239): modes 0 RNE, 1 RTZ, 2 RUP, 3 RDN, 4 RS with a 32-bit draw. -/
def roundInt (mode : Nat) (neg : Bool) (rnd n rem sh : Nat) : Nat :=
  let up : Bool :=
    match mode with
    | 0 => decide (2 * rem > 2 ^ sh) || (decide (2 * rem = 2 ^ sh) && n % 2 == 1)
    | 2 => !neg && decide (rem ≠ 0)
    | 3 => neg && decide (rem ≠ 0)
    | 4 => decide (rnd < 2 ^ 32 * rem / 2 ^ sh)
    | _ => false
  if up then n + 1 else n

/-- The rounds of RandBits, n of them left: c0 to c3, k0, k1 (R135). -/
def philox : Nat → Nat → Nat → Nat → Nat → Nat → Nat → Nat
  | 0, c0, _, _, _, _, _ => c0
  | n + 1, c0, c1, c2, c3, k0, k1 =>
    let p0 := 0xD2511F53 * c0
    let p1 := 0xCD9E8D57 * c2
    philox n (p1 / 2 ^ 32 ^^^ c1 ^^^ k0) (p1 % 2 ^ 32) (p0 / 2 ^ 32 ^^^ c3 ^^^ k1) (p0 % 2 ^ 32) ((k0 + 0x9E3779B9) % 2 ^ 32)
      ((k1 + 0xBB67AE85) % 2 ^ 32)

/-- RandBits (R135). -/
def randBits (seed strm idx : Nat) : Nat :=
  philox 10 (idx % 2 ^ 32) (idx / 2 ^ 32 % 2 ^ 32) (seed / 2 ^ 32) 0 (seed % 2 ^ 32) (strm % 2 ^ 32)

/-- m × 2^e as a multiple of 2^q: quotient, remainder and the shift that the remainder is over. -/
def splitAt (m : Nat) (e q : Int) : Nat × Nat × Nat :=
  if q ≤ e then (m * 2 ^ (e - q).toNat, 0, 0)
  else (m / 2 ^ (q - e).toNat, m % 2 ^ (q - e).toNat, (q - e).toNat)

/-- Round(x, k, mode, idx) of R133 and R315 for x = (−1)^neg × m × 2^e: the code and the flags. -/
def roundTo (f : Fmt) (mode : Nat) (rnd : Nat) (neg : Bool) (m : Nat) (e : Int) : Nat × Nat :=
  let sgn := if neg then 2 ^ (f.eb + f.mb) else 0
  if m = 0 then (sgn, 0)
  else
    let p := f.mb + 1
    let qu : Int := e + (Nat.log2 m + 1 : Nat) - p
    let q := max f.emin qu
    let (n, rem, sh) := splitAt m e q
    let r := roundInt mode neg rnd n rem sh
    let (r, q) := if r = 2 ^ p then (r / 2, q + 1) else (r, q)
    let mag := (q - f.emin).toNat * 2 ^ f.mb + r
    let inexact := decide (rem ≠ 0)
    -- the exact value exceeds the largest finite one
    let mx := f.maxBits
    let mxM := mx % 2 ^ f.mb + 2 ^ f.mb
    let mxE : Int := f.emin + (mx / 2 ^ f.mb : Nat) - 1
    let big : Bool :=
      if mxE ≤ e then decide (mxM < m * 2 ^ (e - mxE).toNat) else decide (mxM * 2 ^ (mxE - e).toNat < m)
    let ovf : Bool := if f.top || mode == 4 then big else decide (mx < mag)
    if ovf then
      let toMax := f.top || mode == 4 || mode == 1 || (mode == 2 && neg) || (mode == 3 && !neg)
      (sgn + (if toMax then mx else f.infBits), fOVF + fINX)
    else
      -- tininess after rounding, with an unbounded exponent (R186)
      let (nu, remu, shu) := splitAt m e qu
      let ru := roundInt mode neg rnd nu remu shu
      let eminN : Int := f.emin + f.mb
      let tiny : Bool := decide (qu + (p : Int) - 1 < eminN) && !(ru == 2 ^ p && decide (qu + (p : Int) = eminN))
      (sgn + mag, (if inexact then fINX else 0) + (if inexact && tiny then fUNF else 0))

/-- A NaN result, INV when `inv`. -/
def nanR (f : Fmt) (inv : Bool) : Nat × Nat := (f.nan, if inv then fINV else 0)

def FV.isNan : FV → Bool
  | .nan _ => true
  | _ => false
def FV.isSnan : FV → Bool
  | .nan s => s
  | _ => false
def FV.isInf : FV → Bool
  | .inf _ => true
  | _ => false
def FV.isZero : FV → Bool
  | .fin _ 0 _ => true
  | _ => false
def FV.neg : FV → FV
  | .nan s => .nan s
  | .inf n => .inf (!n)
  | .fin n m e => .fin (!n) m e
def FV.sign : FV → Bool
  | .nan _ => false
  | .inf n => n
  | .fin n _ _ => n

/-- An infinity's code, a code with sign. -/
def infR (f : Fmt) (neg : Bool) : Nat := (if neg then 2 ^ (f.eb + f.mb) else 0) + f.infBits

/-- The signed integer of a finite value scaled to exponent q, q at or below its own. -/
def scaleTo (neg : Bool) (m : Nat) (e q : Int) : Int :=
  let v : Int := (m * 2 ^ (e - q).toNat : Nat)
  if neg then -v else v

/-- A sum of exact terms (neg, m, e) as one finite value; the sign of a zero sum is `z`. -/
def exactSum (z : Bool) (ts : List (Bool × Nat × Int)) : FV :=
  let q := ts.foldl (fun a t => min a t.2.2) 0
  let v := ts.foldl (fun a t => a + scaleTo t.1 t.2.1 t.2.2 q) (0 : Int)
  if v = 0 then .fin z 0 0 else .fin (decide (v < 0)) v.natAbs q

/-- Rounding a value: NaNs become canonical, infinities stay. -/
def roundV (f : Fmt) (mode rnd : Nat) : FV → Nat × Nat
  | .nan s => nanR f s
  | .inf n => (infR f n, 0)
  | .fin n m e => roundTo f mode rnd n m e

/-- a + b, exactly, with the sign rule of R315 for a zero sum; the flag says an invalid operation. -/
def addV (mode : Nat) (a b : FV) : FV × Bool :=
  match a, b with
  | .nan s, .nan t => (.nan false, s || t)
  | .nan s, _ => (.nan false, s)
  | _, .nan t => (.nan false, t)
  | .inf n, .inf m => if n = m then (.inf n, false) else (.nan false, true)
  | .inf n, _ => (.inf n, false)
  | _, .inf n => (.inf n, false)
  | .fin n1 m1 e1, .fin n2 m2 e2 =>
    (exactSum (if n1 = n2 then n1 else mode == 3) [(n1, m1, e1), (n2, m2, e2)], false)

/-- a × b exactly. -/
def mulV (a b : FV) : FV × Bool :=
  match a, b with
  | .nan s, .nan t => (.nan false, s || t)
  | .nan s, _ => (.nan false, s)
  | _, .nan t => (.nan false, t)
  | .inf n, .inf m => (.inf (n ^^ m), false)
  | .inf n, .fin m v _ => if v = 0 then (.nan false, true) else (.inf (n ^^ m), false)
  | .fin n v _, .inf m => if v = 0 then (.nan false, true) else (.inf (n ^^ m), false)
  | .fin n1 m1 e1, .fin n2 m2 e2 => (.fin (n1 ^^ n2) (m1 * m2) (e1 + e2), false)

/-- The rounding of an exact result with its invalid flag. -/
def finish (f : Fmt) (mode rnd : Nat) (r : FV × Bool) : Nat × Nat :=
  if r.2 then nanR f true else roundV f mode rnd r.1

/-- a + b rounded. -/
def fAdd (f : Fmt) (mode rnd : Nat) (a b : FV) : Nat × Nat := finish f mode rnd (addV mode a b)

/-- a × b rounded. -/
def fMul (f : Fmt) (mode rnd : Nat) (a b : FV) : Nat × Nat := finish f mode rnd (mulV a b)

/-- a × b + c with one rounding; INV for 0 × ∞ whatever c is. -/
def fFma (f : Fmt) (mode rnd : Nat) (a b c : FV) : Nat × Nat :=
  let (p, i1) := mulV a b
  if i1 || c.isSnan then nanR f true else finish f mode rnd (addV mode p c)

/-- a ÷ b rounded (R188): the quotient to 128 bits beyond the fraction, its remainder as a sticky bit. -/
def fDiv (f : Fmt) (mode rnd : Nat) (a b : FV) : Nat × Nat :=
  if a.isNan || b.isNan then nanR f (a.isSnan || b.isSnan)
  else
    let n := a.sign ^^ b.sign
    match a, b with
    | .inf _, .inf _ => nanR f true
    | .inf _, _ => (infR f n, 0)
    | _, .inf _ => roundTo f mode rnd n 0 0
    | .fin _ m1 e1, .fin _ m2 e2 =>
      if m2 = 0 then (if m1 = 0 then nanR f true else (infR f n, fDZ))
      else
        let sh : Nat := 192
        let q := m1 * 2 ^ sh / m2
        let st := if m1 * 2 ^ sh % m2 = 0 then 0 else 1
        roundTo f mode rnd n (2 * q + st) (e1 - e2 - (sh : Int) - 1)
    | _, _ => nanR f false

/-- Integer square root by bits, n bits of result still to be found. -/
def isqrtAux (x : Nat) : Nat → Nat → Nat
  | 0, r => r
  | n + 1, r =>
    let r' := r + 2 ^ n
    isqrtAux x n (if r' * r' ≤ x then r' else r)

/-- floor(√x). -/
def isqrt (x : Nat) : Nat := isqrtAux x (Nat.log2 x / 2 + 1) 0

/-- √a rounded (R188). -/
def fSqrt (f : Fmt) (mode rnd : Nat) (a : FV) : Nat × Nat :=
  match a with
  | .nan s => nanR f s
  | .inf n => if n then nanR f true else (infR f false, 0)
  | .fin n m e =>
    if m = 0 then roundTo f mode rnd n 0 0
    else if n then nanR f true
    else
      let sh : Nat := 256 + (if e % 2 = 0 then 0 else 1)
      let x := m * 2 ^ sh
      let r := isqrt x
      let st := if r * r = x then 0 else 1
      roundTo f mode rnd false (2 * r + st) ((e - (sh : Int)) / 2 - 1)

/-- a < b for values that are no NaN; zeros are equal whatever their signs. -/
def FV.lt (a b : FV) : Bool :=
  match a, b with
  | .inf n, .inf m => n && !m
  | .inf n, _ => n
  | _, .inf m => !m
  | .fin n1 m1 e1, .fin n2 m2 e2 =>
    let q := min e1 e2
    decide (scaleTo n1 m1 e1 q < scaleTo n2 m2 e2 q)
  | _, _ => false

/-- a = b for values that are no NaN. -/
def FV.eq (a b : FV) : Bool := !(a.isNan || b.isNan) && !a.lt b && !b.lt a

/-- RaiseFlags (R133): EXCFLAGS takes the flags. -/
def Core.orFlags (c : Core) (fl : Nat) : Core :=
  { c with spr := { c.spr with excflags := c.spr.excflags ||| BitVec.ofNat 6 fl } }

/-- Some of the flags is enabled in EXCEN. -/
def Core.flagTrap (c : Core) (fl : Nat) : Bool := (c.spr.excen &&& BitVec.ofNat 6 fl) != 0

/-- The end of a scalar or register-mode instruction that raised flags (R187, R234): with an enabled one, EXCFLAGS
holds the flags and cause 0x0F is taken with no destination written; else the destination is written. -/
def raise (k : Ctx) (s : State) (fl : Nat) (f : Core → Core) : Out :=
  let s := s.modMe (·.orFlags fl)
  if s.me.flagTrap fl then trapOut s 0x0F fl else done k s f

/-- An engine ends an operation's flags (R237, R262): EXCFLAGS takes them, and an enabled one posts the recorded
trap 0x0F. -/
def State.engineFlags (s : State) (c fl src epc handle : Nat) : State :=
  let s := s.modCore c (·.orFlags fl)
  if (s.core c).flagTrap fl then s.post c true 0x0F src 0 epc handle fl 0 else s

end Sys2Proof.Machine
end

