-- ==== Sys2Proof/Machine/Memory.lean ====
section
/-! DEFINITION. Physical memory, encryption, the slices' line caches, page walks and translation caches (14_memory). -/

namespace Sys2Proof.Machine

/-! ### The physical map (R329, R331) -/

/-- What lies at a PA. -/
inductive PaKind where
  | hbm | direct (t : Nat) | reply (s : Nat) | aperture | beyond
  deriving DecidableEq, Repr

/-- DIRECT of a slice's configuration word. -/
def Slice.direct (l : Slice) : Nat := bits l.config.toNat 47 44

def State.paKind (s : State) (pa : Nat) : PaKind :=
  if pa < 0xC000000000 then .hbm
  else if 0xD0000000000 ≤ pa ∧ pa < 0xD0040000000 then
    let t := (pa - 0xD0000000000) / 0x400000
    if pa % 0x400000 < 0x40000 * (s.slice t).direct then .direct t else .beyond
  else if 0xD8000000000 ≤ pa ∧ pa < 0xD8000004000 then .reply ((pa - 0xD8000000000) / 64)
  else if 0xE0000000000 ≤ pa ∧ pa < 0x100000000000 then .aperture
  else .beyond

/-- The home slice of a VA (R134). -/
def homeSlice (va : Nat) : Nat :=
  let x := bits va 47 12
  let h := bits x 7 0 ^^^ bits x 15 8 ^^^ bits x 23 16 ^^^ bits x 31 24
  h ^^^ (bits x 35 32 * 16 + bits x 35 32)

/-! ### Bytes and lines in memory (R330, R351, R352) -/

/-- n bytes at a PA, as they were last written. -/
def readCells (m : List Host.Cell) (a : Nat) : Nat → List Byte
  | 0 => []
  | n + 1 => Sparse.get 0 m a :: readCells m (a + 1) n

/-- The line that bytes make up, byte 0 lowest. -/
def lineOf (bs : List Byte) : Line := BitVec.ofNat 512 (leNat bs)
/-- n bytes of a line from byte o. -/
def lineBytes (l : Line) (o n : Nat) : List Byte := natLE n (l.toNat >>> (8 * o))
/-- The line with bytes from o replaced. -/
def lineSet (l : Line) (o : Nat) (bs : List Byte) : Line :=
  BitVec.ofNat 512 (putBits l.toNat (8 * (o + bs.length) - 1) (8 * o) (leNat bs))

/-- The base die whose controllers hold a PA: 12 stacks, 3 to a die, in 256-byte granules (R2, R330). That stack n stands on die n / 3 is
the model's choice (assumption log, entry 85). -/
def hbmDie (pa : Nat) : Nat := (pa / 256 % 12) / 3

/-- The key pair that a key id selects at a die (R351): a random one until firmware loads the slot. -/
def State.keyPair (s : State) (die id : Nat) : KeyPair :=
  (Sparse.get none s.mem.keys (256 * die + id)).getD (.drawn s.fw.boots (256 * die + id))

/-- The 512 bits of a key pair. -/
def keyBits : KeyPair → Nat
  | .drawn boot id => (Config.drawnPair boot id).toNat
  | .loaded v => v.toNat

/-- An HBM line read under a key id: its bytes if it was written under that pair, or never written; else what its
ciphertext gives when it is deciphered with the wrong key, under the line's tweak (R351, R352). -/
def State.hbmRead (s : State) (line key : Nat) : Line :=
  let d := lineOf (readCells s.mem.cells (64 * line) 64)
  match Sparse.get none s.mem.pairs line with
  | none => d
  | some p =>
    let q := s.keyPair (hbmDie (64 * line)) key
    if p = q then d else BitVec.ofNat 512 (xtsDecrypt (keyBits q) line (xtsEncrypt (keyBits p) line d.toNat))

/-- An HBM line written whole under a key id, with its full/empty bit; the errors of what it held are gone. -/
def State.hbmWrite (s : State) (line key : Nat) (d : Line) (full : Bool) : State :=
  { s with mem := { s.mem with
      cells := writeCells s.mem.cells (64 * line) (lineBytes d 0 64)
      pairs := Sparse.set none s.mem.pairs line (some (s.keyPair (hbmDie (64 * line)) key))
      empty := Sparse.set false s.mem.empty line (!full)
      bad := Sparse.set false s.mem.bad line false
      soft := Sparse.set 0 s.mem.soft line 0 } }

def State.poisoned (s : State) (line : Nat) : Bool := Sparse.get false s.mem.poison line

/-- A line of memory that cannot be read: poisoned, or with an uncorrectable error that a read would find (R355). -/
def State.unreadable (s : State) (line : Nat) : Bool := s.poisoned line || Sparse.get false s.mem.bad line

/-- A slice has found an uncorrectable error in a line (R355). -/
def State.poisonLine (s : State) (line : Nat) : State :=
  { s with mem := { s.mem with poison := Sparse.set false s.mem.poison line true, bad := Sparse.set false s.mem.bad line false } }

/-- The code that protects a line of memory (R354): that of a slice's SRAM, of HBM, or none where there is no memory of its own. -/
inductive Protection where
  | sram (t : Nat) | hbm | none
  deriving DecidableEq, Repr

/-- SRAM beside its cache is direct memory and the 256 KiB reserved to firmware (R329, R331). -/
def State.protection (s : State) (line : Nat) : Protection :=
  let pa := 64 * line
  match s.paKind pa with
  | .hbm => .hbm
  | .direct t => .sram t
  | _ =>
    if 0xD0000000000 ≤ pa ∧ pa < 0xD0040000000 ∧ 0x3C0000 ≤ pa % 0x400000 then .sram ((pa - 0xD0000000000) / 0x400000) else .none

/-- All 64 bytes of a line have been written (R355). -/
def State.unpoison (s : State) (line : Nat) : State :=
  { s with mem := { s.mem with poison := Sparse.set false s.mem.poison line false } }

/-- A line of memory whose correctable errors have been corrected: counted by its slice, word by word, or by its stack
(R354). -/
def State.correctLine (s : State) (line : Nat) : State :=
  let e := Sparse.get 0 s.mem.soft line
  if e = 0 then s
  else
    let m := { s.mem with soft := Sparse.set 0 s.mem.soft line 0 }
    match s.protection line with
    | .sram t =>
      { s with mem := m }.setSlice t { s.slice t with corrected := (s.slice t).corrected + BitVec.ofNat 32 (popcount 8 e) }
    | _ =>
      let n := line / 4 % 12
      { s with mem := { m with corrected := Sparse.set 0 m.corrected n ((Sparse.get 0 m.corrected n + 1) % 2 ^ 32) } }

/-- A slice reads a line of memory: errors are corrected and counted, or found to be uncorrectable (R354, R355). -/
def State.scanLine (s : State) (line : Nat) : State :=
  let s := s.correctLine line
  if Sparse.get false s.mem.bad line then s.poisonLine line else s

/-- PhysRead (R339): n bytes within one line at a PA, key id 0, past every cache; none beyond installed memory, nor at a
PA that is no memory, such as one of the host aperture (a choice: R341; assumption log, entry 89). -/
def State.physRead (s : State) (pa n : Nat) : Option Nat :=
  match s.paKind pa with
  | .hbm => some (leNat (lineBytes (s.hbmRead (pa / 64) 0) (pa % 64) n))
  | .direct _ => some (leNat (readCells s.mem.cells pa n))
  | _ => none

/-- An 8-byte table entry written at its PA, key id 0 (R343). -/
def State.physWrite (s : State) (pa v : Nat) : State :=
  match s.paKind pa with
  | .hbm =>
    let l := pa / 64
    s.hbmWrite l 0 (lineSet (s.hbmRead l 0) (pa % 64) (natLE 8 v)) (!Sparse.get false s.mem.empty l)
  | .direct _ => { s with mem := { s.mem with cells := writeCells s.mem.cells pa (natLE 8 v) } }
  | _ => s

/-! ### The page walk (R338-R344) -/

/-- What an access needs of a leaf (R341). -/
inductive Need where
  | read | write | both | exec
  deriving DecidableEq, Repr

def Need.isWrite : Need → Bool
  | .write => true
  | .both => true
  | _ => false

/-- KIND of a fault record (R346). -/
def Need.code : Need → Nat
  | .read => 0 | .write => 1 | .both => 2 | .exec => 3

/-- Leaf fields (R338). -/
def leafOrd (e : Nat) : Nat := bits e 9 8
def leafSync (e : Nat) : Bool := e.testBit 10
def leafWatch (e : Nat) : Bool := e.testBit 11
def leafKey (e : Nat) : Nat := bits e 31 24
def leafEfc (e : Nat) : Nat := bits e 19 16
def leafBlk (e : Nat) : Nat := bits e 23 20

/-- Page size of a size code: 4 KiB × 4^n (R340). -/
def pageSize (code : Nat) : Nat := if code = 9 then 2 ^ 30 else 4096 * 4 ^ code

/-- Permits (R341). -/
def permits (e : Nat) : Need → Bool
  | .read => e.testBit 1
  | .write => e.testBit 2
  | .both => e.testBit 1 && e.testBit 2
  | .exec => e.testBit 3

/-- The index of a level (R340). -/
def tableIndex (va lev : Nat) : Nat :=
  match lev with
  | 0 => bits va 47 38
  | 1 => bits va 37 30
  | 2 => bits va 29 20
  | _ => bits va 19 12

/-- A leaf at a level is malformed (R341, R314). -/
def malformedLeaf (e lev : Nat) : Bool :=
  let sz := bits e 7 4
  let okSize : Bool := match lev with
    | 1 => sz == 9
    | 2 => decide (4 ≤ sz) && decide (sz ≤ 8)
    | 3 => decide (sz ≤ 3)
    | _ => false
  let efc := leafEfc e
  let blk := leafBlk e
  !okSize || !aligned (bits e 63 32 * 4096) (pageSize sz) || e.testBit 15 || leafOrd e == 3 || decide (13 ≤ efc) ||
    (if efc = 6 then decide (2 ≤ blk) else decide (blk ≠ 0))

/-- What a translation gives (R341): a PA with its leaf and the PA of the leaf's entry; an abort at once; a fault
with its reason, level and entry; a malformed entry; a table beyond installed memory, or with an uncorrectable error. -/
inductive Trans where
  | ok (pa leaf ent : Nat)
  | abort
  | fault (reason lev entry : Nat)
  | malformed
  | beyond (pa : Nat)
  | poison (pa : Nat)
  deriving DecidableEq, Repr

/-- The levels from lev on, the table at t. -/
def State.walk (s : State) (va t : Nat) (need : Need) : Nat → Nat → Trans
  | 0, _ => .malformed
  | n + 1, lev =>
    let at_ := t + 8 * tableIndex va lev
    match s.physRead at_ 8 with
    | none => .beyond at_
    | some e =>
      if s.unreadable (at_ / 64) then .poison at_
      else if !e.testBit 0 then .fault 1 lev e
      else if bits e 3 1 = 0 then
        if lev = 3 ∨ bits e 31 1 ≠ 0 then .malformed else s.walk va (bits e 63 32 * 4096) need n (lev + 1)
      else if malformedLeaf e lev then .malformed
      else if !permits e need then .fault 2 lev e
      else .ok (bits e 63 32 * 4096 + va % pageSize (bits e 7 4)) e at_

/-- ASTBASE × 4,096 of a slice (R331). -/
def Slice.astBase (l : Slice) : Nat := bits l.config.toNat 43 12 * 4096

/-- A fresh walk at a slice (R341). -/
def State.walkAt (s : State) (h asid va : Nat) (need : Need) : Trans :=
  let a := (s.slice h).astBase + 16 * asid
  match s.physRead a 8 with
  | none => .beyond a
  | some w =>
    if s.unreadable (a / 64) then .poison a
    else if !w.testBit 0 then .abort else s.walk va (bits w 43 12 * 4096) need 4 0

/-- The PAs that a fresh walk reads, from level lev on. -/
def State.walkReads (s : State) (va t : Nat) : Nat → Nat → List Nat
  | 0, _ => []
  | n + 1, lev =>
    let at_ := t + 8 * tableIndex va lev
    at_ :: match s.physRead at_ 8 with
      | some e =>
        if s.unreadable (at_ / 64) || !e.testBit 0 || bits e 3 1 != 0 || lev == 3 || bits e 31 1 != 0 then []
        else s.walkReads va (bits e 63 32 * 4096) n (lev + 1)
      | none => []

/-- What a fresh walk reads is corrected, or found to be uncorrectable (R354, R355). -/
def State.scanTables (s : State) (h asid va : Nat) : State :=
  if s.mem.soft = [] ∧ s.mem.bad = [] then s
  else
    let a := (s.slice h).astBase + 16 * asid
    let down := match s.physRead a 8 with
      | some w => if s.unreadable (a / 64) || !w.testBit 0 then [] else s.walkReads va (bits w 43 12 * 4096) 4 0
      | none => []
    (a :: down).foldl (fun s pa => s.scanLine (pa / 64)) s

/-- The service frame, slot and ring of an ASID (R339): SVH, SVSLOT, RLOG, RING. -/
def State.service (s : State) (h asid : Nat) : Nat × Nat × Nat × Nat :=
  match s.physRead ((s.slice h).astBase + 16 * asid + 8) 8 with
  | none => (0, 0, 0, 0)
  | some w => (bits w 63 32, bits w 31 29, bits w 28 25, bits w 19 0)

/-- The cached leaf for a VA (R344). -/
def Slice.tlbFind (l : Slice) (asid va : Nat) : Option Tlb :=
  l.tlb.find? fun t => t.asid == asid && t.va == va - va % pageSize t.size

/-- A translation that changes nothing: no accessed bit, no cached leaf (R213). -/
def State.peekTrans (s : State) (h asid va : Nat) (need : Need) : Trans :=
  match (s.slice h).tlbFind asid va with
  | some t =>
    if permits t.leaf need then .ok (bits t.leaf 63 32 * 4096 + va % pageSize t.size) t.leaf t.ent else s.walkAt h asid va need
  | none => s.walkAt h asid va need

/-- Room for one more leaf: an unpinned one goes first, of them, or of all if there is none, the oldest (R342; the oldest is a choice:
assumption log, entry 90). -/
def tlbRoom (ts : List Tlb) : List Tlb :=
  if ts.length < 4096 then ts
  else
    match ts.findIdx? (fun t => !t.leaf.testBit 12) with
    | some i => ts.eraseIdx i
    | none => ts.drop 1

/-- Translate at the home slice: its translation cache, then its walker, which sets accessed and dirty and fills the
cache (R332, R343, R344). -/
def State.translate (s : State) (h asid va : Nat) (need : Need) : State × Trans :=
  let l := s.slice h
  match l.tlbFind asid va with
  | some t =>
    if permits t.leaf need && (!need.isWrite || t.leaf.testBit 14) then
      (s, .ok (bits t.leaf 63 32 * 4096 + va % pageSize t.size) t.leaf t.ent)
    else fresh (s.scanTables h asid va) l
  | none => fresh (s.scanTables h asid va) l
where
  fresh (s : State) (l : Slice) : State × Trans :=
    match s.walkAt h asid va need with
    | .ok pa e ent =>
      let e' := e ||| 2 ^ 13 ||| (if need.isWrite then 2 ^ 14 else 0)
      let s := if e' = e then s else s.physWrite ent e'
      let sz := bits e 7 4
      let base := va - va % pageSize sz
      let rest := l.tlb.filter fun t => !(t.asid == asid && t.va == base && t.size == sz)
      (s.setSlice h { s.slice h with tlb := tlbRoom rest ++ [{ asid := asid, va := base, size := sz, leaf := e', ent := ent }] },
       .ok pa e' ent)
    | r => (s, r)

/-! ### The line cache of a slice (R333, R352, R355) -/

/-- Lines of HBM a slice can hold (R331). -/
def Slice.capacity (l : Slice) : Nat := (0x3C0000 - 0x40000 * l.direct) / 64

def State.cline (s : State) (h line : Nat) : Option CLine := Sparse.get none (s.slice h).lines line

def State.setCline (s : State) (h line : Nat) (v : Option CLine) : State :=
  s.setSlice h { s.slice h with lines := Sparse.set none (s.slice h).lines line v }

/-- A slice reads a line as it holds it: its errors are corrected and counted, word by word, or one is found to be uncorrectable
(R354, R355). -/
def State.scanCached (s : State) (h line : Nat) : State :=
  match s.cline h line with
  | some c =>
    if c.soft = 0 && !c.bad then s
    else
      let l := s.slice h
      let s := (s.setSlice h { l with corrected := l.corrected + BitVec.ofNat 32 (popcount 8 c.soft) }).setCline h line
        (some { c with soft := 0 })
      if c.bad then s.poisonLine line else s
  | none => s

/-- Dirty data goes to HBM with its full/empty bit; the line stays, clean (R231 wb). Only dirty data is read for this; good data is a
write of all 64 bytes, which clears the poison of the line (R355). -/
def State.writeBack (s : State) (h line : Nat) : State :=
  if !((s.cline h line).any (·.dirty)) then s
  else
    let s := s.scanCached h line
    match s.cline h line with
    | some c =>
      let t := s.hbmWrite line c.key c.data c.full
      (if c.bad then t else t.unpoison line).setCline h line (some { c with dirty := false })
    | none => s

/-- The line that replacement takes: lowest retention, then least recently used (R333). -/
def pickVictim : Sparse (Option CLine) → Option (Nat × CLine) → Option (Nat × CLine)
  | [], b => b
  | (k, some c) :: t, none => pickVictim t (some (k, c))
  | (k, some c) :: t, some (bk, b) =>
    pickVictim t (if c.ret < b.ret ∨ (c.ret = b.ret ∧ c.used < b.used) then some (k, c) else some (bk, b))
  | (_, none) :: t, b => pickVictim t b

/-- Retention class of a TH hint (R108): 0 lowest. -/
def retention (th : Nat) : Nat := match th with | 0 => 1 | 2 => 2 | _ => 0

/-- The line cached at its home slice under a key id, fetched or fetched afresh if need be (R333, R352). -/
def State.ensureLine (s : State) (h line key th : Nat) : State × CLine :=
  let s := match s.cline h line with
    | some c => if c.key = key then s.scanCached h line else (s.writeBack h line).setCline h line none
    | none => s
  match s.cline h line with
  | some c =>
    let l := s.slice h
    let c := { c with used := l.clock }
    ((s.setSlice h { l with clock := l.clock + 1 }).setCline h line (some c), c)
  | none =>
    let s :=
      if (s.slice h).lines.length < (s.slice h).capacity then s
      else match pickVictim (s.slice h).lines none with
        | some (k, _) => (s.writeBack h k).setCline h k none
        | none => s
    let s := s.scanLine line
    let l := s.slice h
    let c : CLine := { data := s.hbmRead line key, dirty := false, full := !Sparse.get false s.mem.empty line
                       key := key, ret := retention th, used := l.clock, bad := s.poisoned line }
    ((s.setSlice h { l with clock := l.clock + 1 }).setCline h line (some c), c)

/-- A cached line of HBM has been used under an address of an ASID (R231). -/
def State.noteLine (s : State) (h pa asid va : Nat) : State :=
  if s.paKind pa = .hbm then
    match s.cline h (pa / 64) with
    | some c =>
      if c.names.contains (asid, va / 64) then s
      else s.setCline h (pa / 64) (some { c with names := c.names ++ [(asid, va / 64)] })
    | none => s
  else s

/-- A cached line falls to the lowest retention (R206). -/
def State.lowRetention (s : State) (h line : Nat) : State :=
  match s.cline h line with
  | some c => s.setCline h line (some { c with ret := 0 })
  | none => s

/-- An access with hint bypass leaves no line behind (R108). -/
def State.bypass (s : State) (h line th : Nat) : State :=
  if th = 3 then (s.writeBack h line).setCline h line none else s

/-- n bytes, within one line of HBM or direct memory, read at their performing agent; none from a poisoned line (R332,
R355). -/
def State.readAt (s : State) (h pa n key th : Nat) : State × Option (List Byte) :=
  let line := pa / 64
  match s.paKind pa with
  | .hbm =>
    if s.poisoned line then (s, none)
    else
      let (s, c) := s.ensureLine h line key th
      (s.bypass h line th, if s.poisoned line then none else some (lineBytes c.data (pa % 64) n))
  | .direct _ =>
    let s := s.scanLine line
    (s, if s.poisoned line then none else some (readCells s.mem.cells pa n))
  | _ => (s, none)

/-- Bytes, within one line, written at their performing agent; `full` sets the line's full/empty bit in the same
step. A write that merges into a poisoned line is not performed; a whole line clears the poison (R355). -/
def State.writeAt (s : State) (h pa : Nat) (bs : List Byte) (key th : Nat) (full : Option Bool) : State × Bool :=
  let line := pa / 64
  match s.paKind pa with
  | .hbm =>
    if s.poisoned line && bs.length != 64 then (s, false)
    else
      let (s, c) := s.ensureLine h line key th
      if s.poisoned line && bs.length != 64 then (s, false)
      else
        let s := if s.poisoned line then s.unpoison line else s
        let c := { c with data := lineSet c.data (pa % 64) bs, dirty := true, full := full.getD c.full, bad := c.bad && bs.length != 64 }
        ((s.setCline h line (some c)).bypass h line th, true)
  | .direct _ =>
    let s := s.scanLine line
    let m := s.mem
    if s.poisoned line && bs.length != 64 then (s, false)
    else
    ({ s with mem := { m with cells := writeCells m.cells pa bs
                              poison := Sparse.set false m.poison line false
                              empty := match full with
                                | some f => Sparse.set false m.empty line (!f)
                                | none => m.empty } }, true)
  | _ => (s, false)

/-- The full/empty bit of a line as its performing agent holds it (R335). -/
def State.lineFull (s : State) (h pa : Nat) : Bool :=
  let line := pa / 64
  match s.paKind pa with
  | .hbm =>
    match s.cline h line with
    | some c => c.full
    | none => !Sparse.get false s.mem.empty line
  | .direct _ => !Sparse.get false s.mem.empty line
  | _ => true

/-- The bit set or cleared (R202). -/
def State.setLineFull (s : State) (h pa key th : Nat) (full : Bool) : State :=
  let line := pa / 64
  match s.paKind pa with
  | .hbm =>
    let (s, c) := s.ensureLine h line key th
    s.setCline h line (some { c with full := full, dirty := true })
  | .direct _ => { s with mem := { s.mem with empty := Sparse.set false s.mem.empty line (!full) } }
  | _ => s

/-! ### Windows of the port (R67) -/

def winEn (w : Window) : Bool := w.w0.getLsbD 0
def winSize (w : Window) : Nat := 2 ^ bits w.w0.toNat 6 1

/-- The lowest-numbered enabled window that holds an address, base being the base field of word 0. -/
def findWindow (ws : Sparse Window) (base : Window → Nat) (a : Nat) : Option Window :=
  (ws.find? fun e => winEn e.2 && a / winSize e.2 == base e.2 / winSize e.2).map (·.2)

/-- Host bus address of an aperture PA (R67). -/
def State.hostAddr (s : State) (pa : Nat) : Option Nat :=
  (findWindow s.port.outWin (fun w => bits w.w0.toNat 43 12 * 4096) pa).map fun w => w.w1.toNat + pa % winSize w

/-- The port's error word takes an event (R67). -/
def Port.logError (p : Port) (kind addr : Nat) : Port :=
  let w := p.err.toNat
  if w.testBit 63 then { p with err := BitVec.ofNat 64 (putBits w 59 52 (min (bits w 59 52 + 1) 255)) }
  else { p with err := BitVec.ofNat 64 (2 ^ 63 + kind * 2 ^ 60 + addr % 2 ^ 48) }

def State.logError (s : State) (kind addr : Nat) : State := { s with port := s.port.logError kind addr }

end Sys2Proof.Machine
end

