-- ==== Sys2Proof/Machine/Global.lean ====
section
/-! DEFINITION. Global memory by virtual address, for the device's own work and for engine pieces: translation at the
home slice, the performing agent, watched pages (R332, R339-R348), the constant cache (R23), and the claim of a
swapped-out weave's scratchpad blocks (R420). -/

namespace Sys2Proof.Machine

/-! ### The core that issued something (R56, R137, R432) -/

/-- The region whose save holds the image of core c for `region`. -/
def State.imageOf (s : State) (region : Option Nat) (c : Nat) : Option (Nat × Save × Core) :=
  match region with
  | none => none
  | some i =>
    match (s.region i).save with
    | none => none
    | some v => (v.cores.find? fun e => e.1 == c).map fun e => (i, v, e.2)

/-- Core c as `region` left it: the core itself, or its image in a save; none when the weave is gone. -/
def State.owner (s : State) (region : Option Nat) (c : Nat) : Option Core :=
  if s.regionOf c = region then some (s.core c) else (s.imageOf region c).map (·.2.2)

/-- That core changed by f. -/
def State.modOwner (s : State) (region : Option Nat) (c : Nat) (f : Core → Core) : State :=
  if s.regionOf c = region then s.modCore c f
  else match s.imageOf region c with
    | none => s
    | some (i, v, _) =>
      s.setRegion i { s.region i with save := some { v with cores := v.cores.map fun e => if e.1 = c then (c, f e.2) else e } }

/-- A journalled store has been performed at a scope: at .co to .pk once the Belide port has accepted it (R359). -/
def JEntry.doneAt (e : JEntry) (scope : Nat) : Bool := e.state != 1 || (e.port && decide (scope < 6))

/-- Releases, FENCEs and FENCECs cover it: every store but an STN, whose entry is released before a DRAIN that covers it signals (R207,
R365). -/
def JEntry.covered (e : JEntry) : Bool := e.kind != 4

/-- A release of this scope and this place in issue order follows the store, which has not been performed there (R204). -/
def JEntry.leads (e : JEntry) (ord scope : Nat) : Bool := !e.doneAt scope && e.covered && decide (e.ord < ord)

/-- A store in the journal that a release of this scope follows has not been performed there (R204). -/
def Core.releaseWaits (k : Core) (ord scope : Nat) : Bool := k.net.journal.any fun e => e.2.leads ord scope

/-! ### A piece of an access at its slice -/

/-- Why a piece of an access was not performed: ended as ABORT; a translation fault with its reason, level and entry
(R346); ended with status 3 under a CAUSE, with the VALUE of its record (R421); it joins what is parked on its page (R362);
its turn at the slice has not come (R332, R334). -/
inductive GErr where
  | abort (va : Nat)
  | fault (va reason lev entry : Nat) (need : Need)
  | cause (c val : Nat)
  | behind (va : Nat) (need : Need)
  | busy
  deriving DecidableEq, Repr

/-- Translation of one access: PA and leaf (R341, R345). Nothing but the ASID keeps address spaces apart, and the state holds no tenant
and no virtual function (R64): the walk (`State.walkAt`), the cached leaves (`Slice.tlbFind`), the faults outstanding (`Slice.faultAt`),
the watched pages (`State.watchGen`) and Prism's records (`Cluster.entryOf`) each go by it. -/
def State.gTrans (s : State) (asid va : Nat) (need : Need) : State × Except GErr (Nat × Nat) :=
  match s.translate (homeSlice va) asid va need with
  | (s, .ok pa leaf _) => (s, .ok (pa, leaf))
  | (s, .abort) => (s, .error (.abort va))
  | (s, .fault r l e) =>
    (s, .error (if (s.service (homeSlice va) asid).1 = 0 then .abort va else .fault va r l e need))
  | (s, .malformed) => (s, .error (.cause 0x02 va))
  | (s, .beyond pa) => (s, .error (.cause 0x05 pa))
  | (s, .poison pa) => (s, .error (.cause 0x10 pa))

/-- The miss registers in use: those of misses, and those that hold parked faults (R334, R345). -/
def Slice.regsUsed (l : Slice) : Nat := l.misses.length + (l.faults.filter (·.reg)).length

/-- The first fault outstanding on a page under an ASID, behind which later accesses park (R362). -/
def Slice.faultAt (l : Slice) (asid va : Nat) : Option Nat :=
  l.faults.findIdx? fun f => f.asid == asid && decide (f.base ≤ va) && decide (va < f.base + f.size)

/-- The slice in whose lists something on a PA waits (R335). -/
def State.agentOf (s : State) (h pa : Nat) : Nat :=
  match s.paKind pa with
  | .direct t => t
  | _ => h

/-- The acquires of the threadlet, earlier than `ord`, that have not been performed and order what follows them (R364, R446). -/
def Core.acquires (k : Core) (tid ord : Nat) : List OrderRec :=
  k.net.orders.filter fun o => o.tid == tid && decide (o.tag < ord) && o.acq && o.cls != some 2

/-- Who an access is for, towards the scopes of R359: a core's engine or threadlet, by its order tag; the front ends; or the host. -/
structure Viewer where
  core : Nat := 0xFFF
  front : Bool := false
  tag : Option Nat := none
  writes : Bool := true
  deriving DecidableEq, Repr

/-- The viewer lies in a scope around a core: the front ends lie in .pk and no narrower one, the host in .sy alone (R359). -/
def Viewer.within (v : Viewer) (scope core : Nat) : Bool :=
  if v.front then decide (5 ≤ scope) else v.core != 0xFFF && sameInst scope core v.core

/-- The viewer may not touch the line yet: it would not see a write that comes first for it, or a read would see its write that
comes first for it. What its own core's threadlets do there R362 orders. -/
def EarlyRel.blocks (e : EarlyRel) (v : Viewer) : Bool :=
  v.within e.scope e.core && !(v.core == e.core && v.tag.isSome) && (e.writes || v.writes)

/-- The access has not been performed; a write in the aperture, not accepted by the port (R359). -/
def State.earlyStands (s : State) (e : EarlyRel) : Bool :=
  ((s.owner e.region e.core).map fun k => k.net.orders.any fun o => o.tag == e.ord && (!e.port || o.store)).getD false

/-- What is watched for on the line of a PA: at its performing agent, or, of the host's memory, at whichever slice its VAs come to. -/
def State.earlyAt (s : State) (h pa : Nat) : List EarlyRel :=
  (match s.paKind pa with
    | .aperture => s.slices.flatMap fun (l : Nat × Slice) => l.2.early
    | _ => (s.slice (s.agentOf h pa)).early).filter fun e => e.line == pa / 64

/-- The viewer waits at a line for what R359 has it see in order. -/
def State.earlyWaits (s : State) (h pa : Nat) (v : Viewer) : Bool :=
  (s.earlyAt h pa).any fun e => e.blocks v && s.earlyStands e

/-- The slice's translation cache serves the access (R342, R343). -/
def Slice.tlbServes (l : Slice) (asid va : Nat) (need : Need) : Bool :=
  (l.tlbFind asid va).any fun t => permits t.leaf need && (!need.isWrite || t.leaf.testBit 14)

/-- A walk for the viewer waits: it would read direct memory without a write there that comes first for it (R341, R359). -/
def State.walkWaits (s : State) (h asid va : Nat) (need : Need) (v : Viewer) : Bool :=
  (s.slices.any fun l => l.2.early.any fun e => e.walked && e.blocks { v with tag := none } && s.earlyStands e) &&
    !(s.slice h).tlbServes asid va need

/-- A reader of the generation of the page of a VA waits: it would not count a write that comes first for it (R348, R359). -/
def State.watchWaits (s : State) (asid va : Nat) (v : Viewer) : Bool :=
  s.slices.any fun l => l.2.early.any fun e =>
    (e.page.any fun p => p.1 == asid && decide (p.2.1 ≤ va) && decide (va < p.2.1 + p.2.2)) && e.blocks v && s.earlyStands e

/-- The host's memory has still to take a write to the line that the Belide port has accepted (R359). -/
def State.portPending (s : State) (pa : Nat) : Bool :=
  (s.hostAddr pa).any fun x => s.msgs.any fun m => match m.body with
    | .hostMem true y _ _ => y / 64 == x / 64
    | _ => false

/-- How a piece reaches its slice: for an engine, an instruction fetch or a packet, in turn behind what waits there; for which core,
or the front ends; of which of its engines, where it may write, and as which parked write, if RESUME let it go on (R63); with which
hint (R108); for the device's own work, which nothing parks (R345). -/
structure Via where
  turn : Bool := false
  core : Nat := 0xFFF
  eng : Option Engine := none
  order : Option Nat := none
  front : Bool := false
  own : Bool := false
  th : Nat := 0
  deriving DecidableEq, Repr

/-- Who sees what the piece sees. -/
def Via.viewer (v : Via) (need : Need) : Viewer :=
  { core := v.core, front := v.front, writes := need.isWrite }

/-- A write of the piece's agent that was parked as number n comes before the piece (R63). -/
def Via.follows (v : Via) (n : Nat) : Bool := v.order.all fun m => decide (n < m)

/-- The VA of a parked write of the piece's agent, an engine of a core of a region or the front ends, which comes before the piece. -/
def Parked.before (v : Via) (region : Option Nat) : Parked → Option Nat
  | .piece c g _ r va (some n) _ => if c == v.core && v.eng == some g && r == region && v.follows n then some va else none
  | .packet _ _ va (some n) => if v.front && v.follows n then some va else none
  | _ => none

/-- An earlier write of the piece's agent may have still to go to the host (R63): it is parked, and nothing says that its page lies
elsewhere, or RESUME has let it go on and it has not been performed. -/
def State.portBehind (s : State) (v : Via) : Bool :=
  (s.slices.any fun l => l.2.faults.any fun f => f.parked.any fun p => (p.before v (s.regionOf v.core)).any fun va =>
    match s.peekTrans l.1 f.asid va .write with
    | .ok pa .. => s.paKind pa == .aperture
    | _ => true) ||
  (v.front && s.queues.any fun q => q.2.exec.any fun e => e.order.any v.follows) ||
  v.eng.any fun g => ((s.core v.core).ops g).any (fun o => o.order.any v.follows) ||
    g == .copy && (s.core v.core).eng.remote.any fun x => x.order.any v.follows

/-- A piece's turn has come at its performing agent: nothing waits on a miss of its line, an absent line finds a miss register
(R332, R334), the host's memory has taken what the port has accepted for its line (R359), and no earlier write of its agent may go
there (R63). -/
def State.inTurn (s : State) (v : Via) (h pa : Nat) (need : Need) : Bool :=
  !v.turn || (!s.earlyWaits h pa (v.viewer need) && match s.paKind pa with
    | .hbm =>
      let l := s.slice h
      !(l.misses.any fun e => e.1 == pa / 64) && ((s.cline h (pa / 64)).isSome || decide (l.regsUsed < 64))
    | .aperture => !s.portPending pa && !(need.isWrite && s.portBehind v)
    | _ => true)

/-- Translation of a piece: behind what is parked on its page, where it takes its turn (R362). -/
def State.gTransVia (s : State) (v : Via) (asid va : Nat) (need : Need) : State × Except GErr (Nat × Nat) :=
  if v.turn && !v.own && ((s.slice (homeSlice va)).faultAt asid va).isSome then (s, .error (.behind va need))
  else if v.turn && s.walkWaits (homeSlice va) asid va need (v.viewer need) then (s, .error .busy)
  else match s.gTrans asid va need with
    | (t, .ok (pa, leaf)) => if t.inTurn v (homeSlice va) pa need then (t, .ok (pa, leaf)) else (s, .error .busy)
    | r => r

/-- n bytes within one line read at their performing agent (R332, R355). -/
def State.paRead (s : State) (h pa n key th : Nat) : State × Except GErr (List Byte) :=
  match s.paKind pa with
  | .aperture =>
    match s.hostAddr pa with
    | some a => (s, .ok (readCells s.port.hostMem a n))
    | none => (s.logError 3 pa, .error (.cause 0x05 pa))
  | .hbm | .direct _ =>
    match s.readAt h pa n key th with
    | (s, some bs) => (s, .ok bs)
    | (s, none) => (s, .error (.cause 0x10 pa))
  | _ => (s, .error (.cause 0x05 pa))

/-- Bytes within one line as they would read, where nothing waits on the line; nothing changes (R84). -/
def State.peekPiece (s : State) (asid va n : Nat) : Option (List Byte) :=
  let h := homeSlice va
  match s.peekTrans h asid va .read with
  | .ok pa leaf _ =>
    let line := pa / 64
    match s.paKind pa with
    | .hbm =>
      if s.unreadable line || (s.slice h).misses.any (fun e => e.1 == line) then none
      else match s.cline h line with
        | some c =>
          some (lineBytes (if c.key = leafKey leaf then c.data else (s.writeBack h line).hbmRead line (leafKey leaf)) (pa % 64) n)
        | none => some (lineBytes (s.hbmRead line (leafKey leaf)) (pa % 64) n)
    | .direct _ => if s.unreadable line then none else some (readCells s.mem.cells pa n)
    | .aperture => if s.portPending pa then none else (s.hostAddr pa).map fun a => readCells s.port.hostMem a n
    | _ => none
  | _ => none

/-- Bytes within one line written at their performing agent. -/
def State.paWrite (s : State) (h pa : Nat) (bs : List Byte) (key th : Nat) (full : Option Bool) :
    State × Except GErr Unit :=
  match s.paKind pa with
  | .aperture =>
    match s.hostAddr pa with
    | some a => ({ s with port := { s.port with hostMem := writeCells s.port.hostMem a bs } }, .ok ())
    | none => (s.logError 3 pa, .error (.cause 0x05 pa))
  | .hbm | .direct _ =>
    match s.writeAt h pa bs key th full with
    | (s, true) => (s, .ok ())
    | (s, false) => (s, .error (.cause 0x10 pa))
  | _ => (s, .error (.cause 0x05 pa))

/-! ### Watch generations (R348) -/

/-- A Prism entry that covers a record in [page, page + size) of an ASID. -/
def PEnt.inPage (e : PEnt) (asid page size : Nat) : Bool :=
  e.kind != 0 && e.asid == asid && decide (page ≤ e.va) && decide (e.va < page + size)

/-- Every Prism discards its entries whose records lie in a page. -/
def State.prismDiscard (s : State) (asid page size : Nat) : State :=
  { s with clusters := Sparse.mapV {} (fun _ c =>
      { c with
        dir := c.dir.filter (fun e => !e.2.inPage asid page size)
        compiles := c.compiles.map fun k =>
          if k.slot.isSome ∧ k.asid = asid ∧ page ≤ k.va ∧ k.va < page + size then { k with dropped := true } else k }) s.clusters }

/-- The base VA and the size of the page that a leaf maps at va. -/
def leafPage (va leaf : Nat) : Nat × Nat :=
  let z := pageSize (bits leaf 7 4)
  (va - va % z, z)

/-- The generation of a page at its home slice, created at 0 (R348); a full table gives up its oldest entry (a choice: R348;
assumption log, entry 91). -/
def State.watchGen (s : State) (asid page size : Nat) : State × Nat :=
  let h := homeSlice page
  let l := s.slice h
  let new : WatchEnt := { asid := asid, base := page, size := size }
  match l.watch.find? fun e => e.asid == asid && e.base == page && e.size == size with
  | some e => (s, e.gen)
  | none =>
    if l.watch.length < 1024 then (s.setSlice h { l with watch := l.watch ++ [new] }, 0)
    else
      let old := l.watch.headD {}
      let s := s.prismDiscard old.asid old.base old.size
      (s.setSlice h { s.slice h with watch := l.watch.drop 1 ++ [new] }, 0)

/-- An advance of a page's generation (R348). -/
def State.watchBump (s : State) (asid page size : Nat) : State :=
  let (s, g) := s.watchGen asid page size
  let s := if g = 0xFFFF then s.prismDiscard asid page size else s
  let h := homeSlice page
  let l := s.slice h
  s.setSlice h { l with watch := l.watch.map fun e =>
    if e.asid = asid ∧ e.base = page ∧ e.size = size then { e with gen := (g + 1) % 0x10000 } else e }

/-! ### Ranges of global memory -/

/-- [va, va + n) cut at line boundaries: (address, length), at most f pieces. -/
def linePieces : Nat → Nat → Nat → List (Nat × Nat)
  | 0, _, _ => []
  | f + 1, va, n =>
    if n = 0 then []
    else
      let k := min n (64 - va % 64)
      (va, k) :: linePieces f (va + k) (n - k)

/-- The reply to a piece of core c's, if it was answered, comes to the core: a message, behind which WAITI goes on (R165, R332). -/
def State.replied {α : Type} (c : Nat) (r : State × Except GErr α) : State × Except GErr α :=
  match r.2 with
  | .ok _ | .error (.abort _) | .error (.cause ..) => if (r.1.core c).pl.waiti then (r.1.wake c, r.2) else r
  | _ => r

/-- One piece read. -/
def State.gReadPiece (s : State) (asid va n : Nat) (need : Need) (v : Via := {}) : State × Except GErr (List Byte) :=
  State.replied v.core <| match s.gTransVia v asid va need with
    | (s, .error e) => (s, .error e)
    | (s, .ok (pa, leaf)) =>
      match s.paRead (homeSlice va) pa n (leafKey leaf) v.th with
      | (s, r) => (s.noteLine (homeSlice va) pa asid va, r)

/-- Bytes within one line written at a translated place, the line set full if `full` says so on a sync page (R199); the
page's generation advances when it is watched. -/
def State.gWriteAt (s : State) (asid va pa leaf : Nat) (bs : List Byte) (full : Bool) (v : Via := {}) :
    State × Except GErr Unit :=
  match s.paWrite (homeSlice va) pa bs (leafKey leaf) v.th (if full && leafSync leaf then some true else none) with
  | (s, .error e) => (s, .error e)
  | (s, .ok ()) =>
    let s := s.noteLine (homeSlice va) pa asid va
    (if leafWatch leaf then s.watchBump asid (leafPage va leaf).1 (leafPage va leaf).2 else s, .ok ())

/-- One piece written. -/
def State.gWritePiece (s : State) (asid va : Nat) (bs : List Byte) (v : Via := {}) : State × Except GErr Unit :=
  State.replied v.core <| match s.gTransVia v asid va .write with
    | (s, .error e) => (s, .error e)
    | (s, .ok (pa, leaf)) => s.gWriteAt asid va pa leaf bs false v

def State.gReadPieces (s : State) (asid : Nat) (need : Need) (v : Via := {}) :
    List (Nat × Nat) → State × Except GErr (List Byte)
  | [] => (s, .ok [])
  | (va, n) :: ps =>
    match s.gReadPiece asid va n need v with
    | (s, .error e) => (s, .error e)
    | (s, .ok bs) =>
      match State.gReadPieces s asid need v ps with
      | (s, .error e) => (s, .error e)
      | (s, .ok cs) => (s, .ok (bs ++ cs))

def State.gWritePieces (s : State) (asid : Nat) (bs : List Byte) (ps : List (Nat × Nat)) (v : Via := {}) :
    State × Except GErr Unit :=
  match ps with
  | [] => (s, .ok ())
  | (va, n) :: ps =>
    match s.gWritePiece asid va (bs.take n) v with
    | (s, .error e) => (s, .error e)
    | (s, .ok ()) => State.gWritePieces s asid (bs.drop n) ps v

/-- n bytes at a VA, the pieces in ascending order; the first that fails ends it. -/
def State.gRead (s : State) (asid va n : Nat) (v : Via := {}) : State × Except GErr (List Byte) :=
  s.gReadPieces asid .read v (linePieces (n / 64 + 2) va n)

/-- n bytes at a VA as they would read. -/
def State.peekRead (s : State) (asid va n : Nat) : Option (List Byte) :=
  ((linePieces (n / 64 + 2) va n).mapM fun e => s.peekPiece asid e.1 e.2).map List.flatten

/-- Bytes at a VA, the pieces in ascending order; the first that fails ends it, those before it stay written. -/
def State.gWrite (s : State) (asid va : Nat) (bs : List Byte) (v : Via := {}) : State × Except GErr Unit :=
  s.gWritePieces asid bs (linePieces (bs.length / 64 + 2) va bs.length) v

/-- Every line of a range can be written: what a SWAP's core images and router images need (R432), and an umbra record
before its spill begins. -/
def State.gCheck (s : State) (asid : Nat) : List (Nat × Nat) → State × Except GErr Unit
  | [] => (s, .ok ())
  | (va, _) :: ps =>
    match s.gTrans asid va .write with
    | (s, .error e) => (s, .error e)
    | (s, .ok (pa, _)) =>
      match s.paKind pa with
      | .hbm | .direct _ => State.gCheck s asid ps
      | .aperture =>
        match s.hostAddr pa with
        | some _ => State.gCheck s asid ps
        | none => (s.logError 3 pa, .error (.cause 0x05 pa))
      | _ => (s, .error (.cause 0x05 pa))

/-! ### The constant cache (R23) -/

/-- CBASE of core c's weave (R97, R131). -/
def State.cbase (s : State) (c : Nat) : Nat :=
  match s.regionOf c with
  | some _ => (s.weaveOf c).va + (s.weaveOf c).conoff
  | none => 0

/-- The whole range lies among the constants of core c's weave. -/
def State.isConst (s : State) (c va n : Nat) : Bool :=
  (s.regionOf c).isSome && decide (s.cbase c ≤ va) && decide (va + n ≤ s.cbase c + (s.weaveOf c).consz)

/-- A range within one line served from the constant cache. -/
def State.constHit (s : State) (c va n : Nat) : Option (List Byte) :=
  if s.isConst c va n then (Sparse.get none (s.core c).pl.ccache (va / 64)).map fun l => lineBytes l (va % 64) n
  else none

/-- Lines of constants placed in the cache after a read through the home slice: 256 lines, the lowest-addressed going
first when they do not fit. -/
def State.constFill (s : State) (c asid va n : Nat) : State :=
  if s.isConst c va n && (Sparse.get none (s.core c).pl.ccache (va / 64)).isNone then
    match s.gReadPiece asid (va - va % 64) 64 .read with
    | (s, .ok bs) => s.modCore c (·.modPl fun p =>
        { p with ccache := Sparse.set none (if p.ccache.length < 256 then p.ccache else p.ccache.drop 1) (va / 64) (some (lineOf bs)) })
    | (s, .error _) => s
  else s

/-- One piece read by an engine of core c, with a hint. -/
def State.engRead (s : State) (c asid va n th : Nat) : State × Except GErr (List Byte) :=
  match s.constHit c va n with
  | some bs => (s, .ok bs)
  | none =>
    match s.gReadPiece asid va n .read { turn := true, core := c, th := th } with
    | (s, .ok bs) => (s.constFill c asid va n, .ok bs)
    | r => r

def State.engReadPieces (s : State) (c asid th : Nat) : List (Nat × Nat) → State × Except GErr (List Byte)
  | [] => (s, .ok [])
  | (va, n) :: ps =>
    match s.engRead c asid va n th with
    | (s, .error e) => (s, .error e)
    | (s, .ok bs) =>
      match State.engReadPieces s c asid th ps with
      | (s, .error e) => (s, .error e)
      | (s, .ok cs) => (s, .ok (bs ++ cs))

/-- n bytes at a VA read by an engine of core c, with a hint. -/
def State.engReadN (s : State) (c asid va n : Nat) (th : Nat := 0) : State × Except GErr (List Byte) :=
  s.engReadPieces c asid th (linePieces (n / 64 + 2) va n)

/-! ### Claims on a victim's blocks (R420, R433-R437) -/

/-- Where a save record keeps its parts (R433). -/
def Save.area (v : Save) (rel : Nat) : Nat := v.va + 0x1000 + 0x380000 * rel
/-- The relative cluster of a core in the saved region. -/
def Region.relOf (r : Region) (c : Nat) : Nat := r.clusterList.idxOf (clusterOf c)

/-- The device's own access has to wait for its turn: the step is not to happen yet (R332, R334). -/
def State.ownTurn {α : Type} (s : State) (dflt : α) (r : State × Except GErr α) : State × Except GErr α :=
  match r with
  | (_, .error .busy) => ({ s with stall := true }, .ok dflt)
  | r => r

/-- Bytes that the device writes for itself, which nothing parks (R345): those of a save record are the front ends', behind what they
have still to write to the host (R63, R448); those of an umbra record are core c's. -/
def State.ownWrite (s : State) (asid va : Nat) (bs : List Byte) (c : Nat := 0xFFF) : State × Except GErr Unit :=
  s.ownTurn () (s.gWrite asid va bs { turn := true, core := c, front := c == 0xFFF, own := true })

/-- n bytes of a save record that the device reads for itself. -/
def State.ownRead (s : State) (asid va n : Nat) : State × Except GErr (List Byte) :=
  s.ownTurn [] (s.gRead asid va n { turn := true, front := true, own := true })

/-- n bytes of what only the device reads, from va on, written as part of a save (R432, R433). -/
def State.saveFree (s : State) (asid va n : Nat) : State × Except GErr Unit :=
  ({ s with draws := s.draws + 1 } : State).ownWrite asid va ((List.range n).map (Config.imageByte s.draws))

/-- COMMIT (R434). -/
def Save.commitWord (v : Save) (restored : Bool) : Nat :=
  b2n restored * 4 + b2n v.damaged * 2 + b2n v.committed

/-- A block of core c that the save has lost (R437). -/
def Save.lose (v : Save) (c b : Nat) : Save :=
  { v with
    dir := v.dir.filter (fun e => !(e.1 == c && e.2.1 == b)) ++ [(c, b, none)]
    lost := if (v.lost.any fun e => e.1 == c) then v.lost.map fun e => if e.1 = c then (c, e.2 + 1) else e
            else v.lost ++ [(c, 1)] }

/-- A fault of the save: before COMMIT the SWAP fails (R436); after it the record is damaged and the block, if it was one, lost
(R437). -/
def State.saveFault (s : State) (i : Nat) (block : Option (Nat × Nat)) : State :=
  let r := s.region i
  match r.save with
  | none => s
  | some v =>
    if v.committed then
      let v := { (match block with | some e => v.lose e.1 e.2 | none => v) with damaged := true }
      ((s.setRegion i { r with save := some v }).ownWrite r.asid (v.va + 120) (natLE 8 (v.commitWord false))).1
    else s.setRegion i { r with save := some { v with
      failed := true
      dir := match block with
        | some e => v.dir.filter fun d => !(d.1 == e.1 && d.2.1 == e.2)
        | none => v.dir } }

/-- The claim of block b of core c against the save of region i; none before every core of it is parked. A weave that is back in the place
of the saved one goes on with blocks of its own, which the saved weave left as they were (a choice: assumption log, entry 78). -/
def State.claimFor (s : State) (c b i : Nat) : State :=
  let r := s.region i
  match r.save with
  | none => s
  | some v =>
    if v.routers = [] then s
    else match v.cores.find? fun e => e.1 == c with
    | none => s
    | some (_, k) =>
      let own := (s.core c).scr.whole || Sparse.get false (s.core c).scr.had b
      if (v.dir.any fun e => e.1 == c && e.2.1 == b) || (v.closed && own && !Sparse.get false k.scr.touched b) then s
      else
        let rel := r.relOf c
        let place := v.area rel + 0x350000 + 8 * (v.dir.filter fun e => clusterOf e.1 == clusterOf c).length
        let entry (pos : Nat) : Nat := pos * 2 ^ 32 + bits c 4 0 * 2 ^ 12 + b * 16 + 1
        if Sparse.get false k.scr.touched b then
          let pos := v.blocks.length
          let data := k.scr.read (4096 * b) 4096
          match s.ownWrite r.asid (v.area r.clusterList.length + 4096 * pos) data with
          | (s, .error _) => s.saveFault i (some (c, b))
          | (s, .ok ()) =>
            match s.ownWrite r.asid place (natLE 8 (entry pos)) with
            | (s, .error _) => s.saveFault i (some (c, b))
            | (s, .ok ()) =>
              let s := (s.ownWrite r.asid (v.va + 48) (natLE 4 (pos + 1))).1
              let lines := (List.range 64).filter fun n => Sparse.get false k.scr.empty (64 * b + n)
              s.setRegion i { r with save := some { v with
                dir := v.dir ++ [(c, b, some pos)], blocks := v.blocks ++ [(c, b, lines)] } }
        else
          match s.ownWrite r.asid place (natLE 8 (entry 0xFFFFFFFF)) with
          | (s, .error _) => s.saveFault i (some (c, b))
          | (s, .ok ()) => s.setRegion i { r with save := some { v with dir := v.dir ++ [(c, b, none)] } }

/-- Every saved region that still holds block b of core c unclaimed has it claimed; the weave of core c has it from then on. -/
def State.claimBlock (s : State) (c b : Nat) : State :=
  if s.regions.any fun r => r.2.save.isSome then
    ((List.range 96).foldl (fun s i => s.claimFor c b i) s).modCore c (·.modScr fun m =>
      if m.whole then m else { m with had := Sparse.set false m.had b true })
  else s

/-- An access to [a, a + n) of core c's scratchpad claims its blocks. -/
def State.claim (s : State) (c a n : Nat) : State :=
  if n = 0 then s
  else if s.regions.any fun r => r.2.save.isSome then
    (List.range ((a + n - 1) / 4096 + 1 - a / 4096)).foldl (fun s i => s.claimBlock c (a / 4096 + i)) s
  else s

/-- A reading access to [a, a + n): blocks are claimed, correctable errors are corrected and counted (R354). -/
def State.reach (s : State) (c a n : Nat) : State :=
  let s := s.claim c a n
  if (s.core c).scr.soft = [] then s
  else s.modCore c (·.modScr fun m =>
    let hit := m.soft.filter fun e => decide (a / 8 ≤ e.1) && decide (e.1 * 8 < a + n)
    { m with soft := m.soft.filter (fun e => !(decide (a / 8 ≤ e.1) && decide (e.1 * 8 < a + n)))
             corrected := (m.corrected + hit.length) % 2 ^ 32 })

/-- Bytes written at offset a of core c's scratchpad, claims first. -/
def State.scrWrite (s : State) (c a : Nat) (bs : List Byte) : State := (s.claim c a bs.length).scrWrite0 c a bs

/-- Bytes written at local address a of core c; nothing outside the map. -/
def State.localWrite (s : State) (c a : Nat) (bs : List Byte) : State :=
  (localParts c a bs.length).foldl (fun s p => s.scrWrite p.1 p.2.1 ((bs.drop p.2.2.1).take p.2.2.2)) s

/-- The reading access of `reach` at a local address. -/
def State.localReach (s : State) (c a n : Nat) : State :=
  (localParts c a n).foldl (fun s p => s.reach p.1 p.2.1 p.2.2.2) s

end Sys2Proof.Machine
end

