-- ==== Sys2Proof/Machine/Frames.lean ====
section
/-! DEFINITION. The frame engine: slot updates and firings (R293-R298), orphans (R53, R445), held arrivals (R442,
R443), allocation, spill and fill (R41-R47, R302), freeing and the end of a threadlet (R142, R301, R439). -/

namespace Sys2Proof.Machine

/-! ### Frames in the pool (R28, R32, R42) -/

/-- Scratchpad address of the block of frame index fix. -/
def Core.frameAddr (k : Core) (fix : Nat) : Nat := k.spr.fbase.toNat + 256 * (k.frame fix).block

/-- B, the blocks of the pool. -/
def Core.blockCount (k : Core) : Nat := (k.spr.flim.toNat - k.spr.fbase.toNat) / 256

/-- The frame holds a block: every state but Free and Spilled. -/
def FrameEnt.resident (e : FrameEnt) : Bool := e.st != 0 && e.st != 5

/-- The blocks in use. -/
def Core.usedBlocks (k : Core) : List Nat := (k.fe.frames.filter fun e => e.2.resident).map (·.2.block)

/-- Free blocks of the pool. -/
def Core.freeBlocks (k : Core) : Nat := k.blockCount - k.usedBlocks.length

/-- The least number from i on, among the next n, that is not used. -/
def firstFree (used : List Nat) : Nat → Nat → Option Nat
  | 0, _ => none
  | n + 1, i => if used.contains i then firstFree used n (i + 1) else some i

/-- The lowest-addressed free block (R41). -/
def Core.freeBlock (k : Core) : Option Nat := firstFree k.usedBlocks k.blockCount 0

/-- The lowest-numbered free frame index (R41). -/
def Core.freeIndex (k : Core) : Option Nat := firstFree ((k.fe.frames.filter fun e => e.2.st != 0).map (·.1)) 4096 0

/-- A handle of this core is live (R31). -/
def Core.live (k : Core) (h : Nat) : Bool :=
  let e := k.frame (handleFix h)
  e.st != 0 && e.gen == handleGen h

/-- A slot word of a resident frame (R29). -/
def Core.slotWord (k : Core) (fix slot : Nat) : Nat := k.scr.readN (k.frameAddr fix + 4 * slot) 4

def slotCount (w : Nat) : Nat := bits w 15 0
def slotTix (w : Nat) : Nat := bits w 27 16
def slotPri (w : Nat) : Nat := bits w 29 28
def slotAuto (w : Nat) : Bool := w.testBit 30

/-- Template t of the weave on core c. -/
def State.template (s : State) (c t : Nat) : List Byte := (s.weaveOf c).templates.getD t []

/-- The COUNT that a template gives a slot (R25). -/
def State.templateCount (s : State) (c t slot : Nat) : Nat :=
  leNat (((s.template c t).drop (4 * slot)).take 2)

/-! ### Levels of the ready queue (R296-R298) -/

def FrameEng.level (f : FrameEng) : Nat → Level
  | 0 => f.l0
  | 1 => f.l1
  | 2 => f.l2
  | _ => f.l3

def FrameEng.setLevel (f : FrameEng) (i : Nat) (l : Level) : FrameEng :=
  match i with
  | 0 => { f with l0 := l }
  | 1 => { f with l1 := l }
  | 2 => { f with l2 := l }
  | _ => { f with l3 := l }

/-- Keys of overflowed firings at a level: 8 × FIX + SLOT, ascending. -/
def FrameEng.ovfKeys (f : FrameEng) (lev : Nat) : List Nat :=
  (f.ovf.filter fun e => e.1 % 4 == lev).map (·.1 / 4)

/-- The frame's direct firing is in overflow: its frame has one, and no entry of the queue is it. It is the first that moves
of those counted for slot 0 at its level. -/
def FrameEng.directWaits (f : FrameEng) (fix lev : Nat) : Bool :=
  ((Sparse.get none f.direct fix).any fun d => d.pri == lev) &&
    !([f.l0, f.l1, f.l2, f.l3].any fun l => (l.reg ++ l.prom).any fun e => e.fix == fix && e.direct)

/-- RecordFiring (R297); false when the overflow count is full and no firing is recorded. -/
def FrameEng.record (f : FrameEng) (now fix slot pri : Nat) (direct : Bool) : FrameEng × Bool :=
  let l := f.level pri
  if l.reg.length < 64 ∧ f.ovfKeys pri = [] then
    ({ f.setLevel pri { l with
          reg := l.reg ++ [{ fix := fix, slot := slot, since := now, seq := f.seq, direct := direct }] } with
        seq := f.seq + 1 }, true)
  else
    let key := 32 * fix + 4 * slot + pri
    let n := Sparse.get 0 f.ovf key
    if 65535 ≤ n then (f, false) else ({ f with ovf := Sparse.set 0 f.ovf key (n + 1) }, true)

/-- One overflowed firing moves into a free regular place, chosen by the cursor, which passes to the next frame after the last of a
visit (R298). -/
def FrameEng.move1 (f : FrameEng) (now lev : Nat) : FrameEng :=
  let l := f.level lev
  if 64 ≤ l.reg.length then f
  else
    let ks := f.ovfKeys lev
    let cur := 8 * l.curFix + l.curSlot
    match (ks.find? fun k => decide (cur ≤ k)).or ks.head? with
    | none => f
    | some k =>
      let key := 4 * k + lev
      let n := Sparse.get 0 f.ovf key
      let next := if ks.any fun j => decide (k < j) && j / 8 == k / 8 then k + 1 else 8 * (k / 8 + 1)
      { f.setLevel lev { l with
          reg := l.reg ++ [{ fix := k / 8, slot := k % 8, since := now, seq := f.seq
                             direct := k % 8 == 0 && f.directWaits (k / 8) lev }]
          curFix := next / 8 % 4096
          curSlot := next % 8 } with
        seq := f.seq + 1
        ovf := Sparse.set 0 f.ovf key (n - 1) }

/-- Overflowed firings move while places are free: at most 64. -/
def FrameEng.refill (f : FrameEng) (now lev : Nat) : FrameEng :=
  if f.ovf = [] then f else (List.range 64).foldl (fun f _ => f.move1 now lev) f

/-! ### Promotion (R299) -/

/-- An entry is eligible for promotion. -/
def ReadyEnt.eligible (e : ReadyEnt) (now : Nat) : Bool := decide (e.since + 4096 < now)

/-- The eligible entry that became so first. -/
def firstEligible (now : Nat) (es : List ReadyEnt) : Option ReadyEnt :=
  (es.filter (·.eligible now)).foldl (fun b e => match b with
    | none => some e
    | some x => if e.since < x.since ∨ (e.since = x.since ∧ e.seq < x.seq) then some e else some x) none

/-- One eligible entry of a level moves into the promotion area above, if that has a free place. -/
def FrameEng.promote (f : FrameEng) (now lev : Nat) : FrameEng :=
  let l := f.level lev
  let up := f.level (lev + 1)
  if 3 ≤ lev ∨ 64 ≤ up.prom.length then f
  else match firstEligible now (l.reg ++ l.prom) with
    | none => f
    | some e =>
      let out (es : List ReadyEnt) := es.filter fun x => x.seq != e.seq
      let f := { f.setLevel (lev + 1) { up with prom := up.prom ++ [{ e with since := now, seq := f.seq }] } with seq := f.seq + 1 }
      (f.setLevel lev { l with reg := out l.reg, prom := out l.prom }).refill now lev

/-- The promotion of a level that comes next, by `now`: when its first eligible entry became so, or when the area above came to have
a place, whichever is later. -/
def FrameEng.dueAt (f : FrameEng) (now lev : Nat) : Option Nat :=
  let l := f.level lev
  if 64 ≤ (f.level (lev + 1)).prom.length then none
  else (firstEligible now (l.reg ++ l.prom)).map fun e => max (e.since + 4097) f.clock

/-- The promotion that comes next by `now`, with its time; of two at one time that of the higher level, whose area it leaves (a choice:
R299; assumption log, entry 87). -/
def FrameEng.nextPromotion (f : FrameEng) (now : Nat) : Option (Nat × Nat) :=
  [2, 1, 0].foldl (fun b lev => match b, f.dueAt now lev with
    | b, none => b
    | none, some t => some (t, lev)
    | some b, some t => if t < b.1 then some (t, lev) else some b) none

/-- At most n promotions, each at its time. -/
def FrameEng.promoteAll (now : Nat) : Nat → FrameEng → FrameEng
  | 0, f => f
  | n + 1, f =>
    match f.nextPromotion now with
    | none => f
    | some (t, lev) => FrameEng.promoteAll now n { f.promote t lev with clock := t }

/-- Every promotion up to `now` (R299). Each area holds 64, and only issue empties the highest: without it at most 384 are made. -/
def FrameEng.promoteDue (f : FrameEng) (now : Nat) : FrameEng := { FrameEng.promoteAll now 384 f with clock := now }

/-- A firing of the frame is queued or overflowed. -/
def FrameEng.queued (f : FrameEng) (fix : Nat) : Bool :=
  [0, 1, 2, 3].any (fun i => ((f.level i).reg ++ (f.level i).prom).any fun e => e.fix == fix) ||
    f.ovf.any fun e => e.1 / 32 == fix

/-! ### Slot updates (R293-R295) -/

/-- A firing that an update gives rise to, not yet recorded: the frame, its generation, slot, PRI, the decrement and
the excess of R294. -/
structure NewFiring where
  fix : Nat
  gen : Nat
  slot : Nat
  pri : Nat
  n : Nat
  excess : Nat
  /-- It is the frame's direct firing (R50, R223, R440). -/
  direct : Bool := false
  deriving DecidableEq, Repr

def Core.modFrame (k : Core) (fix : Nat) (f : FrameEnt → FrameEnt) : Core := k.setFrame fix (f (k.frame fix))

/-- SURP := SatN(SURP + n, 16). -/
def Core.addSurp (k : Core) (fix n : Nat) : Core := k.modFrame fix fun e => { e with surp := satN (e.surp + n) 16 }

/-- The decrement of R294 at a slot of a live, resident frame. -/
def State.decrement (s : State) (c fix slot n : Nat) : State × List NewFiring :=
  let k := s.core c
  let w := k.slotWord fix slot
  let cnt := slotCount w
  let at_ := k.frameAddr fix + 4 * slot
  if cnt = 0 then (s.modCore c (·.addSurp fix n), [])
  else if n < cnt then (s.scrWrite c at_ (natLE 2 (cnt - n)), [])
  else
    let e := k.frame fix
    (s.scrWrite c at_ (natLE 2 (if slotAuto w then s.templateCount c e.tpl slot else 0)),
     [{ fix := fix, gen := e.gen, slot := slot, pri := slotPri w, n := n, excess := n - cnt }])

/-- An arrival's own writes: the job of an ARRIVE (R77), deposits, then the status word (R138). A frame that a deposit reached is
now its core's youngest; a status word is no deposit (R44, R46). -/
def State.deposit (s : State) (c fix : Nat) (a : Arrival) : State :=
  let at_ := (s.core c).frameAddr fix
  let s := if a.job = 0 then s else s.modCore c (·.modFrame fix fun e => { e with job := a.job })
  let s := a.deposits.foldl (fun s d => s.scrWrite c (at_ + d.1) (natLE 8 d.2)) s
  let s := match a.status with
    | some d => s.scrWrite c (at_ + d.1) (natLE 8 d.2)
    | none => s
  if a.deposits = [] then s
  else s.modCore c fun k => (k.modFrame fix fun e => { e with age := k.fe.seq }).modFe fun f => { f with seq := f.seq + 1 }

/-- The firing is recorded, behind the promotions that are due: a Dormant frame becomes Ready, a waiting pipeline wakes (R49,
R165, R294, R297, R299). -/
def State.fire (s : State) (c : Nat) (g : NewFiring) : State :=
  let k := s.core c
  let e := k.frame g.fix
  if e.st = 0 ∨ e.gen ≠ g.gen then
    s.setCore c (k.orphan c .signal g.slot 4 (mkHandle c g.fix g.gen))
  else
    let (f, ok) := (k.fe.promoteDue s.cycles).record s.cycles g.fix g.slot g.pri g.direct
    if ok then
      s.setCore c ((({ k with fe := f }.modFrame g.fix fun e => { e with st := if e.st = 1 then 2 else e.st }).modPl
        fun p => { p with waiti := false }).addSurp g.fix g.excess)
    else s.setCore c (k.addSurp g.fix g.n)

def State.fireAll (s : State) (c : Nat) (gs : List NewFiring) : State := gs.foldl (fun s g => s.fire c g) s

/-- The packet that a queue executes has taken its whole effect. -/
def State.packetDone (s : State) (q : Nat) : State :=
  let h := s.queue q
  s.setQueue q { h with exec := h.exec.map fun e => { e with done := true, phase := 3 } }

/-- What is counted, and the ARRIVE that is complete, when an arrival is applied or dropped (R20, R404, R414). -/
def State.countArrival (s : State) (c : Nat) (a : Arrival) : State :=
  let s := s.absorb a.origin c a.absorb
  let s := match a.queue with
    | some q => s.packetDone q
    | none => s
  if a.refusal then s.modCore c (·.modNet fun n => { n with refused := n.refused + 1 }) else s

/-- An arrival dropped as an orphan; KIND 5 for a frame that a cancel flushed (R53, R445). -/
def State.dropArrival (s : State) (c : Nat) (a : Arrival) : State :=
  let kind := if (s.core c).fe.flushed.contains a.handle then 5 else a.kind
  (s.countArrival c a).modCore c (·.orphan a.src a.chan a.slot kind a.handle)

/-! ### Freeing (R31, R301) -/

/-- Free-block reports to the front end at the watermarks (R306). -/
def State.watermark (s : State) (c : Nat) : State :=
  let k := s.core c
  let n := k.freeBlocks
  if decide (n < k.spr.fwlo.toNat) && !k.fe.below then
    (s.setCore c (k.modFe fun f => { f with below := true })).send
      { src := .core c, dst := .frontEnd, chan := .signal, body := .watermark true, region := s.regionOf c }
  else if decide (k.spr.fwhi.toNat ≤ n) && k.fe.below then
    (s.setCore c (k.modFe fun f => { f with below := false })).send
      { src := .core c, dst := .frontEnd, chan := .signal, body := .watermark false, region := s.regionOf c }
  else s

/-- The firings of a frame: slots of its queue entries and of its overflow counts, once for each firing. -/
def FrameEng.firingsOf (f : FrameEng) (fix : Nat) : List Nat :=
  [3, 2, 1, 0].flatMap (fun i => (((f.level i).reg ++ (f.level i).prom).filter fun e => e.fix == fix).map (·.slot)) ++
    (f.ovf.filter fun e => e.1 / 32 == fix).flatMap fun e => List.replicate e.2 (e.1 / 4 % 8)

/-- The queue without a frame's firings, places refilled from overflow. -/
def FrameEng.dropFirings (f : FrameEng) (now fix : Nat) : FrameEng :=
  let f := { f with ovf := f.ovf.filter fun e => e.1 / 32 != fix, direct := Sparse.set none f.direct fix none }
  [0, 1, 2, 3].foldl (fun f i =>
    let l := f.level i
    (f.setLevel i { l with reg := l.reg.filter (fun e => e.fix != fix), prom := l.prom.filter (fun e => e.fix != fix) }).refill
      now i) f

/-- The frame is freed: its firings become orphans, its generation advances (R31, R301). Whether a cancel flushed what the handle named
last is what an orphan's KIND asks (R445). -/
def State.freeFrame (s : State) (c fix : Nat) (flush : Bool) : State :=
  let k := s.core c
  let e := k.frame fix
  let h := mkHandle c fix e.gen
  let k := k.modFe (·.promoteDue s.cycles)
  let k := (k.fe.firingsOf fix).foldl (fun k slot => k.orphan c .signal slot 4 h) k
  let k := k.modFe fun f => { f.dropFirings s.cycles fix with
    flushed := f.flushed.filter (· != h) ++ if flush then [h] else [] }
  (s.setCore c (k.setFrame fix { gen := if e.gen = 255 then 1 else e.gen + 1 })).watermark c

def Body.isArrival : Body → Bool
  | .arrival _ => true
  | _ => false

/-! ### Applying a message to its frame (R49, R139, R144, R147, R293) -/

/-- The message acts on a frame that is resident or not live. -/
def State.applyMsg (s : State) (c : Nat) (m : Msg) : State × List NewFiring :=
  let k := s.core c
  match m.body with
  | .arrival a =>
    let fix := handleFix a.handle
    if !k.live a.handle then (s.dropArrival c a, [])
    else
      let (s, gs) := (s.deposit c fix a).decrement c fix a.slot a.n
      (s.countArrival c a, gs)
  | .arm h slot w =>
    let s := match m.src with | .core x => if m.own then s else s.absorb x c 1 | _ => s
    if k.live h then (s.scrWrite c (k.frameAddr (handleFix h) + 4 * slot) (natLE 4 w), [])
    else (s.modCore c (·.orphan (match m.src with | .core x => x | _ => 0xFFF) m.chan slot 1 h), [])
  | .free h =>
    let s := match m.src with | .core x => s.absorb x c 1 | _ => s
    let fix := handleFix h
    let e := k.frame fix
    if !k.live h then (s.modCore c (·.orphan (match m.src with | .core x => x | _ => 0xFFF) m.chan 0 1 h), [])
    else if e.st = 3 ∨ e.st = 4 ∨ e.st = 6 then (s.modCore c (·.modFrame fix fun e => { e with freeP := true }), [])
    else (s.freeFrame c fix false, [])
  | _ => (s, [])

/-- The handle a message names, for frames. -/
def Msg.handle (m : Msg) : Nat :=
  match m.body with
  | .arrival a => a.handle
  | .arm h _ _ => h
  | .free h => h
  | _ => 0

/-- Message a, of the source and channel of b, keeps behind it, or both are updates of a core's own pipeline (R46, R293, R442). -/
def Msg.sameLine (a b : Msg) : Bool := a.src.follows b.src && a.chan == b.chan && a.own == b.own

/-- The message waits for its frame, which is Spilling, Spilled or Filling (R46). A FREE does not: it frees a Spilled frame,
and marks one in transfer, which is freed when the transfer ends (R49, R144). -/
def Core.away (k : Core) (m : Msg) : Bool :=
  (m.body matches .arrival _ | .arm ..) && k.live m.handle && decide (4 ≤ (k.frame (handleFix m.handle)).st)

/-! ### Spill, fill and exhaustion (R43-R47) -/

/-- Records that the umbra area holds (R45). -/
def Core.umbraCount (k : Core) : Nat := min 4096 ((k.spr.umlim.toNat - k.spr.umbase.toNat) / 320)

/-- The frame is Spilling or Filling: nothing frees it before that transfer ends (R49). -/
def FrameEnt.inTransfer (e : FrameEnt) : Bool := e.st == 4 || e.st == 6

/-- Umbra records in use. -/
def Core.umbraUsed (k : Core) : List Nat := (k.fe.frames.filter fun e => decide (4 ≤ e.2.st)).map (·.2.umbra)

/-- The VA of an umbra record. -/
def Core.umbraVa (k : Core) (u : Nat) : Nat := k.spr.umbase.toNat + 320 * u

/-- The frame-exhaustion trap 0x0E, once until the handler returns (R47, R421). -/
def State.exhaust (s : State) (c : Nat) : State :=
  let k := s.core c
  if k.fe.exhausted then s
  else
    let job := match k.fe.backlog.head? with
      | some { body := .fork _ _ _ j, .. } => j
      | some { body := .roam _ _ j, .. } => j
      | some { body := .restart _ _ j _ _, .. } => j
      | _ => 0
    (s.setCore c (k.modFe fun f => { f with exhausted := true })).post c true 0x0E 1 0 0xFFFFFFFF 0
      (job * 2 ^ 48 + k.fe.backlog.length * 2 ^ 16 + k.umbraUsed.length) 0

/-- Dormant in the sense of R44: no firing queued, nothing pending. -/
def Core.dormant (k : Core) (fix : Nat) (e : FrameEnt) : Bool :=
  e.st == 1 && !k.fe.queued fix &&
    !k.fe.pending.any fun m => handleFix m.handle == fix && handleGen m.handle == e.gen

/-- The dormant frame whose last use is oldest. -/
def Core.oldestDormant (k : Core) : Option Nat :=
  ((k.fe.frames.filter fun e => k.dormant e.1 e.2).foldl
    (fun b e => match b with
      | none => some (e.1, e.2.age)
      | some (f, a) => if e.2.age < a then some (e.1, e.2.age) else some (f, a)) none).map (·.1)

/-- A spill begins, if none is under way: a free umbra record, a translation that holds, else exhaustion (R44, R47). With no frame
dormant nothing can be spilled, and nothing is exhausted yet (a choice: R47; assumption log, entry 54). -/
def State.startSpill (s : State) (c : Nat) : State :=
  let k := s.core c
  if k.fe.exhausted || (k.fe.frames.any fun e => e.2.st == 4) then s
  else match k.oldestDormant with
    | none => s.setCore c (k.modFe fun f => { f with spilling := false })
    | some fix =>
      match firstFree k.umbraUsed k.umbraCount 0 with
      | none => if 64 ≤ k.fe.backlog.length then s.exhaust c else s
      | some u =>
        match s.gCheck k.net.asid (linePieces 6 (k.umbraVa u) 320) with
        | (s, .error _) => s.exhaust c
        | (s, .ok ()) => s.modCore c (·.modFrame fix fun e => { e with st := 4, umbra := u })

/-- A fill of a spilled frame begins when a block is free; else a spill makes room (R43, R44, R46). -/
def State.startFill (s : State) (c fix : Nat) : State :=
  let k := s.core c
  if (k.frame fix).st ≠ 5 ∨ k.fe.exhausted then s
  else match k.freeBlock with
    | some b => (s.setCore c (k.modFrame fix fun e => { e with st := 6, block := b })).watermark c
    | none => s.startSpill c

/-- The frames that wait for a fill: spilled, with an entry pending, in the order of their entries. -/
def Core.wantFill (k : Core) : Option Nat :=
  (k.fe.pending.find? fun m => k.live m.handle && (k.frame (handleFix m.handle)).st == 5).map fun m => handleFix m.handle

/-! ### Shutters and held arrivals (R442, R443) -/

/-- Shutter n matches an arrival at core c, whose frame has come back where `late`: then KIND 2 alone is tested, which before found no
slot word to compare. -/
def Core.shutterHits (k : Core) (late : Bool) (a : Arrival) (n : Nat) : Bool :=
  let w := (Sparse.get 0 k.sup.shtcmp n).toNat
  let v := (Sparse.get 0 k.sup.shtval n).toNat
  w.testBit 63 && (!late || bits w 62 61 == 2) &&
  match bits w 62 61 with
  | 0 => a.handle == bits w 31 0
  | 1 => a.handle == bits w 31 0 && a.slot == bits w 34 32
  | 2 => k.live a.handle && decide ((k.frame (handleFix a.handle)).st < 4) &&
      slotTix (k.slotWord (handleFix a.handle) a.slot) == bits w 11 0
  | _ => a.deposits.any (fun d => d.2 == v) || a.status.any (fun d => d.2 == v)

/-- The matching shutters count their hit; ONCE clears EN. -/
def Core.shutterCount (k : Core) (late : Bool) (a : Arrival) : Core :=
  (List.range 8).foldl (fun k n =>
    if k.shutterHits late a n then
      let w := (Sparse.get 0 k.sup.shtcmp n).toNat
      let w := putBits w 55 48 (min (bits w 55 48 + 1) 255)
      let w := if w.testBit 60 then putBits w 63 63 0 else w
      { k with sup := { k.sup with shtcmp := Sparse.set 0 k.sup.shtcmp n (BitVec.ofNat 64 w) } }
    else k) k

/-- Some shutter matches the message. -/
def Core.shuttered (k : Core) (m : Msg) : Bool :=
  match m.body with
  | .arrival a => k.sup.shtcmp != [] && (List.range 8).any (k.shutterHits m.late a)
  | _ => false

/-- The shutters test an arrival that they have not tested yet (R443). -/
def Core.testShutters (k : Core) (m : Msg) : Core :=
  match m.body with
  | .arrival a => if !m.tested && k.shuttered m then k.shutterCount m.late a else k
  | _ => k

/-- An update that nothing holds is applied; before it the shutters of KIND 2 test an arrival that was taken while its frame was away,
which RELH or GO has let go since (R442, R443). -/
def State.applyNow (s : State) (c : Nat) (m : Msg) : State × List NewFiring :=
  (if m.late && (s.core c).shuttered m then s.modCore c (·.testShutters m) else s).applyMsg c m

/-- The held-arrival list has room for a pending entry that a shutter matches, behind those caught before it, with what comes after them
in their order. -/
def Core.catchRoom (k : Core) (m : Msg) (ms caught : List Msg) : Bool :=
  decide (k.fe.held.length + caught.length + (ms.filter fun x => (m :: caught).any x.sameLine).length < 256)

/-- The pending-arrival buffer applied in order: an entry stays while its frame is away, or while an earlier one of its
source and channel stays (R46). `left` holds those that stay. One that was away when the shutters tested it is tested by those of KIND 2
now, and is `caught`, to be held, with what follows it, where one matches, there is room, and RELH has not let it go (R442, R443). -/
def State.drain (s : State) (c : Nat) : List Msg → List Msg → List Msg → State × List Msg × List Msg × List NewFiring
  | [], left, caught => (s, left, caught, [])
  | m :: ms, left, caught =>
    let k := s.core c
    let hit := m.late && !m.passed && k.shuttered m
    if caught.any m.sameLine then s.drain c ms left (caught ++ [{ m with tested := !m.late }])
    else if k.away m || left.any m.sameLine || (hit && !k.catchRoom m ms caught) then s.drain c ms (left ++ [m]) caught
    else if hit then (s.setCore c (k.testShutters m)).drain c ms left (caught ++ [{ m with tested := true, late := false }])
    else
      let (s, gs) := s.applyNow c m
      let (s, left, caught, hs) := State.drain s c ms left caught
      (s, left, caught, gs ++ hs)

/-- The buffer is gone through until nothing leaves it any more: a FREE in it may have freed the frame that an entry before it waited
for, which is an orphan then (R20, R53). -/
def State.drainAll (s : State) (c : Nat) : Nat → List Msg → List Msg → State × List Msg × List Msg × List NewFiring
  | 0, ms, caught => (s, ms, caught, [])
  | n + 1, ms, caught =>
    let (s, left, caught, gs) := s.drain c ms [] caught
    if left.length = ms.length then (s, left, caught, gs)
    else
      let (s, left, caught, hs) := State.drainAll s c n left caught
      (s, left, caught, gs ++ hs)

/-- The pending-arrival buffer after something may have released entries; their firings are recorded last (R46). What is held of them
goes before what came after them. -/
def State.drainPending (s : State) (c : Nat) : State :=
  match (s.core c).fe.pending with
  | [] => s
  | ms =>
    let (s, left, caught, gs) := s.drainAll c (ms.length + 1) ms []
    (s.modCore c (·.modFe fun f => { f with pending := left, held := caught ++ f.held })).fireAll c gs

/-! ### Delivery (R46, R53, R57, R302, R442) -/

/-- What travels with an arrival reaches its core whatever becomes of the update: the scratchpad writes, then the flags of a
reduction (R401, R419). -/
def State.landScratch (s : State) (m : Msg) : State × Msg :=
  match m.body with
  | .arrival a =>
    let s := a.scratch.foldl (fun s w => s.localWrite w.1 w.2.1 w.2.2) s
    (if a.flags = 0 then s else s.engineFlags (handleCore a.handle) a.flags 8 0xFFFFFFFF 0,
      { m with body := .arrival { a with scratch := [], flags := 0 } })
  | _ => (s, m)

/-- The message as it waits at its core: the shutters have tested it, but for KIND 2 where its frame is away (R443). -/
def Core.awaits (k : Core) (m : Msg) : Msg :=
  let late := m.body.isArrival && !m.tested && k.away m
  { m with tested := !late, late := late }

/-- The update goes behind or into the pending-arrival buffer, or is applied; none when the buffer is full. -/
def State.enterNow (s : State) (c : Nat) (m : Msg) : Option State :=
  let k := s.core c
  if k.away m || k.fe.pending.any m.sameLine then
    if k.fe.pending.length < 128 then
      let s := s.setCore c (k.modFe fun f => { f with pending := f.pending ++ [if m.late then m else k.awaits m] })
      some (if k.away m then s.startFill c (handleFix m.handle) else s)
    else none
  else
    let (s, gs) := s.applyNow c m
    let s := s.fireAll c gs
    some (if m.body matches .free _ then s.drainPending c else s)

/-- Updates in order, up to one that the pending-arrival buffer has no room for; it and those behind it are left. -/
def State.enterList (s : State) (c : Nat) : List Msg → State × List Msg
  | [] => (s, [])
  | m :: ms =>
    match s.enterNow c m with
    | some s => State.enterList s c ms
    | none => (s, m :: ms)

/-- The released updates go on as far as the pending-arrival buffer has room (R46, R442). -/
def State.releaseWaiting (s : State) (c : Nat) : State :=
  match (s.core c).fe.released with
  | [] => s
  | ms =>
    let (s, rest) := (s.modCore c (·.modFe fun f => { f with released := [] })).enterList c ms
    s.modCore c (·.modFe fun f => { f with released := rest ++ f.released })

/-- An update that nothing holds: none behind a released one of its source and channel. A FREE may make room. -/
def State.enterFrame (s : State) (c : Nat) (m : Msg) : Option State :=
  if (s.core c).fe.released.any m.sameLine then none
  else if m.body matches .free _ then (s.enterNow c m).map (·.releaseWaiting c)
  else s.enterNow c m

/-- The update must be held: an arrival at a halted core, one that an enabled shutter matches, and whatever follows a held one from
its source on its channel (R442). None is held for a weave that is being unloaded, whose frames are no more (R77). -/
def Core.holds (k : Core) (m : Msg) : Bool :=
  !k.fe.closing && (k.fe.held.any m.sameLine || (m.body.isArrival && k.pl.halted) || (!m.tested && k.shuttered m))

/-- An update reaches the frame engine of its core, a message or one of the core's own pipeline (SR = 0): held under R442, pending
under R46, dropped under R53 and R57, or applied. None when it must wait, in the network or at issue. Every arrival that is taken
is tested by the shutters. -/
def State.deliver (s : State) (c : Nat) (m : Msg) : Option State :=
  let k := s.core c
  if k.net.region.isNone then
    let (s, m) := s.landScratch m
    some (s.applyMsg c m).1
  else if k.holds m then
    if k.fe.held.length < 256 then
      let (s, m') := s.landScratch m
      some (s.modCore c fun k => ((k.testShutters m).modFe fun f => { f with held := f.held ++ [k.awaits m'] }).modPl
        fun p => { p with waiti := false })
    else none
  else
    let (s, m') := s.landScratch m
    (s.modCore c (·.modPl fun p => { p with waiti := false })).enterFrame c m'

/-! ### Allocation (R41, R43, R143) -/

/-- A frame made from 256 bytes: lowest index, lowest block; none when either lacks. Its handle is no flushed frame's any more (R31,
R445). -/
def State.allocFrame (s : State) (c : Nat) (bytes : List Byte) (tpl job : Nat) : Option (State × Nat) :=
  let k := s.core c
  match k.freeIndex, k.freeBlock with
  | some fix, some b =>
    let s := s.setCore c ((k.modFrame fix fun e =>
      { st := 1, gen := e.gen, tpl := tpl, job := job, block := b, age := k.fe.seq }).modFe fun f => { f with
          seq := f.seq + 1, flushed := f.flushed.filter (· != mkHandle c fix (k.frame fix).gen) })
    some ((s.scrWrite c (k.spr.fbase.toNat + 256 * b) bytes).watermark c, fix)
  | _, _ => none

/-- A firing that no slot names: it is recorded as slot 0's, with what it runs kept apart. -/
def State.fireDirect (s : State) (c fix : Nat) (d : Direct) : State :=
  let s := s.modCore c (·.modFe fun f => { f with direct := Sparse.set none f.direct fix (some d) })
  s.fire c { fix := fix, gen := ((s.core c).frame fix).gen, slot := 0, pri := d.pri, n := 0, excess := 0
             direct := true }

/-- DTPL and ENTRY of a threadlet (R24). -/
def Weave.dtpl (w : Weave) (tix : Nat) : Nat := bits (w.table.getD tix 0) 47 40
def Weave.entry (w : Weave) (tix : Nat) : Nat := bits (w.table.getD tix 0) 31 0
def Weave.rstb (w : Weave) (tix : Nat) : Bool := (w.table.getD tix 0).testBit 32
def Weave.glint (w : Weave) (tix : Nat) : Bool := (w.table.getD tix 0).testBit 33

/-- A free value of R9: it is nothing a proof can see. -/
def State.draw (s : State) : State × Nat := ({ s with draws := s.draws + 1 }, (Config.freeValue s.draws).toNat)

/-- The completion of a FORK (R143). -/
def State.forkDone (s : State) (c : Nat) (r : Ref) (word h code : Nat) : State :=
  s.sendArrival (r.completer c) { signalArrival r code 0 0 with deposits := [(32 + 8 * word, h)] }

/-- Core c refuses the job: it has acknowledged the job's cancel, and the job is still in its region's set (R58, R82). -/
def State.jobCancelled (s : State) (c job : Nat) : Bool :=
  (s.core c).fe.cancelled.contains job && match s.regionOf c with
    | some i => (s.region i).cjobs.contains job
    | none => false

/-- One spawn served (R41, R50, R58, R143, R149, R223, R405, R440); none while a block or an index lacks, which a cancelled job's waits
for too before it is refused. A weave that is being unloaded refuses every one at once. The level of a ROAM's firing is a value the
spec does not state. -/
def State.spawn (s : State) (c : Nat) (m : Msg) : Option State :=
  let w := s.weaveOf c
  let k := s.core c
  let room := k.freeIndex.isSome && k.freeBlock.isSome
  let gone (job : Nat) := k.fe.closing || (room && s.jobCancelled c job)
  let source := match m.src with | .core x => x | _ => 0xFFF
  match m.body with
  | .fork r word tpl job =>
    if gone job then some (s.forkDone c r word 0 7)
    else (s.allocFrame c (s.template c tpl) tpl job).map fun (s, fix) =>
      s.forkDone c r word (mkHandle c fix ((s.core c).frame fix).gen) 0
  | .roam regs tix job =>
    if gone job then some ((s.absorb source c 1).modCore c (·.orphan source m.chan 0 (if s.jobCancelled c job then 5 else 1) 0))
    else (s.allocFrame c (s.template c (w.dtpl tix)) (w.dtpl tix) job).map fun (s, fix) =>
      let (s, v) := s.draw
      (s.absorb source c 1).fireDirect c fix { tix := tix, pri := v % 4, regs := regs }
  | .glint tix pri v =>
    if gone 0 then some s
    else (s.allocFrame c (s.template c (w.dtpl tix)) (w.dtpl tix) 0).map fun (s, fix) =>
      (s.scrWrite c ((s.core c).frameAddr fix + 32) (natLE 8 v)).fireDirect c fix { tix := tix, pri := pri }
  | .restart tix pri job retry frame =>
    if gone job then some s
    else (s.allocFrame c frame (w.dtpl tix) job).map fun (s, fix) =>
      s.fireDirect c fix { tix := tix, pri := pri, retry := retry }
  | _ => some s

/-- The backlog is full: spilling begins, whether or not a block is free; an index that no spill can give is exhaustion (R44,
R47). -/
def State.backlogFull (s : State) (c : Nat) : State :=
  let k := s.core c
  if k.fe.backlog.length < 64 then s
  else
    let t := (s.setCore c (k.modFe fun f => { f with spilling := true })).startSpill c
    if k.freeIndex.isNone then t.exhaust c else t

/-- A spawn request at its core: served, or into the backlog; none while the backlog is full (R43). -/
def State.spawnOrWait (s : State) (c : Nat) (m : Msg) : Option State :=
  let k := s.core c
  let wait : Option State :=
    if k.fe.backlog.length < 64 then
      some ((s.setCore c (k.modFe fun f => { f with backlog := f.backlog ++ [m] })).backlogFull c)
    else none
  if k.fe.backlog = [] ∧ k.wantFill = none ∧ !k.fe.exhausted then
    match s.spawn c m with
    | some s => some s
    | none => wait
  else wait

/-! ### The end of a threadlet (R35, R142) -/

/-- The afterimage-log entry of the running threadlet is released (R439). -/
def State.releaseAfter (s : State) (c : Nat) : State :=
  match (s.core c).pl.after with
  | none => s
  | some i =>
    let cl := s.cluster (clusterOf c)
    (s.setCluster (clusterOf c) { cl with log := Sparse.set none cl.log i none }).modCore c
      (·.modPl fun p => { p with after := none })

/-- The running threadlet of core c ends; its frame is freed or kept (R142). A step halts the core again (R441). -/
def State.endThreadlet (s : State) (c : Nat) (free : Bool) : State :=
  let s := s.releaseAfter c
  let k := s.core c
  let fix := k.pl.fix
  let k' := ({ k with regs := {} }.modPl fun p =>
    { p with pipe := .idle, sup := false, live := false, handle := 0, halted := p.halted || p.stepping
             stepping := false }).modEng fun e => if k.pl.stepping then e.stop s.cycles else e
  let s := s.setCore c k'
  if !k.pl.live then s
  else if free || (k.frame fix).freeP then s.freeFrame c fix false
  else s.modCore c fun k => (k.modFrame fix fun e =>
    { e with st := if k.fe.queued fix then 2 else 1, age := k.fe.seq }).modFe fun f => { f with seq := f.seq + 1 }

end Sys2Proof.Machine
end

