-- ==== Sys2Proof/Machine/Jobs.lean ====
section
/-! DEFINITION. Messages spilled with a swapped-out region (R56), cancelling a job (R58, R82, R83, R161), and the
debugger's halt, step and release (R431, R441, R442). -/

namespace Sys2Proof.Machine

/-- The core a message is for. -/
def Msg.core (m : Msg) : Option Nat :=
  match m.dst with
  | .core c => some c
  | _ => none

/-! ### Spilled messages (R56, R433, R436, R437) -/

/-- The message joins the messages spilled with the region's save; none when its cluster's message area is full
(R433, R436, R437). -/
def State.spillMsg (s : State) (i c : Nat) (m : Msg) : Option State :=
  let r := s.region i
  match r.save with
  | none => none
  | some v =>
    let here := (v.msgs.filter fun e => match e.dst with | .core d => clusterOf d == clusterOf c | _ => false).length
    if 8192 ≤ here then
      if v.committed then none else some (s.setRegion i { r with save := some { v with failed := true, msgs := v.msgs ++ [m] } })
    else
      match s.saveFree r.asid (v.area (r.relOf c) + 0x310000 + 32 * here) 32 with
      | (s, .error _) =>
        if v.committed then
          some (s.saveFault i none)
        else some (s.setRegion i { r with save := some { v with failed := true, msgs := v.msgs ++ [m] } })
      | (s, .ok ()) =>
        let v := { v with msgs := v.msgs ++ [m] }
        some ((s.setRegion i { r with save := some v }).ownWrite r.asid (v.va + 52) (natLE 4 v.msgs.length)).1

/-- What waits for core c in the ingress buffer of its cluster is spilled, ahead of all that reaches the core later (R55,
R56). -/
def State.spillIngress (s : State) (i c : Nat) : State :=
  let k := s.cluster (clusterOf c)
  let mine (m : Msg) : Bool := m.region == some i && m.core == some c
  (k.ingress.filter mine).foldl (fun s m => (s.spillMsg i c m).getD s)
    (s.setCluster (clusterOf c) { k with ingress := k.ingress.filter fun m => !mine m })

/-! ### Cancel -/

/-- The region's set of cancelled jobs has no place for one more (R82). -/
def Region.cancelFull (r : Region) (job : Nat) : Bool := !r.cjobs.contains job && decide (16 ≤ r.cjobs.length)

/-- The cancel of a job begins: the job joins the region's set, every core of the region is told (R82, R161). False
when the set is full and the job is not in it. -/
def State.startCancel (s : State) (i job : Nat) (ref : Option Ref) (queue : Option Nat) : State × Bool :=
  let r := s.region i
  if r.cancelFull job then (s, false)
  else
    let s := s.setRegion i { r with
      cjobs := if r.cjobs.contains job then r.cjobs else r.cjobs ++ [job]
      cancels := r.cancels ++ [{ job := job, await := r.cores, ref := ref, queue := queue }] }
    (r.cores.foldl (fun s c => s.send
      { src := .frontEnd, dst := .core c, chan := .signal, body := .cancel i job, region := some i }) s, true)

/-- The root index of a handle of region i. -/
def Region.rootOf (r : Region) (h : Nat) : Option Nat :=
  if r.roots.contains h then some (r.roots.idxOf h) else none

/-- The header line of a frame's umbra record (R45). -/
def Core.umbraHeader (k : Core) (c fix : Nat) : List Byte :=
  let e := k.frame fix
  natLE 8 (mkHandle c fix e.gen + e.tpl * 2 ^ 32 + e.job * 2 ^ 40) ++ List.replicate 56 0

/-- A frame that a cancel flushes (R58); a root frame is made again at its index (R83), in its umbra record while no
block is free, and this is its last allocation (R44). -/
def State.flushFrame (s : State) (c fix : Nat) : State :=
  let k := s.core c
  let e := k.frame fix
  let h := mkHandle c fix e.gen
  let s := s.freeFrame c fix true
  match s.regionOf c with
  | none => s
  | some i =>
    let r := s.region i
    match r.rootOf h with
    | none => s
    | some n =>
      let tpl := (r.weave.roots.getD n (0, 0)).2
      let gen := ((s.core c).frame fix).gen
      let k := (s.core c).modFe fun f => { f with flushed := f.flushed.filter (· != mkHandle c fix gen) }
      let s := s.setRegion i { r with roots := r.roots.set n (mkHandle c fix gen) }
      match k.freeBlock with
      | some b =>
        ((s.setCore c ((k.setFrame fix { st := 1, gen := gen, tpl := tpl, block := b, age := k.fe.seq }).modFe
          fun f => { f with seq := f.seq + 1 })).scrWrite c (k.spr.fbase.toNat + 256 * b) (s.template c tpl)).watermark c
      | none =>
        let k := (k.setFrame fix { st := 5, gen := gen, tpl := tpl, umbra := e.umbra, age := k.fe.seq }).modFe
          fun f => { f with seq := f.seq + 1 }
        ((s.setCore c k).ownWrite k.net.asid (k.umbraVa e.umbra) (k.umbraHeader c fix ++ s.template c tpl) c).1

/-! ### The end of a spill and of a fill (R44, R46, R302) -/

/-- A transfer of a frame that was freed meanwhile ends in its freeing (R49, R144). -/
def State.settleFree (s : State) (c fix : Nat) : State :=
  let k := s.core c
  let e := k.frame fix
  if !e.freeP then s
  else if k.fe.flushed.contains (mkHandle c fix e.gen) then s.flushFrame c fix
  else s.freeFrame c fix false

/-- The umbra record of a frame: its header, then its 256 bytes (R45). -/
def Core.umbraRecord (k : Core) (c fix : Nat) : List Byte := k.umbraHeader c fix ++ k.scr.read (k.frameAddr fix) 256

/-- The umbra record cannot be reached: exhaustion (R47); a frame of a weave that is being unloaded is freed, its transfer at an
end, and the arrivals that waited for it are orphans (R20, R53). -/
def State.failTransfer (s : State) (c fix : Nat) : State :=
  let k := s.core c
  if k.fe.closing && (k.frame fix).freeP then (s.settleFree c fix).drainPending c else s.exhaust c

/-- A spill ends: the record is written, the block is free (R44, R302). Where a line's turn has not come, it has not ended yet. -/
def State.finishSpill (s : State) (c fix : Nat) : State :=
  let k := s.core c
  if (k.frame fix).st ≠ 4 then s
  else match s.gWrite k.net.asid (k.umbraVa (k.frame fix).umbra) (k.umbraRecord c fix) { turn := true, core := c, own := true } with
    | (_, .error .busy) => s
    | (s, .error _) => s.failTransfer c fix
    | (s, .ok ()) =>
      let s := (((s.modCore c (·.modFrame fix fun e => { e with st := 5 })).watermark c).settleFree c fix).drainPending c
      let s := match (s.core c).wantFill with
        | some f => s.startFill c f
        | none => s
      let k := s.core c
      if k.fe.spilling then
        if k.fe.backlog.length ≤ 48 then s.modCore c (·.modFe fun f => { f with spilling := false })
        else s.startSpill c
      else s

/-- A fill ends: the block is read back, the pending arrivals are applied (R46, R49). A fill is no use of the frame in the
sense of R44. Where the umbra record cannot be read, exhaustion is raised as for a spill, and the fill is tried again (a
choice: assumption log, entry 54). -/
def State.finishFill (s : State) (c fix : Nat) : State :=
  let k := s.core c
  if (k.frame fix).st ≠ 6 then s
  else match s.gRead k.net.asid (k.umbraVa (k.frame fix).umbra + 64) 256 { turn := true, core := c, own := true } with
    | (_, .error .busy) => s
    | (s, .error _) => s.failTransfer c fix
    | (s, .ok bs) =>
      let s := s.scrWrite c (k.frameAddr fix) bs
      let s := s.modCore c (·.modFrame fix fun e => { e with st := 1, umbra := 0 })
      ((s.settleFree c fix).drainPending c).releaseWaiting c

/-! ### A job at a core (R58, R431) -/

/-- A threadlet whose frame was flushed while the handler ran ends; no frame is left to free or to keep (R58). -/
def State.endDoomed (s : State) (c : Nat) : State :=
  (s.modCore c (·.modPl fun p => { p with live := false, doomed := false })).endThreadlet c false

/-- The running threadlet ends and its frame is flushed. -/
def State.endFlushed (s : State) (c : Nat) : State :=
  let fix := (s.core c).pl.fix
  ((s.modCore c (·.modFrame fix fun e => { e with freeP := false })).endThreadlet c false).flushFrame c fix

/-- Every frame of a job at a core is flushed; the threadlet that runs there ends, at its next boundary if the handler runs; held
arrivals for flushed frames become orphans (R58, R431). -/
def State.flushJob (s : State) (c job : Nat) : State :=
  let k := s.core c
  let fixes := (k.fe.frames.filter fun e => e.2.st != 0 && e.2.job == job).map (·.1)
  let s := fixes.foldl (fun s fix =>
    let k := s.core c
    let e := k.frame fix
    let h := mkHandle c fix e.gen
    if e.st = 3 then
      if k.pl.sup then (s.setCore c (k.modPl fun p => { p with doomed := true })).flushFrame c fix else s.endFlushed c
    else if e.st = 4 ∨ e.st = 6 then
      s.setCore c ((k.modFrame fix fun e => { e with freeP := true }).modFe fun f => { f with flushed := f.flushed ++ [h] })
    else s.flushFrame c fix) s
  let k := s.core c
  let gone (m : Msg) : Bool := k.fe.flushed.contains m.handle && !k.live m.handle
  let s := s.setCore c (k.modFe fun f => { f with
    held := f.held.filter (fun m => !gone m)
    cancelled := if f.cancelled.contains job then f.cancelled else f.cancelled ++ [job] })
  (((k.fe.held.filter gone).foldl (fun s m => (s.applyMsg c m).1) s).drainPending c).releaseWaiting c

/-- Core c acknowledges a cancel; the last acknowledgement completes it (R58, R161). -/
def State.ackCancel (s : State) (i c job : Nat) : State :=
  let r := s.region i
  match r.cancels.findIdx? fun o => o.job == job && o.await.contains c with
  | none => s
  | some n =>
    let o := r.cancels.getD n {}
    let rest := o.await.filter (· != c)
    if rest = [] then
      let s := s.setRegion i { r with cancels := r.cancels.eraseIdx n }
      let s := match o.ref with
        | some f => s.signal .frontEnd f 0 0 0
        | none => s
      match o.queue with
      | some q => s.packetDone q
      | none => s
    else s.setRegion i { r with cancels := r.cancels.set n { o with await := rest } }

/-! ### Halt and step (R441) -/

/-- A halt request: at once between two instructions of user code, after RFE while the handler runs. One that comes while a STEP runs
suspends the threadlet again. A request that acts at a core (HALT, GO, STEP, RELH) ends its WAITI, one that reads its state does not (a
choice: R165; assumption log, entry 73). -/
def State.halt (s : State) (c : Nat) : State :=
  s.modCore c fun k =>
    if k.pl.halted && !k.pl.stepping then k.modPl fun p => { p with waiti := false }
    else if k.pl.sup then k.modPl fun p => { p with haltReq := true, waiti := false }
    else (k.modPl fun p => { p with halted := true, stepping := false, waiti := false }).modEng (·.stop s.cycles)

/-- RELH: the held arrivals are applied in held order, without matching them again; what the pending-arrival buffer has no room for is
applied when it has. -/
def State.releaseHeld (s : State) (c : Nat) : State :=
  ((s.wake c).modCore c (·.modFe fun f => { f with released := f.released ++ f.held.map fun m => { m with passed := true }, held := [] })).releaseWaiting c

/-- GO: the held arrivals are applied, whether or not the core is halted, then engines and threadlet of a halted core resume. -/
def State.go (s : State) (c : Nat) : State :=
  let t := s.releaseHeld c
  if !(s.core c).pl.halted then t
  else t.modCore c fun k => (k.modPl fun p => { p with halted := false, stepping := false }).modEng (·.go s.cycles)

/-- STEP: one firing is permitted; with a suspended threadlet, that one. -/
def State.stepOnce (s : State) (c : Nat) : State :=
  (s.wake c).modCore c fun k =>
    if k.pl.halted && !k.pl.stepping then
      (k.modPl fun p => { p with stepping := true, lasth := if p.live then p.handle else p.lasth }).modEng
        (·.go s.cycles)
    else k

/-- STEPCTL as it reads (R441). -/
def Core.stepctl (k : Core) : Nat :=
  b2n (k.pl.halted && !k.pl.stepping) * 2 ^ 63 + b2n k.pl.stepping * 2 ^ 61 +
    b2n (decide (256 ≤ k.fe.held.length)) * 2 ^ 59 + k.fe.held.length * 2 ^ 41 + k.pl.lasth

/-- A write of STEPCTL is one that R441 permits. -/
def stepctlOk (v : Nat) : Bool := decide (popcount 4 (v >>> 60) ≤ 1) && decide (v % 2 ^ 60 = 0)

/-- A permitted write of STEPCTL acts. -/
def State.writeStepctl (s : State) (c v : Nat) : State :=
  if v.testBit 63 then s.halt c
  else if v.testBit 62 then s.go c
  else if v.testBit 61 then s.stepOnce c
  else if v.testBit 60 then s.releaseHeld c
  else s

end Sys2Proof.Machine
end

