-- ==== Sys2Proof/Machine/Special.lean ====
section
/-! DEFINITION. The special registers: numbers, access, widths (R97, R98), reading and writing, MFS and MTS (R162). -/

namespace Sys2Proof.Machine

/-- What R97 says of a number: user may read, user may write, read-only, the bits that may be set. -/
structure SprInfo where
  ur : Bool
  uw : Bool
  ro : Bool
  mask : Nat
  deriving DecidableEq, Repr

def ones (n : Nat) : Nat := 2 ^ n - 1

/-- The table of R97; none for an unassigned number. -/
def sprInfo (n : Nat) : Option SprInfo :=
  let sv (w : Nat) : Option SprInfo := some ⟨false, false, false, ones w⟩
  let rw (w : Nat) : Option SprInfo := some ⟨true, true, false, ones w⟩
  let ro : Option SprInfo := some ⟨true, false, true, 0⟩
  match n with
  | 0x000 => ro | 0x001 => ro
  | 0x002 => some ⟨true, false, false, ones 16⟩
  | 0x003 => rw 2 | 0x004 => rw 6 | 0x005 => rw 6 | 0x006 => rw 64 | 0x007 => rw 32
  | 0x008 => ro | 0x009 => ro | 0x00A => ro | 0x00B => ro
  | 0x010 => sv 20 | 0x011 => sv 21 | 0x012 => sv 20 | 0x013 => sv 21 | 0x014 => sv 48 | 0x015 => sv 48
  | 0x016 => sv 12 | 0x017 => sv 12 | 0x018 => sv 32
  | 0x030 => sv 48 | 0x031 => sv 20 | 0x032 => sv 32 | 0x033 => sv 32 | 0x034 => sv 8 | 0x035 => sv 64
  | 0x036 => sv 45 | 0x037 => sv 64 | 0x038 => sv 64 | 0x110 => sv 64
  | _ =>
    if 0x020 ≤ n ∧ n ≤ 0x027 then some ⟨false, false, true, 0⟩
    else if 0x100 ≤ n ∧ n ≤ 0x107 then some ⟨false, false, false, ones 64 - ones 4 * 2 ^ 56 - ones 13 * 2 ^ 35⟩
    else if 0x108 ≤ n ∧ n ≤ 0x10F then sv 64
    else none

/-- The value of special register n of core c (R97). -/
def State.readSpr (s : State) (c n : Nat) : Nat :=
  let k := s.core c
  match n with
  | 0x000 => coreId c
  | 0x001 => k.net.region.getD 0x7F
  | 0x002 => k.net.asid
  | 0x003 => k.spr.prio.toNat
  | 0x004 => k.spr.excflags.toNat
  | 0x005 => k.spr.excen.toNat
  | 0x006 => k.spr.rngseed.toNat
  | 0x007 => k.spr.rngstrm.toNat
  | 0x008 => if k.pl.live then (k.frame k.pl.fix).job else 0
  | 0x009 => s.cycles % 2 ^ 64
  | 0x00A => s.fetime (dieOf c) % 2 ^ 64
  | 0x00B => s.cbase c
  | 0x010 => k.spr.fbase.toNat
  | 0x011 => k.spr.flim.toNat
  | 0x012 => k.spr.dqbase.toNat
  | 0x013 => k.spr.dqlim.toNat
  | 0x014 => k.spr.umbase.toNat
  | 0x015 => k.spr.umlim.toNat
  | 0x016 => k.spr.fwlo.toNat
  | 0x017 => k.spr.fwhi.toNat
  | 0x018 => k.spr.orphcnt.toNat
  | 0x030 => k.sup.saveptr.toNat
  | 0x031 => k.sup.faultq.toNat
  | 0x032 => k.sup.evec.toNat
  | 0x033 => k.sup.epc.toNat
  | 0x034 => k.sup.ecause.toNat
  | 0x035 => k.sup.etval.toNat
  | 0x036 => k.sup.estat.toNat
  | 0x037 => k.sup.kscr0.toNat
  | 0x038 => k.sup.kscr1.toNat
  | 0x110 => k.stepctl
  | _ =>
    if 0x020 ≤ n ∧ n ≤ 0x027 then (Sparse.get 0 k.spr.orphlog (n - 0x020)).toNat
    else if 0x100 ≤ n ∧ n ≤ 0x107 then (Sparse.get 0 k.sup.shtcmp (n - 0x100)).toNat
    else if 0x108 ≤ n ∧ n ≤ 0x10F then (Sparse.get 0 k.sup.shtval (n - 0x108)).toNat
    else 0

/-- A pool that R42 permits. -/
def poolOk (fbase flim : Nat) : Bool :=
  decide (fbase % 256 = 0) && decide (flim % 256 = 0) && decide (fbase < flim) && decide ((flim - fbase) / 256 ≤ 4096)

/-- The further conditions stated with a register (R42, R306, R441). -/
def State.sprCond (s : State) (c n v : Nat) : Bool :=
  let k := s.core c
  let idle := !k.fe.frames.any fun e => e.2.st != 0
  match n with
  | 0x010 => poolOk v k.spr.flim.toNat && idle
  | 0x011 => poolOk k.spr.fbase.toNat v && idle
  | 0x016 => decide (v < k.spr.fwhi.toNat) && decide (k.spr.fwhi.toNat ≤ k.blockCount)
  | 0x017 => decide (k.spr.fwlo.toNat < v) && decide (v ≤ k.blockCount)
  | 0x110 => stepctlOk v
  | _ => true

/-- The write of a permitted value. -/
def State.writeSpr (s : State) (c n v : Nat) : State :=
  let b (w : Nat) : BitVec w := BitVec.ofNat w v
  let spr (f : Sprs → Sprs) : State := s.modCore c fun k => { k with spr := f k.spr }
  let sup (f : SupRegs → SupRegs) : State := s.modCore c fun k => { k with sup := f k.sup }
  match n with
  | 0x002 => s.modCore c (·.modNet fun t => { t with asid := v })
  | 0x003 => spr fun r => { r with prio := b 2 }
  | 0x004 => spr fun r => { r with excflags := b 6 }
  | 0x005 => spr fun r => { r with excen := b 6 }
  | 0x006 => spr fun r => { r with rngseed := b 64 }
  | 0x007 => spr fun r => { r with rngstrm := b 32 }
  | 0x010 => (spr fun r => { r with fbase := b 20 }).watermark c
  | 0x011 => (spr fun r => { r with flim := b 21 }).watermark c
  | 0x012 => spr fun r => { r with dqbase := b 20 }
  | 0x013 => spr fun r => { r with dqlim := b 21 }
  | 0x014 => spr fun r => { r with umbase := b 48 }
  | 0x015 => spr fun r => { r with umlim := b 48 }
  | 0x016 => spr fun r => { r with fwlo := b 12 }
  | 0x017 => spr fun r => { r with fwhi := b 12 }
  | 0x018 => spr fun r => { r with orphcnt := b 32 }
  | 0x030 => sup fun r => { r with saveptr := b 48 }
  | 0x031 => (sup fun r => { r with faultq := b 20 }).claim c v 1088
  | 0x032 => sup fun r => { r with evec := b 32 }
  | 0x033 => sup fun r => { r with epc := b 32 }
  | 0x034 => sup fun r => { r with ecause := b 8 }
  | 0x035 => sup fun r => { r with etval := b 64 }
  | 0x036 => sup fun r => { r with estat := b 64 }
  | 0x037 => sup fun r => { r with kscr0 := b 64 }
  | 0x038 => sup fun r => { r with kscr1 := b 64 }
  | 0x110 => s.writeStepctl c v
  | _ =>
    if 0x100 ≤ n ∧ n ≤ 0x107 then
      sup fun r => { r with shtcmp := Sparse.set 0 r.shtcmp (n - 0x100) (BitVec.ofNat 64 (putBits v 55 48 0)) }
    else if 0x108 ≤ n ∧ n ≤ 0x10F then
      sup fun r => { r with shtval := Sparse.set 0 r.shtval (n - 0x108) (b 64) }
    else s

/-- The first two checks of R98 on an access, which R104 makes whatever the guard: the cause and ETVAL of the trap. -/
def sprAccess (k : Ctx) (s : State) (n : Nat) (write : Bool) : Option (Nat × Nat) :=
  match sprInfo n with
  | none => some (0x01, k.word)
  | some i =>
    if write && i.ro then some (0x01, k.word)
    else if !s.me.pl.sup && !(if write then i.uw else i.ur) then some (0x03, n)
    else none

/-- MFS (R162). -/
def opMfs (k : Ctx) (s : State) : Out :=
  let n := k.b * 32 + k.a
  match sprAccess k s n false with
  | some t => trapOut s t.1 t.2
  | none => run false k s fun s => setG k s (s.readSpr s.cur n)

/-- MTS (R162): a value that R98 or the register's own rule forbids takes cause 0x02. -/
def opMts (k : Ctx) (s : State) : Out :=
  let n := k.b * 32 + k.d
  match sprAccess k s n true with
  | some t => trapOut s t.1 t.2
  | none => run false k s fun s =>
    let v := k.vA s
    if (v &&& (ones 64 - ((sprInfo n).map (·.mask)).getD 0)) != 0 || !s.sprCond s.cur n v then trapOut s 0x02 v
    else .next ((s.writeSpr s.cur n v).advance k.len)

end Sys2Proof.Machine
end

