-- ==== Sys2Proof/Machine/Traps.lean ====
section
/-! DEFINITION. Trap instructions (R163-R166), the return from a trap with parking and restart (R164, R424, R430,
R440), the resident handler (R428), entry for recorded traps and pre-emption (R426, R430), step control (R441). -/

namespace Sys2Proof.Machine

/-! ### Restart (R440) -/

/-- The next core of the region after c, in ascending core id, wrapping, fenced clusters skipped. -/
def State.nextCore (s : State) (i c : Nat) : Nat :=
  let cs := (s.region i).cores.filter fun d => !s.fw.fenced.testBit (clusterOf d)
  ((cs.find? fun d => decide (c < d)).or cs.head?).getD c

/-- The threadlet of an afterimage entry is to be fired again on the next core, which a request reaches there, or where its weave is
by then (R56, R440). -/
def State.restart (s : State) (c n : Nat) (e : AfterEnt) : State :=
  match s.regionOf c with
  | none => s
  | some i =>
    let cl := s.cluster (clusterOf c)
    let s := s.setCluster (clusterOf c) { cl with log := Sparse.set none cl.log n none }
    let d := s.nextCore i c
    let m : Msg := { src := .core c, dst := .core d, chan := .request, region := some i
                     body := .restart e.tix e.pri e.job (e.retry + 1) e.frame }
    s.send m

/-- DISP 11 with ECAUSE 0x10: the threadlet's frame is freed and the threadlet restarted; none when it may not be. -/
def State.restartRunning (s : State) (c : Nat) : Option State :=
  match (s.core c).pl.after with
  | none => none
  | some n =>
    match Sparse.get none (s.cluster (clusterOf c)).log n with
    | none => none
    | some e =>
      if 3 ≤ e.retry then none
      else
        let s := s.modCore c (·.modPl fun p => { p with after := none })
        some ((s.endThreadlet c true).restart c n e)

/-! ### Parking (R430, R432) -/

/-- What a load leaves of a core: R27's list of what keeps its value, and the count of corrected errors (R354). EPC, ECAUSE, ETVAL
and ESTAT, which R27 does not name, become 0 (a choice: assumption log, entry 70). -/
def Core.kept (k : Core) : Core :=
  { pl := { resident := k.pl.resident, image := k.pl.image, halted := k.pl.halted, stepping := k.pl.stepping, lasth := k.pl.lasth }
    eng := { stopped := k.pl.halted && !k.pl.stepping, stopAt := k.eng.stopAt }
    scr := { corrected := k.scr.corrected }
    sup := { evec := k.sup.evec, kscr0 := k.sup.kscr0, kscr1 := k.sup.kscr1, shtcmp := k.sup.shtcmp, shtval := k.sup.shtval } }

/-- A TMMSP of core c that only waits on Prism. -/
def PrismOp.asks (c : Nat) (p : PrismOp) : Bool := p.core == c && !p.spcomp

/-- The TMMSPs of core c that wait on Prism wait no more: each will ask again, and its identity is read afresh (R394). A compile
that has begun runs on; one that has not, and that nothing waits for, does not begin. -/
def State.unask (s : State) (c : Nat) : State :=
  let cl := s.cluster (clusterOf c)
  let s := { s with msgs := s.msgs.filter fun m => match m.body with
    | .prism p => !p.asks c
    | _ => true }
  let s := s.setCluster (clusterOf c) { cl with
    compiles := (cl.compiles.map fun q => { q with waiting := q.waiting.filter fun p => !p.asks c }).filter fun q =>
      q.slot.isSome || q.waiting != [] }
  s.modCore c (·.modEng fun e => { e with tensor := e.tensor.map fun o => if o.prism = 1 then { o with prism := 0 } else o })

/-! ### A message at the region it is addressed to (R55-R57, R437) -/

/-- What a message for core c meets. -/
inductive Meet where
  /-- The weave it is meant for, gates permitting. -/
  | here
  /-- Closed gates: the ingress buffer. -/
  | closed
  /-- Messages that go before it: those spilled and not yet delivered again, or those left in its cluster's ingress buffer
  when the gates opened (R55, R56). -/
  | wait
  /-- Its region is swapped out, or its core parked for that. -/
  | away (i : Nat)
  /-- No such weave any more. -/
  | gone
  deriving DecidableEq, Repr

def State.meet (s : State) (c : Nat) (m : Msg) : Meet :=
  match m.region with
  | none => .here
  | some i =>
    if s.regionOf c = some i then
      if !m.again && s.msgs.any (fun x => x.again && x.dst == m.dst) then .wait
      else if !(s.region i).gates then (if m.outside then .closed else .here)
      else if (s.cluster (clusterOf c)).ingress.any fun x => x.region == some i then .wait
      else .here
    else match (s.region i).save with
      | some v => if v.cores.any fun e => e.1 == c then .away i else .gone
      | none => .gone

/-- An operation whose queue destination still has entries of a group to send. -/
def EngOp.sending (o : EngOp) : Bool :=
  match o.streams.lookup 0 with
  | some (_, b) => b.kind == 1 && b.buf != []
  | none => false

/-- The entry that a queue destination of core c has sent may be answered where its weave stands. -/
def State.entryNear (s : State) (c id : Nat) : Bool :=
  s.msgs.any fun m => match m.dst, m.body with
    | .core d, .enq _ _ _ true r i => i == id && r.origin == c && s.meet d m == .here
    | _, _ => false

/-- The operation has a group in flight: a unit gone through in part, or entries of a queue destination still to be sent, unless one
waits at a region that takes none now (R238). -/
def State.inGroup (s : State) (c : Nat) (o : EngOp) : Bool := o.live || (o.sending && (!o.waits || s.entryNear c o.id))

/-- A unit of an engine of core c is in flight (R357). -/
def State.unitsLive (s : State) (c : Nat) : Bool :=
  let e := (s.core c).eng
  (e.copy ++ e.tensor).any (·.live) || e.vector.any (s.inGroup c)

/-- The frames of a core that are being spilled or filled. -/
def Core.moving (k : Core) : List Nat := (k.fe.frames.filter fun e => e.2.st == 4 || e.2.st == 6).map (·.1)

/-- A spill or a fill under way finishes, if its turn has come. -/
def State.finishMoves (s : State) (c : Nat) : State := (s.core c).moving.foldl (fun s f => (s.finishSpill c f).finishFill c f) s

/-- The core is not to park yet: a unit of its engines is in flight, or a frame is being spilled or filled (R430). -/
def State.settling (s : State) (c : Nat) : Bool :=
  s.unitsLive c || ((s.core c).moving != [] && !(s.core c).fe.exhausted)

/-- The core parks: its engines stand still, operations that asked Prism will ask again, its image is written and joins the save of
its region, and it holds no weave (R430, R432). What a halted core held is spilled ahead of all that waits for the core (R431). Its
scratchpad stays in place until every core of the region is parked, since the others still run. -/
def State.park (s : State) (c : Nat) : State :=
  let s := (s.unask c).modCore c fun k =>
    (k.modPl fun p => { p with pipe := .parked, preempt := false }).modEng (·.stop s.cycles)
  match s.regionOf c with
  | none => s
  | some i =>
    let r := s.region i
    match r.save with
    | none => s
    | some v =>
      let k := s.core c
      let held := if k.pl.halted then k.fe.released ++ k.fe.held else []
      let image := if k.pl.halted then k.modFe fun f => { f with released := [], held := [] } else k
      let (s, w) := s.saveFree r.asid (v.area (r.relOf c) + 0x20000 * bits c 4 0) 0x20000
      let s := (s.setRegion i { s.region i with
        save := some { v with cores := v.cores ++ [(c, image)], failed := v.failed || w matches .error _ } }).setCore c
          { k.kept with scr := k.scr }
      (held.foldl (fun s m => (s.spillMsg i c m).getD s) s).spillIngress i c

/-! ### Return (R164, R424) -/

/-- The size of the code that the privilege executes. -/
def State.codeSize (s : State) (c : Nat) (sup : Bool) : Nat :=
  if sup then (if isFw c then 0x40000 else 0x4000) else (s.weaveOf c).codesz

/-- The check of R158 on a code offset: the cause that forbids it. -/
def targetTrap (size : Nat) (t : Int) : Option Nat :=
  if t % 4 ≠ 0 then some 0x04 else if t < 0 ∨ (size : Int) ≤ t then some 0x05 else none

/-- What follows every return: a halt that was waiting, a threadlet that a cancel ended. -/
def State.boundary (s : State) (c : Nat) : State :=
  let k := s.core c
  let s := if k.pl.doomed && !k.pl.sup then s.endDoomed c else s
  if (s.core c).pl.haltReq && !(s.core c).pl.sup then
    (s.modCore c (·.modPl fun p => { p with haltReq := false })).halt c
  else s

/-- RFE on core c: the next state, or the cause and value of the trap at the RFE. With DISP 11 it waits, its engines stopped, for
the units in flight, a spill and a fill to end (R430). A firmware core, which runs no threadlets, goes on at EPC. A
threadlet whose frame a cancel flushed while the handler ran ends, whatever DISP says (R58). -/
def State.rfe (s : State) (c : Nat) : Except (Nat × Nat) State :=
  let k := s.core c
  let st := k.sup.estat.toNat
  let recd := st.testBit 40
  let h := bits st 31 0
  let cause := k.sup.ecause.toNat
  let s1 :=
    if recd && cause == 0x0B then s.setCore c (k.setJournal k.pl.auxid {})
    else if recd && cause == 0x0E then s.setCore c (k.modFe fun f => { f with exhausted := false })
    else s
  let resume : Except (Nat × Nat) State :=
    if (recd || h == 0) && !isFw c then
      .ok ((s1.modCore c (·.modPl fun p => { p with sup := false, pipe := .idle })).boundary c)
    else
      let epc := k.sup.epc.toNat
      match targetTrap (s.codeSize c (st.testBit 44)) epc with
      | some t => .error (t, epc)
      | none => .ok ((s1.modCore c Core.resume).boundary c)
  let ends (free : Bool) : Except (Nat × Nat) State :=
    if recd || h == 0 then resume
    else .ok ((if k.pl.doomed then s1.endDoomed c else s1.endThreadlet c free).boundary c)
  match bits st 39 38 with
  | 0 => resume
  | 1 => ends false
  | 2 => ends true
  | _ =>
    if cause = 0 then
      let t := s.finishMoves c
      .ok (if t.settling c then t.modCore c (·.modEng (·.stop s.cycles)) else t.park c)
    else if cause = 0x10 ∧ st.testBit 41 then
      match if k.pl.doomed then none else s1.restartRunning c with
      | some s => .ok (s.boundary c)
      | none => ends true
    else .error (0x02, st)

/-- RFE. -/
def opRfe (k : Ctx) (s : State) : Out :=
  run true k s fun s =>
    match s.rfe s.cur with
    | .ok s => .next s
    | .error t => trapOut s t.1 t.2

/-! ### The resident handler (R428) -/

/-- DISP written to ESTAT. -/
def Core.setDisp (k : Core) (d : Nat) : Core :=
  { k with sup := { k.sup with estat := BitVec.ofNat 64 (putBits k.sup.estat.toNat 39 38 d) } }

/-- EPC moved past a one-word instruction. -/
def Core.skipEpc (k : Core) : Core := { k with sup := { k.sup with epc := k.sup.epc + 4 } }

/-- The save area of R429: g, p, f. -/
def Core.saveBytes (k : Core) : List Byte :=
  (List.range 32).flatMap (fun i => natLE 8 (k.readG i).toNat) ++
    (List.range 8).map (fun i => BitVec.ofNat 8 (b2n (k.readP i))) ++ List.replicate 248 0 ++
    (List.range 32).flatMap fun i => lineBytes (k.readF i) 0 64

/-- The registers as the save area holds them. -/
def Core.loadRegs (k : Core) (bs : List Byte) : Core :=
  let g := (List.range 32).foldl (fun k i => k.writeG i (BitVec.ofNat 64 (leNat ((bs.drop (8 * i)).take 8)))) k
  let p := (List.range 8).foldl (fun k i => k.writeP i ((bs.getD (256 + i) 0) != 0)) g
  (List.range 32).foldl (fun k i => k.writeF i (lineOf ((bs.drop (512 + 64 * i)).take 64))) p

/-- Records from TAIL that the handler forwards: up to the first whose entry is still to be made. -/
def Core.forwardable (k : Core) (head : Nat) : Nat → Nat → Nat
  | 0, t => t
  | n + 1, t =>
    if t = head ∨ k.net.traps.any (fun p => !p.lost && p.qix == t % 32) then t
    else k.forwardable head n ((t + 1) % 2 ^ 32)

/-- The handler forwards records to its die's firmware core and advances TAIL. -/
def State.forward (s : State) (c : Nat) : State :=
  let k := s.core c
  let q := k.sup.faultq.toNat
  let tail := k.scr.readN (q + 8) 4
  let t := k.forwardable (k.scr.readN q 4) 32 tail
  if t = tail then s
  else
    let d := s.die (dieOf c)
    let new := (List.range ((t + 2 ^ 32 - tail) % 2 ^ 32)).map fun i => (c, k.scr.read (q + 64 + 32 * ((tail + i) % 32)) 32)
    (s.setDie (dieOf c) { d with reports := d.reports ++ new }).scrWrite c (q + 8) (natLE 4 t)

/-- The handler's action at an entry, up to and with its RFE. -/
def State.handler (s : State) (c : Nat) : State :=
  let k := s.core c
  let cause := k.sup.ecause.toNat
  let st := k.sup.estat.toNat
  let val := k.sup.etval.toNat
  let write (s : State) : State :=
    s.post c false cause 0 0 k.sup.epc.toNat (bits st 31 0) val 0
  let s : State :=
    if cause = 0 then
      if st.testBit 42 then
        ((s.setCore c (k.loadRegs (k.scr.read k.sup.saveptr.toNat 2560))).modCore c (·.setDisp 0)).forward c
      else ((s.scrWrite c k.sup.saveptr.toNat k.saveBytes).modCore c (·.setDisp 3)).forward c
    else if st.testBit 40 then
      if cause = 0x0E then
        match s.regionOf c with
        | some i =>
          let job := bits val 63 48
          ((if job = 0 then s else (s.startCancel i job none none).1).modCore c (·.setDisp 0)).forward c
        | none => (s.modCore c (·.setDisp 0)).forward c
      else (s.modCore c (·.setDisp 0)).forward c
    else if cause = 0x11 then
      ((write s).modCore c fun k => (k.skipEpc.setDisp 0).modPl fun p => { p with haltReq := true }).forward c
    else if cause = 0x12 ∧ val = 0 then (s.modCore c fun k => k.skipEpc.setDisp 0).forward c
    else if cause = 0x10 ∧ st.testBit 41 then (s.modCore c (·.setDisp 3)).forward c
    else ((write s).modCore c (·.setDisp 1)).forward c
  match s.rfe c with
  | .ok s => s
  | .error t => s.modCore c fun k => k.takeTrap t.1 t.2 k.pl.pc false false false 63 (if k.pl.live then k.pl.handle else 0)

/-! ### Trap instructions (R163, R165, R166) -/

/-- word0[27:10]. -/
def Ctx.imm18 (k : Ctx) : Nat := k.m * 2 ^ 15 + k.b * 2 ^ 10 + k.a * 2 ^ 5 + k.d

/-- SVC. -/
def opSvc (k : Ctx) (s : State) : Out := run false k s fun s => trapOut s 0x12 k.imm18
/-- BRK. -/
def opBrk (k : Ctx) (s : State) : Out := run false k s fun s => trapOut s 0x11 k.imm18
/-- TRAP: cause word0[17:10], tag word0[27:18]. -/
def opTrap (k : Ctx) (s : State) : Out := run false k s fun s => trapOut s (k.imm18 % 256) (k.imm18 / 256)

/-- Something WAITI waits for is there already; a message, when it has come to the core and waits to be taken, be it in the ingress,
the backlog, the pending-arrival buffer or the held-arrival list (a choice: assumption log, entry 73). -/
def State.waking (s : State) (c : Nat) : Bool :=
  let k := s.core c
  k.pl.preempt || k.pl.haltReq || k.net.traps != [] ||
    [k.fe.l0, k.fe.l1, k.fe.l2, k.fe.l3].any (fun l => l.reg != [] || l.prom != []) ||
    k.fe.backlog ++ k.fe.pending ++ k.fe.held ++ k.fe.released != [] || s.msgs.any fun m => m.landed && m.dst == .core c

/-- WAITI. -/
def opWaiti (k : Ctx) (s : State) : Out :=
  run true k s fun s =>
    let w := !s.waking s.cur
    done k s (·.modPl fun p => { p with waiti := w })

/-- The cores of the scope instance that contains core c, a firmware core itself among them (R166). -/
def scopeCores (sc c : Nat) : List Nat :=
  (if isFw c then [c] else []) ++ ((List.range 96).flatMap coresOf).filter (sameInst sc c)

/-- A SYNCI goes out to every core of its scope (R138, R166). -/
def State.synci (s : State) (sc c : Nat) (r : Ref) : State :=
  let cs := scopeCores sc c
  { s with
    syncs := s.syncs ++ [{ id := s.syncNext, ref := r, await := cs }]
    syncNext := s.syncNext + 1
    msgs := s.msgs ++ cs.map fun d => { src := .core c, dst := .core d, chan := .signal, body := .synci s.syncNext } }

/-- A SYNCI reaches core c: its instruction and constant caches are emptied; the last of its scope lets it signal (R166). -/
def State.synciAt (s : State) (c id : Nat) : State :=
  let s := s.modCore c (·.modPl fun p => { p with icache := [], ccache := [], waiti := false })
  match s.syncs.find? (·.id == id) with
  | none => s
  | some o =>
    let rest := o.await.filter (· != c)
    let others := s.syncs.filter (·.id != id)
    if rest = [] then ({ s with syncs := others } : State).signal (o.ref.completer c) o.ref 0 0 0
    else { s with syncs := { o with await := rest } :: others }

/-- SYNCI. -/
def opSynci (k : Ctx) (s : State) : Out :=
  run true k s fun s => withRef k s fun r => .next (((issued s r).synci k.sc s.cur r).advance k.len)

/-! ### Entry between instructions (R300, R426, R430) -/

/-- RECORDED_TRAP_ENTRY (R426): step 1 of R300, before the firing that a STEP permits. -/
def execRecordedTrapEntry (c : Nat) (s : State) : Out :=
  let k := s.core c
  match k.net.traps with
  | [] => .next s
  | p :: ps =>
    if k.pl.pipe = .idle ∧ !k.pl.sup ∧ (!k.pl.halted ∨ k.pl.stepping) ∧ !k.pl.preempt then
      .next (s.setCore c (((k.modNet fun n => { n with traps := ps }).modPl fun q =>
        { q with auxid := p.auxid, waiti := false, fetchTrap := none }).takeTrap p.cause p.value p.epc true p.lost false p.qix p.handle))
    else .next s

/-- PREEMPT (R430 step 2, R431): between two instructions of user code, or while no threadlet runs. -/
def execPreempt (c : Nat) (s : State) : Out :=
  let k := s.core c
  if k.pl.preempt ∧ !k.pl.sup ∧ k.pl.pipe ≠ .parked then
    .next (s.setCore c ((k.modPl fun p => { p with preempt := false, waiti := false, fetchTrap := none }).takeTrap 0x00 0
      (if k.pl.live then k.pl.pc else 0) false false false 63 (if k.pl.live then k.pl.handle else 0)))
  else .next s

/-- STEPCTL_HALT (R441). -/
def execStepctlHalt (c : Nat) (s : State) : Out := .next (s.halt c)
/-- STEPCTL_GO (R441). -/
def execStepctlGo (c : Nat) (s : State) : Out := .next (s.go c)
/-- STEPCTL_STEP (R441). -/
def execStepctlStep (c : Nat) (s : State) : Out := .next (s.stepOnce c)
/-- STEPCTL_RELH (R441). -/
def execStepctlRelh (c : Nat) (s : State) : Out := .next (s.releaseHeld c)

/-- SVC (R163). -/
def execSvc (o : W0) (s : State) : Out := opSvc (ctxB 0x18 o) s

/-- TRAP (R163). -/
def execTrap (o : W0) (s : State) : Out := opTrap (ctxB 0x19 o) s

/-- RFE (R424). -/
def execRfe (o : W0) (s : State) : Out := opRfe (ctxB 0x1A o) s

/-- BRK (R163). -/
def execBrk (o : W0) (s : State) : Out := opBrk (ctxB 0x1B o) s

/-- WAITI (R165). -/
def execWaiti (o : W0) (s : State) : Out := opWaiti (ctxB 0x1C o) s

/-- SYNCI (R166). -/
def execSynci (o : Ext) (s : State) : Out := opSynci (ctxX 0x1D o) s

/-- MFS (R162). -/
def execMfs (o : W0) (s : State) : Out := opMfs (ctxB 0x16 o) s

/-- MTS (R162). -/
def execMts (o : W0) (s : State) : Out := opMts (ctxB 0x17 o) s

end Sys2Proof.Machine
end

