-- ==== Sys2Proof/Machine/Control.lean ====
section
/-! DEFINITION. Threadlets, slots, migration, barriers, deques, branches, quiescence and cancel (R137-R161). -/

namespace Sys2Proof.Machine

/-- Threadlets and templates of the running weave (R140). -/
def State.tlcnt (s : State) : Nat := (s.weaveOf s.cur).table.length
def State.tplcnt (s : State) : Nat := (s.weaveOf s.cur).templates.length

/-- Job id of the running frame, as JOBID reads; that of a handler with no threadlet under it is 0 (a choice: R143; assumption log,
entry 74). -/
def State.curJob (s : State) : Nat := if s.me.pl.live then (s.me.frame s.me.pl.fix).job else 0

/-- A message of the moving core to a core of its own region. -/
def State.sendMsg (s : State) (d : Nat) (ch : Chan) (b : Body) : State :=
  s.send { src := .core s.cur, dst := .core d, chan := ch, body := b, region := s.regionOf s.cur }

/-- NOP (R141). -/
def execNop (s : State) : Out := .next (s.advance 4)

/-- END (R142). -/
def opEnd (k : Ctx) (s : State) : Out :=
  run false k s fun s => .next (s.endThreadlet s.cur (k.m == 1))

/-- A core id operand names a core of the region (R143, R156). -/
def State.coreOk (s : State) (t : Nat) : Bool := decide (t < 4096) && s.inRegion s.cur t

/-- FORK (R143). ETVAL of cause 0x06 for a core id that is no core of the region is the whole of gA (a choice: R421; assumption log,
entry 72). -/
def opFork (k : Ctx) (s : State) : Out :=
  run false k s fun s =>
    let t := k.vA s
    let tpl := bits k.imm 7 0
    if !s.coreOk t then trapOut s 0x06 t
    else if s.tplcnt ≤ tpl then trapOut s 0x02 tpl
    else withRef k s fun r =>
      .next (((issued s r).sendMsg t .request (.fork r (bits k.imm 12 8) tpl s.curJob)).advance k.len)

/-- FREE (R144). -/
def opFree (k : Ctx) (s : State) : Out :=
  run false k s fun s =>
    let h := k.vA s % 2 ^ 32
    if !s.handleOk s.cur h then trapOut s 0x06 h
    else if s.me.pl.live && h == s.me.pl.handle then
      done k s fun c => c.modFrame c.pl.fix fun e => { e with freeP := true }
    else .next (((s.emit s.cur (handleCore h) 1).sendMsg (handleCore h) .signal (.free h)).advance k.len)

/-- The arrival that SIG and SIGV make at the slot they name. -/
def ownArrival (k : Ctx) (s : State) (r : Ref) (n : Nat) (deps : List (Nat × Nat)) : Arrival :=
  { handle := r.handle, slot := r.slot, n := n, deposits := deps, src := s.cur, chan := .signal
    absorb := k.x.sr.toNat, origin := s.cur, region := r.region }

/-- An arrival of the issuing threadlet itself at the named slot: applied at once to the issuing frame, or sent
(R145, R146); issue waits while neither can be. -/
def arrive (k : Ctx) (s : State) (r : Ref) (n : Nat) (deps : List (Nat × Nat)) : Out :=
  let a := ownArrival k s r n deps
  if k.x.sr = 1 then .next (((s.emit s.cur (handleCore r.handle) 1).sendArrival (.core s.cur) a).advance k.len)
  else match s.deliver s.cur
      { src := .core s.cur, dst := .core s.cur, chan := .signal, body := .arrival a, region := r.region, own := true } with
    | some t => .next (t.advance k.len)
    | none => .next s

/-- SIG (R145). -/
def opSig (k : Ctx) (s : State) : Out :=
  run false k s fun s => withRef k s fun r => arrive k s r (bits k.imm 15 0) []

/-- SIGV (R146). -/
def opSigv (k : Ctx) (s : State) : Out :=
  run false k s fun s => withRef k s fun r =>
    let at_ := 32 + 8 * bits k.imm 4 0
    let deps := ([(at_, k.vA s), (at_ + 8, k.vB s)]).take k.m
    arrive k s r 1 deps

/-- ARM (R147); one of the issuing frame's own slots keeps its place among the pipeline's updates (R293). -/
def opArm (k : Ctx) (s : State) : Out :=
  run false k s fun s =>
    let w := if k.m = 0 then k.imm else k.vA s
    if 2 ^ 31 ≤ w then trapOut s 0x02 w
    else if s.tlcnt ≤ slotTix w then trapOut s 0x02 w
    else withRef k s fun r =>
      let m : Msg := { src := .core s.cur, dst := .core (handleCore r.handle), chan := .signal
                       body := .arm r.handle r.slot w, region := r.region }
      if k.x.sr = 1 then .next (((s.emit s.cur (handleCore r.handle) 1).send m).advance k.len)
      else match s.deliver s.cur { m with own := true } with
        | some t => .next (t.advance k.len)
        | none => .next s

/-- SLOTRD (R148). A handler with no threadlet under it reads the frame index that ran last (a choice: assumption log, entry 74). -/
def opSlotrd (k : Ctx) (s : State) : Out :=
  run false k s fun s => setG k s (s.me.slotWord s.me.pl.fix k.x.sl.toNat)

/-- The target of a ROAM (R50). -/
def State.roamTarget (s : State) (va : Nat) : Nat :=
  let h := homeSlice (va % 2 ^ 48)
  let l := h % 64
  let t := (h / 64) * 1024 + (3 * l / 8) * 32 + 3 * (l % 8)
  if s.inRegion s.cur t then t else s.cur

/-- ROAM (R149). -/
def opRoam (k : Ctx) (s : State) : Out :=
  run false k s fun s =>
    let t := k.vB s
    if s.tlcnt ≤ t ∨ s.tplcnt = 0 then trapOut s 0x02 t
    else
      let d := s.roamTarget (k.vA s)
      let regs := (setBits 29 k.imm).map fun i => (i + 1, (s.me.readG (i + 1)).toNat)
      .next (((s.emit s.cur d 1).sendMsg d .request (.roam regs t s.curJob)).endThreadlet s.cur (k.m == 1))

/-- PRIO (R150). -/
def opPrio (k : Ctx) (s : State) : Out :=
  run false k s fun s => done k s fun c => { c with spr := { c.spr with prio := BitVec.ofNat 2 k.m } }

/-- Place of a barrier-table entry (R151). -/
def Ctx.barIx (k : Ctx) : Nat := 16 * (k.sc - 2) + bits k.imm 3 0

/-- BARCFG (R152). -/
def opBarcfg (k : Ctx) (s : State) : Out :=
  run false k s fun s =>
    let h := k.vA s % 2 ^ 32
    if !s.handleOk s.cur h || !sameInst k.sc s.cur (handleCore h) then trapOut s 0x06 h
    else
      let e : BarEnt := { handle := h, slot := bits k.imm 6 4, count := bits k.imm 31 16 }
      done k s (·.modNet fun n => { n with bars := Sparse.set none n.bars k.barIx (some e) })

/-- BAR (R153). -/
def opBar (k : Ctx) (s : State) : Out :=
  run false k s fun s =>
    match Sparse.get none s.me.net.bars k.barIx with
    | none => trapOut s 0x06 0
    | some b =>
      .next (((s.emit s.cur (handleCore b.handle) 1).sendArrival (.core s.cur)
        { handle := b.handle, slot := b.slot, n := 1, src := s.cur, chan := .signal, absorb := 1, origin := s.cur
          region := s.regionOf s.cur }).advance k.len)

/-! ### Deques (R154-R156, R406) -/

/-- N of R154. -/
def Core.dqCap (c : Core) : Nat :=
  let z := c.spr.dqlim.toNat - c.spr.dqbase.toNat
  if z < 80 then 0 else (z - 64) / 16
def Core.dqTop (c : Core) : Nat := c.scr.readN c.spr.dqbase.toNat 4
def Core.dqCnt (c : Core) : Nat := c.scr.readN (c.spr.dqbase.toNat + 8) 4
/-- Address of entry i. -/
def Core.dqEntry (c : Core) (i : Nat) : Nat := c.spr.dqbase.toNat + 64 + 16 * i

/-- The words of a deque that an operation reads have an uncorrectable error, the header's before the entry's (R355). -/
def Core.dqHeadBad (c : Core) : Bool := c.scr.isBad c.spr.dqbase.toNat 16
def Core.dqEntryBad (c : Core) (i : Nat) : Bool := c.scr.isBad (c.dqEntry i) 16

/-- DQPUSH (R155). -/
def opDqpush (k : Ctx) (s : State) : Out :=
  run false k s fun s =>
    let n := s.me.dqCap
    if n = 0 then setP k s false
    else
      let s := s.reach s.cur s.me.spr.dqbase.toNat 16
      let c := s.me
      let i := (c.dqTop + c.dqCnt) % n
      if c.dqHeadBad then trapOut s 0x10 c.spr.dqbase.toNat
      else if n ≤ c.dqCnt then setP k s false
      else
        let s := s.reach s.cur (c.dqEntry i) 16
        if s.me.dqEntryBad i then trapOut s 0x10 (c.dqEntry i)
        else
          let s' := s.scrWrite s.cur (c.dqEntry i) (natLE 8 (k.vA s) ++ natLE 8 (k.vB s))
          setP k (s'.scrWrite s.cur (c.spr.dqbase.toNat + 8) (natLE 4 (c.dqCnt + 1))) true

/-- DQPOP (R155). -/
def opDqpop (k : Ctx) (s : State) : Out :=
  run false k s fun s =>
    let n := s.me.dqCap
    let fail (s : State) : Out := done k s (·.writeP k.a false)
    if n = 0 then fail s
    else
      let s := s.reach s.cur s.me.spr.dqbase.toNat 16
      let c := s.me
      let i := (c.dqTop + (c.dqCnt - 1)) % n
      if c.dqHeadBad then trapOut s 0x10 c.spr.dqbase.toNat
      else if c.dqCnt = 0 then fail s
      else
        let s := s.reach s.cur (c.dqEntry i) 16
        if s.me.dqEntryBad i then trapOut s 0x10 (c.dqEntry i)
        else
          let s := s.scrWrite s.cur (c.spr.dqbase.toNat + 8) (natLE 4 (c.dqCnt - 1))
          done k s fun c' => ((c'.writeG k.d (BitVec.ofNat 64 (c'.scr.readN (c.dqEntry i) 8))).writeG (k.d + 1)
            (BitVec.ofNat 64 (c'.scr.readN (c.dqEntry i + 8) 8))).writeP k.a true

/-- DQSTEAL (R156). ETVAL of cause 0x06 as in FORK. -/
def opDqsteal (k : Ctx) (s : State) : Out :=
  run false k s fun s =>
    let t := k.vA s
    if !s.coreOk t then trapOut s 0x06 t
    else withRef k s fun r => .next (((issued s r).sendMsg t .request (.steal (bits k.imm 4 0) r)).advance k.len)

/-- WDQ (R157). -/
def opWdq (k : Ctx) (s : State) : Out :=
  run false k s fun s =>
    let d := k.vD s
    checkLocal s d 16 16 <| withRef k s fun r =>
      .next (((issued s r).send { src := .core s.cur, dst := .beacon (dieOf s.cur), chan := .request, region := s.regionOf s.cur
                                  body := .beacon { core := s.cur, merge := k.m == 1, query := k.vA s, dst := d
                                                    asid := s.me.net.asid, epc := s.me.pl.pc
                                                    handle := s.me.pl.handle, ref := r } }).advance k.len)

/-! ### Branches (R158, R159) -/

/-- A taken branch to t: checked under R158, registers changed by f. -/
def branchTo (s : State) (t : Int) (f : Core → Core) : Out :=
  match targetTrap (s.codeSize s.cur s.me.pl.sup) t with
  | some c => trapOut s c (ofSigned 64 t)
  | none => .next (s.modMe fun c => (f c).modPl fun p => { p with pc := t.toNat })

/-- The 18-bit offset of BR, in bytes. -/
def Ctx.off18 (k : Ctx) : Int := if k.isExt then toSigned 32 k.imm * 4 else toSigned 18 k.imm18 * 4
/-- The 13-bit offset of JAL and DBNZ, in bytes. -/
def Ctx.off13 (k : Ctx) : Int :=
  if k.isExt then toSigned 32 k.imm * 4 else toSigned 13 (k.m * 2 ^ 10 + k.b * 2 ^ 5 + k.a) * 4

/-- The link: the offset of the next instruction. -/
def link (k : Ctx) (s : State) (c : Core) : Core := c.writeG k.d (BitVec.ofNat 64 (s.me.pl.pc + k.len))

/-- BR. -/
def opBr (k : Ctx) (s : State) : Out := run false k s fun s => branchTo s (s.me.pl.pc + k.off18) id

/-- JAL. -/
def opJal (k : Ctx) (s : State) : Out := run false k s fun s => branchTo s (s.me.pl.pc + k.off13) (link k s)

/-- JALR: the target comes from gA before the link is written. ETVAL of cause 0x05 for a gA beyond 32 bits is gA (a choice: R159;
assumption log, entry 75). -/
def opJalr (k : Ctx) (s : State) : Out :=
  run false k s fun s =>
    let a := k.vA s
    if 2 ^ 32 ≤ a then trapOut s 0x05 a
    else branchTo s (a + toSigned 32 k.imm) (link k s)

/-- DBNZ; on g0 it always branches. -/
def opDbnz (k : Ctx) (s : State) : Out :=
  run false k s fun s =>
    let v := (k.vD s + 2 ^ 64 - 1) % 2 ^ 64
    let upd (c : Core) : Core := c.writeG k.d (BitVec.ofNat 64 v)
    if v = 0 then done k s upd else branchTo s (s.me.pl.pc + k.off13) upd

/-! ### Quiescence and cancel (R160, R161) -/

/-- TERMW goes to its die's detector, whose messages are not counted (R138, R414). A firmware core, which has no issuing region, names
region 0 (a choice: assumption log, entry 61). -/
def opTermw (k : Ctx) (s : State) : Out :=
  run false k s fun s => withRef k s fun r =>
    .next ((s.send { src := .core s.cur, dst := .dusk (dieOf s.cur), chan := .signal
                     body := .termw ((s.regionOf s.cur).getD 0) k.sc s.cur r }).advance k.len)

/-- A TERMW at the detector: outstanding, or refused with status 1 when 64 are (R160). -/
def State.termwAt (s : State) (die i scope inst : Nat) (r : Ref) : State :=
  let d := s.die die
  if 64 ≤ d.termw.length then s.sendArrival (.dusk die) { signalArrival r 1 0 0 with absorb := 0 }
  else s.setDie die { d with termw := d.termw ++ [{ region := i, scope := scope, inst := inst, ref := r }] }

/-- CANCEL goes to the front end (R138, R161). A firmware core, which has no issuing region, names region 96, which does not exist, and
its CANCEL completes with status 0 (a choice: assumption log, entry 61). -/
def opCancel (k : Ctx) (s : State) : Out :=
  run false k s fun s =>
    let j := k.vA s
    if j = 0 ∨ 65535 < j then trapOut s 0x02 j
    else withRef k s fun r =>
      .next (((issued s r).send { src := .core s.cur, dst := .frontEnd, chan := .signal
                                  body := .cancelJob ((s.regionOf s.cur).getD 96) j r }).advance k.len)

/-- A CANCEL of a threadlet at the front end: status 1 when the region's set is full; recorded for a region that is swapped
out (R82, R161). -/
def State.cancelAt (s : State) (i job : Nat) (r : Ref) : State :=
  let g := s.region i
  if g.state = 0 then s.signal .frontEnd r 0 0 0
  else if g.state = 2 ∧ (g.cjobs.contains job ∨ g.cjobs.length < 16) then
    (s.setRegion i { g with
      cjobs := if g.cjobs.contains job then g.cjobs else g.cjobs ++ [job]
      save := g.save.map fun v => { v with cancels := v.cancels ++ g.cores.map fun c => (c, job) } }).signal .frontEnd r 0 0 0
  else
    let (s', ok) := s.startCancel i job (some r) none
    if ok then s' else s.signal .frontEnd r 1 0 0

/-- A record that waited on its way reaches core c's fault queue, is spilled, or finds its weave gone (R56, R437); none when it waits on. -/
def State.recordAt (s : State) (c : Nat) (m : Msg) : Option State :=
  match m.body with
  | .record isTrap cause src auxid epc handle value aux =>
    match s.meet c m with
    | .here => some (s.post c isTrap cause src auxid epc handle value aux)
    | .away i => s.spillMsg i c m
    | .gone => some s
    | _ => none
  | _ => none

/-- A message that no row of the opcode table takes reaches its unit (R138): a TERMW, a CANCEL, a SYNCI, a record that waited. -/
def State.deliverOrder (s : State) (k : Nat) : State :=
  let t := s.dropMsg k
  match s.deliverable k with
  | some { dst := .dusk die, body := .termw i sc inst r, .. } => t.termwAt die i sc inst r
  | some { dst := .frontEnd, body := .cancelJob i job r, .. } => t.cancelAt i job r
  | some { dst := .core c, body := .synci id, .. } => t.synciAt c id
  | some m => match m.dst with
    | .core c => (t.recordAt c m).getD s
    | _ => s
  | _ => s

/-- Act.deliver: a message to a core does not pass what is held, or waits, there of its source and channel (R46, R442). -/
def State.deliverUnit (s : State) (k : Nat) : State :=
  match s.reachable k with
  | some m => match m.dst with
    | .core c =>
      if (s.deliverable k).isNone || ((s.core c).fe.held ++ (s.core c).fe.released ++ (s.core c).fe.pending).any m.sameLine then
        (if m.body matches .synci _ then s.landMsg k c else s)
      else s.deliverOrder k
    | _ => s.deliverOrder k
  | none => s

/-- END (R142). -/
def execEndInstr (o : W0) (s : State) : Out := opEnd (ctxB 0x01 o) s

/-- FORK (R143). -/
def execFork (o : Ext) (s : State) : Out := opFork (ctxX 0x02 o) s

/-- FREE (R144). -/
def execFree (o : W0) (s : State) : Out := opFree (ctxB 0x03 o) s

/-- SIG (R145). -/
def execSig (o : Ext) (s : State) : Out := opSig (ctxX 0x04 o) s

/-- SIGV (R146). -/
def execSigv (o : Ext) (s : State) : Out := opSigv (ctxX 0x05 o) s

/-- ARM (R147). -/
def execArm (o : Ext) (s : State) : Out := opArm (ctxX 0x06 o) s

/-- SLOTRD (R148). -/
def execSlotrd (o : Ext) (s : State) : Out := opSlotrd (ctxX 0x07 o) s

/-- ROAM (R149). -/
def execRoam (o : Ext) (s : State) : Out := opRoam (ctxX 0x08 o) s

/-- PRIO (R150). -/
def execPrio (o : W0) (s : State) : Out := opPrio (ctxB 0x09 o) s

/-- BAR (R153). -/
def execBar (o : Ext) (s : State) : Out := opBar (ctxX 0x0A o) s

/-- BARCFG (R152). -/
def execBarcfg (o : Ext) (s : State) : Out := opBarcfg (ctxX 0x0B o) s

/-- DQPUSH (R155). -/
def execDqpush (o : W0) (s : State) : Out := opDqpush (ctxB 0x0C o) s

/-- DQPOP (R155). -/
def execDqpop (o : W0) (s : State) : Out := opDqpop (ctxB 0x0D o) s

/-- DQSTEAL (R156). -/
def execDqsteal (o : Ext) (s : State) : Out := opDqsteal (ctxX 0x0E o) s

/-- WDQ (R157). -/
def execWdq (o : Ext) (s : State) : Out := opWdq (ctxX 0x0F o) s

/-- BR (R159). -/
def execBr (o : W0) (s : State) : Out := opBr (ctxB 0x10 o) s
/-- BR_EXT (R159). -/
def execBrExt (o : Ext) (s : State) : Out := opBr (ctxX 0x10 o) s

/-- JAL (R159). -/
def execJal (o : W0) (s : State) : Out := opJal (ctxB 0x11 o) s
/-- JAL_EXT (R159). -/
def execJalExt (o : Ext) (s : State) : Out := opJal (ctxX 0x11 o) s

/-- JALR (R159). -/
def execJalr (o : W0) (s : State) : Out := opJalr (ctxB 0x12 o) s
/-- JALR_EXT (R159). -/
def execJalrExt (o : Ext) (s : State) : Out := opJalr (ctxX 0x12 o) s

/-- DBNZ (R159). -/
def execDbnz (o : W0) (s : State) : Out := opDbnz (ctxB 0x13 o) s
/-- DBNZ_EXT (R159). -/
def execDbnzExt (o : Ext) (s : State) : Out := opDbnz (ctxX 0x13 o) s

/-- TERMW (R160). -/
def execTermw (o : Ext) (s : State) : Out := opTermw (ctxX 0x14 o) s

/-- CANCEL_INSTRUCTION (R161). -/
def execCancelInstruction (o : Ext) (s : State) : Out := opCancel (ctxX 0x15 o) s

end Sys2Proof.Machine
end

