-- ==== Sys2Proof/Machine/Integer.lean ====
section
/-! DEFINITION. The integer, bit, predicate and address instructions (R167-R184). -/

namespace Sys2Proof.Machine

/-- The width in bits of W in M[1:0] (R110, R168). -/
def Ctx.width (k : Ctx) : Nat := 8 * 2 ^ (k.m % 4)

/-- The low w bits of x, read as signed or as natural (R168). -/
def readI (signed : Bool) (w x : Nat) : Int := if signed then toSigned w x else ((x % 2 ^ w : Nat) : Int)

/-- A result on w bits as gD receives it (R168). -/
def extendI (signed : Bool) (w : Nat) (r : Int) : Nat := if signed then signExtend w (ofSigned w r) else ofSigned w r

/-- An instruction of one or two operands: they are read, and the result extended, as signed or as natural. -/
def opInt (signed : Bool) (f : Nat → Int → Int → Int) (k : Ctx) (s : State) : Out :=
  run false k s fun s =>
    let w := k.width
    setG k s (extendI signed w (f w (readI signed w (k.vA s)) (readI signed w (k.vB s))))

/-- ADD, SUB, MUL with `.sat` in XOP[0] (R170). -/
def opArith (f : Int → Int → Int) (k : Ctx) (s : State) : Out :=
  let signed := decide (k.m < 4)
  opInt signed (fun w a b =>
    let x := f a b
    if k.xop % 2 = 1 then (if signed then satS x w else clampInt x 0 ((2 ^ w : Nat) - 1)) else x) k s

/-- The upper half of the product (R171). -/
def mulUpper (w : Nat) (a b : Int) : Int := a * b / (2 ^ w : Nat)
/-- The quotient of R172; all ones for a zero divisor. The overflowing quotient wraps to the dividend. -/
def divQuot (_ : Nat) (a b : Int) : Int := if b = 0 then -1 else a.tdiv b
/-- The remainder of R172. -/
def divRem (_ : Nat) (a b : Int) : Int := if b = 0 then a else a.tmod b

/-- Instructions on bit patterns, extended by M[2] (R174, R175). -/
def opBits (f : Nat → Nat → Nat → Nat) (k : Ctx) (s : State) : Out :=
  run false k s fun s =>
    let w := k.width
    setG k s (extendI (decide (k.m < 4)) w (f w (k.vA s % 2 ^ w) (k.vB s % 2 ^ w) : Nat))

/-- The complement on w bits. -/
def notW (w b : Nat) : Nat := b ^^^ (2 ^ w - 1)
/-- SHL (R175). -/
def shlW (w a b : Nat) : Nat := a * 2 ^ (b % w)
/-- ROT (R175). -/
def rotW (w a b : Nat) : Nat := a * 2 ^ (b % w) % 2 ^ w ||| a / 2 ^ (w - b % w)
/-- SHR and SHA (R175): the count is the low log2(w) bits of b; rounding is toward minus infinity. -/
def shrW (w : Nat) (a b : Int) : Int := a / (2 ^ (b % (w : Int)).toNat : Nat)

def minW (_ : Nat) (a b : Int) : Int := if b < a then b else a
def maxW (_ : Nat) (a b : Int) : Int := if a < b then b else a

/-- The conditions of CMP (R114, R177). -/
def cmpCond (cond w a b : Nat) : Bool :=
  let x := a % 2 ^ w
  let y := b % 2 ^ w
  match cond with
  | 0 => x == y
  | 1 => x != y
  | 2 => decide (toSigned w x < toSigned w y)
  | 3 => decide (toSigned w x ≤ toSigned w y)
  | 4 => decide (x < y)
  | 5 => decide (x ≤ y)
  | _ => (x &&& y) != 0

/-- CMP: 64 bits in the base form and with L = 0b10, else W = XOP[1:0] (R177). -/
def opCmp (k : Ctx) (s : State) : Out :=
  run false k s fun s =>
    let w := if k.l = 1 ∨ k.l = 3 then 8 * 2 ^ (k.xop % 4) else 64
    setP k s (cmpCond k.m w (k.vA s) (k.vB s))

/-- SEL (R178). -/
def opSel (k : Ctx) (s : State) : Out :=
  run false k s fun s => setG k s (if s.me.readP k.m then k.vA s else k.vB s)

/-- MOV (R178). -/
def opMov (k : Ctx) (s : State) : Out := run false k s fun s => setG k s (k.vB s)

/-- f on each element of w bits of a 64-bit word (R179). -/
def packed (w : Nat) (f : Nat → Nat) (x : Nat) : Nat :=
  (List.range (64 / w)).foldl (fun r i => r + f (bits x (w * i + w - 1) (w * i)) % 2 ^ w * 2 ^ (w * i)) 0

/-- The packed bit instructions (R179). -/
def opPacked (f : Nat → Nat → Nat) (k : Ctx) (s : State) : Out :=
  run false k s fun s => setG k s (packed k.width (f k.width) (k.vA s))

def clzW (w x : Nat) : Nat := if x = 0 then w else w - 1 - Nat.log2 x
def ctzW (w x : Nat) : Nat := ((List.range w).find? fun i => x.testBit i).getD w
def ffsW (w x : Nat) : Nat := if x = 0 then 0 else ctzW w x + 1
def brevW (w x : Nat) : Nat := (List.range w).foldl (fun r i => r + b2n (x.testBit i) * 2 ^ (w - 1 - i)) 0

/-- lsb and len of R180. -/
def Ctx.lsb (k : Ctx) : Nat := bits k.imm 5 0
def Ctx.flen (k : Ctx) : Nat := bits k.imm 14 8

/-- BFX (R180). -/
def opBfx (k : Ctx) (s : State) : Out :=
  run false k s fun s =>
    let f := bits (k.vA s) (k.lsb + k.flen - 1) k.lsb
    setG k s (if 4 ≤ k.m then signExtend k.flen f else f)

/-- BFI (R180). -/
def opBfi (k : Ctx) (s : State) : Out :=
  run false k s fun s => setG k s (putBits (k.vD s) (k.lsb + k.flen - 1) k.lsb (k.vA s))

/-- SEXT (R181). -/
def opSext (k : Ctx) (s : State) : Out := run false k s fun s => setG k s (signExtend k.width (k.vA s))
/-- ZEXT (R181). -/
def opZext (k : Ctx) (s : State) : Out := run false k s fun s => setG k s (k.vA s % 2 ^ k.width)

/-- LEA (R182). -/
def opLea (k : Ctx) (s : State) : Out :=
  run false k s fun s => setG k s ((k.vA s + k.vB s * 2 ^ k.m + signExtend 32 k.imm) % 2 ^ 64)

/-- MADD (R173). -/
def opMadd (k : Ctx) (s : State) : Out :=
  run false k s fun s =>
    let w := k.width
    setG k s (extendI (decide (k.m < 4)) w ((k.vA s * k.vB s + k.vC s : Nat) : Int))

/-- The predicate instructions (R183). -/
def opPred (f : Bool → Bool → Bool) (k : Ctx) (s : State) : Out :=
  run false k s fun s => setP k s (f (s.me.readP k.a) (s.me.readP k.b))

/-- SLICE (R184). -/
def opSlice (k : Ctx) (s : State) : Out := run false k s fun s => setG k s (homeSlice (k.vA s % 2 ^ 48))

/-- ADD (R170). -/
def execAdd (o : W0) (s : State) : Out := opArith (· + ·) (ctxB 0x20 o) s
/-- ADD_EXT (R170). -/
def execAddExt (o : Ext) (s : State) : Out := opArith (· + ·) (ctxX 0x20 o) s

/-- SUB (R170). -/
def execSub (o : W0) (s : State) : Out := opArith (· - ·) (ctxB 0x21 o) s
/-- SUB_EXT (R170). -/
def execSubExt (o : Ext) (s : State) : Out := opArith (· - ·) (ctxX 0x21 o) s

/-- MUL (R170). -/
def execMul (o : W0) (s : State) : Out := opArith (· * ·) (ctxB 0x22 o) s
/-- MUL_EXT (R170). -/
def execMulExt (o : Ext) (s : State) : Out := opArith (· * ·) (ctxX 0x22 o) s

/-- MULH (R171). -/
def execMulh (o : W0) (s : State) : Out := opInt true mulUpper (ctxB 0x23 o) s
/-- MULH_EXT (R171). -/
def execMulhExt (o : Ext) (s : State) : Out := opInt true mulUpper (ctxX 0x23 o) s

/-- MULHN (R171). -/
def execMulhn (o : W0) (s : State) : Out := opInt false mulUpper (ctxB 0x24 o) s
/-- MULHN_EXT (R171). -/
def execMulhnExt (o : Ext) (s : State) : Out := opInt false mulUpper (ctxX 0x24 o) s

/-- DIV (R172). -/
def execDiv (o : W0) (s : State) : Out := opInt true divQuot (ctxB 0x25 o) s
/-- DIV_EXT (R172). -/
def execDivExt (o : Ext) (s : State) : Out := opInt true divQuot (ctxX 0x25 o) s

/-- DIVN (R172). -/
def execDivn (o : W0) (s : State) : Out := opInt false divQuot (ctxB 0x26 o) s
/-- DIVN_EXT (R172). -/
def execDivnExt (o : Ext) (s : State) : Out := opInt false divQuot (ctxX 0x26 o) s

/-- REM (R172). -/
def execRem (o : W0) (s : State) : Out := opInt true divRem (ctxB 0x27 o) s
/-- REM_EXT (R172). -/
def execRemExt (o : Ext) (s : State) : Out := opInt true divRem (ctxX 0x27 o) s

/-- REMN (R172). -/
def execRemn (o : W0) (s : State) : Out := opInt false divRem (ctxB 0x28 o) s
/-- REMN_EXT (R172). -/
def execRemnExt (o : Ext) (s : State) : Out := opInt false divRem (ctxX 0x28 o) s

/-- AND (R174). -/
def execAnd (o : W0) (s : State) : Out := opBits (fun _ a b => a &&& b) (ctxB 0x29 o) s
/-- AND_EXT (R174). -/
def execAndExt (o : Ext) (s : State) : Out := opBits (fun _ a b => a &&& b) (ctxX 0x29 o) s

/-- OR (R174). -/
def execOr (o : W0) (s : State) : Out := opBits (fun _ a b => a ||| b) (ctxB 0x2A o) s
/-- OR_EXT (R174). -/
def execOrExt (o : Ext) (s : State) : Out := opBits (fun _ a b => a ||| b) (ctxX 0x2A o) s

/-- XOR (R174). -/
def execXor (o : W0) (s : State) : Out := opBits (fun _ a b => a ^^^ b) (ctxB 0x2B o) s
/-- XOR_EXT (R174). -/
def execXorExt (o : Ext) (s : State) : Out := opBits (fun _ a b => a ^^^ b) (ctxX 0x2B o) s

/-- ANDN (R174). -/
def execAndn (o : W0) (s : State) : Out := opBits (fun w a b => a &&& notW w b) (ctxB 0x2C o) s
/-- ANDN_EXT (R174). -/
def execAndnExt (o : Ext) (s : State) : Out := opBits (fun w a b => a &&& notW w b) (ctxX 0x2C o) s

/-- ORN (R174). -/
def execOrn (o : W0) (s : State) : Out := opBits (fun w a b => a ||| notW w b) (ctxB 0x2D o) s
/-- ORN_EXT (R174). -/
def execOrnExt (o : Ext) (s : State) : Out := opBits (fun w a b => a ||| notW w b) (ctxX 0x2D o) s

/-- SHL (R175). -/
def execShl (o : W0) (s : State) : Out := opBits shlW (ctxB 0x2E o) s
/-- SHL_EXT (R175). -/
def execShlExt (o : Ext) (s : State) : Out := opBits shlW (ctxX 0x2E o) s

/-- SHR (R175). -/
def execShr (o : W0) (s : State) : Out := opInt false shrW (ctxB 0x2F o) s
/-- SHR_EXT (R175). -/
def execShrExt (o : Ext) (s : State) : Out := opInt false shrW (ctxX 0x2F o) s

/-- SHA (R175). -/
def execSha (o : W0) (s : State) : Out := opInt true shrW (ctxB 0x30 o) s
/-- SHA_EXT (R175). -/
def execShaExt (o : Ext) (s : State) : Out := opInt true shrW (ctxX 0x30 o) s

/-- ROT (R175). -/
def execRot (o : W0) (s : State) : Out := opBits rotW (ctxB 0x31 o) s
/-- ROT_EXT (R175). -/
def execRotExt (o : Ext) (s : State) : Out := opBits rotW (ctxX 0x31 o) s

/-- MIN (R176). -/
def execMin (o : W0) (s : State) : Out := opInt true minW (ctxB 0x32 o) s
/-- MIN_EXT (R176). -/
def execMinExt (o : Ext) (s : State) : Out := opInt true minW (ctxX 0x32 o) s

/-- MAX (R176). -/
def execMax (o : W0) (s : State) : Out := opInt true maxW (ctxB 0x33 o) s
/-- MAX_EXT (R176). -/
def execMaxExt (o : Ext) (s : State) : Out := opInt true maxW (ctxX 0x33 o) s

/-- MINN (R176). -/
def execMinn (o : W0) (s : State) : Out := opInt false minW (ctxB 0x34 o) s
/-- MINN_EXT (R176). -/
def execMinnExt (o : Ext) (s : State) : Out := opInt false minW (ctxX 0x34 o) s

/-- MAXN (R176). -/
def execMaxn (o : W0) (s : State) : Out := opInt false maxW (ctxB 0x35 o) s
/-- MAXN_EXT (R176). -/
def execMaxnExt (o : Ext) (s : State) : Out := opInt false maxW (ctxX 0x35 o) s

/-- ABS (R176). -/
def execAbs (o : W0) (s : State) : Out := opInt true (fun _ a _ => a.natAbs) (ctxB 0x36 o) s
/-- ABS_EXT (R176). -/
def execAbsExt (o : Ext) (s : State) : Out := opInt true (fun _ a _ => a.natAbs) (ctxX 0x36 o) s

/-- NEG (R176). -/
def execNeg (o : W0) (s : State) : Out := opInt true (fun _ a _ => -a) (ctxB 0x37 o) s
/-- NEG_EXT (R176). -/
def execNegExt (o : Ext) (s : State) : Out := opInt true (fun _ a _ => -a) (ctxX 0x37 o) s

/-- CMP (R177). -/
def execCmp (o : W0) (s : State) : Out := opCmp (ctxB 0x38 o) s
/-- CMP_EXT (R177). -/
def execCmpExt (o : Ext) (s : State) : Out := opCmp (ctxX 0x38 o) s

/-- SEL (R178). -/
def execSel (o : W0) (s : State) : Out := opSel (ctxB 0x39 o) s
/-- SEL_EXT (R178). -/
def execSelExt (o : Ext) (s : State) : Out := opSel (ctxX 0x39 o) s

/-- MOV (R178). -/
def execMov (o : W0) (s : State) : Out := opMov (ctxB 0x3A o) s
/-- MOV_EXT (R178). -/
def execMovExt (o : Ext) (s : State) : Out := opMov (ctxX 0x3A o) s

/-- CLZ (R179). -/
def execClz (o : W0) (s : State) : Out := opPacked clzW (ctxB 0x3B o) s
/-- CLZ_EXT (R179). -/
def execClzExt (o : Ext) (s : State) : Out := opPacked clzW (ctxX 0x3B o) s

/-- CTZ (R179). -/
def execCtz (o : W0) (s : State) : Out := opPacked ctzW (ctxB 0x3C o) s
/-- CTZ_EXT (R179). -/
def execCtzExt (o : Ext) (s : State) : Out := opPacked ctzW (ctxX 0x3C o) s

/-- FFS (R179). -/
def execFfs (o : W0) (s : State) : Out := opPacked ffsW (ctxB 0x3D o) s
/-- FFS_EXT (R179). -/
def execFfsExt (o : Ext) (s : State) : Out := opPacked ffsW (ctxX 0x3D o) s

/-- POPC (R179). -/
def execPopc (o : W0) (s : State) : Out := opPacked popcount (ctxB 0x3E o) s
/-- POPC_EXT (R179). -/
def execPopcExt (o : Ext) (s : State) : Out := opPacked popcount (ctxX 0x3E o) s

/-- BREV (R179). -/
def execBrev (o : W0) (s : State) : Out := opPacked brevW (ctxB 0x3F o) s
/-- BREV_EXT (R179). -/
def execBrevExt (o : Ext) (s : State) : Out := opPacked brevW (ctxX 0x3F o) s

/-- BFX (R180). -/
def execBfx (o : Ext) (s : State) : Out := opBfx (ctxX 0x40 o) s

/-- BFI (R180). -/
def execBfi (o : Ext) (s : State) : Out := opBfi (ctxX 0x41 o) s

/-- SEXT (R181). -/
def execSext (o : W0) (s : State) : Out := opSext (ctxB 0x42 o) s
/-- SEXT_EXT (R181). -/
def execSextExt (o : Ext) (s : State) : Out := opSext (ctxX 0x42 o) s

/-- ZEXT (R181). -/
def execZext (o : W0) (s : State) : Out := opZext (ctxB 0x43 o) s
/-- ZEXT_EXT (R181). -/
def execZextExt (o : Ext) (s : State) : Out := opZext (ctxX 0x43 o) s

/-- LEA (R182). -/
def execLea (o : W0) (s : State) : Out := opLea (ctxB 0x44 o) s
/-- LEA_EXT (R182). -/
def execLeaExt (o : Ext) (s : State) : Out := opLea (ctxX 0x44 o) s

/-- MADD (R173). -/
def execMadd (o : Ext) (s : State) : Out := opMadd (ctxX 0x45 o) s

/-- PAND (R183). -/
def execPand (o : W0) (s : State) : Out := opPred (· && ·) (ctxB 0x46 o) s

/-- POR (R183). -/
def execPor (o : W0) (s : State) : Out := opPred (· || ·) (ctxB 0x47 o) s

/-- PXOR (R183). -/
def execPxor (o : W0) (s : State) : Out := opPred (· ^^ ·) (ctxB 0x48 o) s

/-- PNOT (R183). -/
def execPnot (o : W0) (s : State) : Out := opPred (fun a _ => !a) (ctxB 0x49 o) s

/-- PMOV (R183). -/
def execPmov (o : W0) (s : State) : Out := opPred (fun a _ => a) (ctxB 0x4A o) s

/-- SLICE (R184). -/
def execSlice (o : W0) (s : State) : Out := opSlice (ctxB 0x4B o) s

end Sys2Proof.Machine
end

