-- ==== Sys2Proof/Machine/ScalarFloat.lean ====
section
/-! DEFINITION. The scalar floating-point instructions (R185-R192). -/

namespace Sys2Proof.Machine

/-- The format of a scalar kind K 0-3 (R113, R185). -/
def fmtK (k : Nat) : Fmt :=
  match k with
  | 1 => fmtOf 11
  | 2 => fmtOf 2
  | 3 => fmtOf 3
  | _ => fmtOf 1

/-- The value of a source register's bits in a kind (R185). -/
def valK (k x : Nat) : FV := unpack (fmtK k) (x % 2 ^ (fmtK k).width)

/-- RM of XOP; RNE in the forms without word 1 (R113). -/
def Ctx.rm (k : Ctx) : Nat := k.xop % 8

/-- a − b rounded. -/
def fSub (f : Fmt) (mode rnd : Nat) (a b : FV) : Nat × Nat := fAdd f mode rnd a b.neg

/-- gD := the result's bits, its flags raised (R187). -/
def setF (k : Ctx) (s : State) (r : Nat × Nat) : Out := raise k s r.2 (·.writeG k.d (BitVec.ofNat 64 r.1))

/-- FADD, FSUB, FMUL and FDIV (R188). -/
def opF2 (f : Fmt → Nat → Nat → FV → FV → Nat × Nat) (k : Ctx) (s : State) : Out :=
  run false k s fun s => setF k s (f (fmtK k.m) k.rm 0 (valK k.m (k.vA s)) (valK k.m (k.vB s)))

/-- FFMA (R188). -/
def opFfma (k : Ctx) (s : State) : Out :=
  run false k s fun s =>
    setF k s (fFma (fmtK k.m) k.rm 0 (valK k.m (k.vA s)) (valK k.m (k.vB s)) (valK k.m (k.vC s)))

/-- FSQRT (R188). -/
def opFsqrt (k : Ctx) (s : State) : Out :=
  run false k s fun s => setF k s (fSqrt (fmtK k.m) k.rm 0 (valK k.m (k.vA s)))

/-- The lesser or greater of two codes of a format, −0 below +0, a lone NaN giving way (R189, R240). -/
def fMinMax (f : Fmt) (isMax : Bool) (x y : Nat) : Nat × Nat :=
  let a := unpack f x
  let b := unpack f y
  let inv := if a.isSnan || b.isSnan then fINV else 0
  let r :=
    if a.isNan && b.isNan then f.nan
    else if a.isNan then y
    else if b.isNan then x
    else
      let less := a.lt b || (a.eq b && a.sign && !b.sign)
      if less != isMax then x else y
  (r, inv)

/-- FMIN and FMAX. -/
def opFMinMax (isMax : Bool) (k : Ctx) (s : State) : Out :=
  run false k s fun s =>
    let f := fmtK k.m
    setF k s (fMinMax f isMax (k.vA s % 2 ^ f.width) (k.vB s % 2 ^ f.width))

/-- The floating-point conditions with the flags they raise (R114, R190, R242). -/
def fCond (cond : Nat) (a b : FV) : Bool × Nat :=
  let un := a.isNan || b.isNan
  let sig := if a.isSnan || b.isSnan then fINV else 0
  match cond with
  | 0 => (a.eq b, sig)
  | 1 => (!un && a.lt b, if un then fINV else 0)
  | 2 => (!un && !b.lt a, if un then fINV else 0)
  | 3 => (un, sig)
  | _ => (un || !a.eq b, sig)

/-- FCMP (R190). -/
def opFcmp (k : Ctx) (s : State) : Out :=
  run false k s fun s =>
    let r := fCond k.xop (valK k.m (k.vA s)) (valK k.m (k.vB s))
    raise k s r.2 (·.writeP k.d r.1)

/-- A value rounded to an integer in [lo, hi]; outside it the nearer end with INV; 0 with INV for a NaN (R191, R244). -/
def toInt (mode rnd : Nat) (lo hi : Int) : FV → Int × Nat
  | .nan _ => (0, fINV)
  | .inf n => (if n then lo else hi, fINV)
  | .fin n m e =>
    let (q, rem, sh) := splitAt m e 0
    let r : Int := roundInt mode n rnd q rem sh
    let v := if n then -r else r
    if v < lo then (lo, fINV)
    else if hi < v then (hi, fINV)
    else (v, if rem = 0 then 0 else fINX)

/-- The exact value of an integer. -/
def intV (v : Int) : FV := .fin (decide (v < 0)) v.natAbs 0

/-- The operand of an integer kind K 4-7 (R185). -/
def intK (k x : Nat) : Int :=
  match k with
  | 4 => toSigned 32 x
  | 5 => toSigned 64 x
  | 6 => ((x % 2 ^ 32 : Nat) : Int)
  | _ => ((x % 2 ^ 64 : Nat) : Int)

/-- The range of an integer kind. -/
def rangeK (k : Nat) : Int × Int :=
  match k with
  | 4 => (-(2 ^ 31), 2 ^ 31 - 1)
  | 5 => (-(2 ^ 63), 2 ^ 63 - 1)
  | 6 => (0, 2 ^ 32 - 1)
  | _ => (0, 2 ^ 64 - 1)

/-- FCVT (R191). A copy to the same kind keeps a quiet NaN as it is; a signalling one becomes canonical. -/
def opFcvt (k : Ctx) (s : State) : Out :=
  run false k s fun s =>
    let x := k.vA s
    if k.m = k.c then
      let q := x % 2 ^ (fmtK k.m).width
      match unpack (fmtK k.m) q with
      | .nan false => setG k s q
      | v => setF k s (roundV (fmtK k.m) k.rm 0 v)
    else if k.m < 4 then
      let v := if k.c < 4 then valK k.c x else intV (intK k.c x)
      setF k s (roundV (fmtK k.m) k.rm 0 v)
    else
      let (v, fl) := toInt k.rm 0 (rangeK k.m).1 (rangeK k.m).2 (valK k.c x)
      setF k s (ofSigned 64 v, fl)

/-- FABS and FNEG (R192). -/
def opFSign (flip : Bool) (k : Ctx) (s : State) : Out :=
  run false k s fun s =>
    let w := (fmtK k.m).width
    let x := k.vA s % 2 ^ w
    setG k s (if flip then x ^^^ 2 ^ (w - 1) else x % 2 ^ (w - 1))

/-- The class bit of R192. -/
def classBit (f : Fmt) (x : Nat) : Nat :=
  match unpack f x with
  | .nan sig => if sig then 8 else 9
  | .inf n => if n then 0 else 7
  | .fin n m _ =>
    if m = 0 then (if n then 3 else 4)
    else if m < 2 ^ f.mb then (if n then 2 else 5)
    else if n then 1 else 6

/-- FCLASS (R192). -/
def opFclass (k : Ctx) (s : State) : Out :=
  run false k s fun s => setG k s (2 ^ classBit (fmtK k.m) (k.vA s % 2 ^ (fmtK k.m).width))

/-- FADD (R188). -/
def execFadd (o : W0) (s : State) : Out := opF2 fAdd (ctxB 0x60 o) s
/-- FADD_EXT (R188). -/
def execFaddExt (o : Ext) (s : State) : Out := opF2 fAdd (ctxX 0x60 o) s

/-- FSUB (R188). -/
def execFsub (o : W0) (s : State) : Out := opF2 fSub (ctxB 0x61 o) s
/-- FSUB_EXT (R188). -/
def execFsubExt (o : Ext) (s : State) : Out := opF2 fSub (ctxX 0x61 o) s

/-- FMUL (R188). -/
def execFmul (o : W0) (s : State) : Out := opF2 fMul (ctxB 0x62 o) s
/-- FMUL_EXT (R188). -/
def execFmulExt (o : Ext) (s : State) : Out := opF2 fMul (ctxX 0x62 o) s

/-- FFMA (R188). -/
def execFfma (o : Ext) (s : State) : Out := opFfma (ctxX 0x63 o) s

/-- FDIV (R188). -/
def execFdiv (o : W0) (s : State) : Out := opF2 fDiv (ctxB 0x64 o) s
/-- FDIV_EXT (R188). -/
def execFdivExt (o : Ext) (s : State) : Out := opF2 fDiv (ctxX 0x64 o) s

/-- FSQRT (R188). -/
def execFsqrt (o : W0) (s : State) : Out := opFsqrt (ctxB 0x65 o) s
/-- FSQRT_EXT (R188). -/
def execFsqrtExt (o : Ext) (s : State) : Out := opFsqrt (ctxX 0x65 o) s

/-- FMIN (R189). -/
def execFmin (o : W0) (s : State) : Out := opFMinMax false (ctxB 0x66 o) s
/-- FMIN_EXT (R189). -/
def execFminExt (o : Ext) (s : State) : Out := opFMinMax false (ctxX 0x66 o) s

/-- FMAX (R189). -/
def execFmax (o : W0) (s : State) : Out := opFMinMax true (ctxB 0x67 o) s
/-- FMAX_EXT (R189). -/
def execFmaxExt (o : Ext) (s : State) : Out := opFMinMax true (ctxX 0x67 o) s

/-- FCMP (R190). -/
def execFcmp (o : Ext) (s : State) : Out := opFcmp (ctxX 0x68 o) s

/-- FCVT (R191). -/
def execFcvt (o : Ext) (s : State) : Out := opFcvt (ctxX 0x69 o) s

/-- FABS (R192). -/
def execFabs (o : W0) (s : State) : Out := opFSign false (ctxB 0x6A o) s

/-- FNEG (R192). -/
def execFneg (o : W0) (s : State) : Out := opFSign true (ctxB 0x6B o) s

/-- FCLASS (R192). -/
def execFclass (o : W0) (s : State) : Out := opFclass (ctxB 0x6C o) s

end Sys2Proof.Machine
end

