-- ==== Sys2Proof/Machine/Sched.lean ====
section
/-! DEFINITION. The frame engine's and the network interface's events: what becomes of a message at its destination's
region (R55, R56), arrivals, spawns, spills and fills, the issue of a firing and promotion (11). -/

namespace Sys2Proof.Machine

/-! ### A message at its core (R55-R57, R437) -/

/-- The message waits in the ingress buffer of its cluster, 512 places; none when it is full (R55). -/
def State.hold (s : State) (c : Nat) (m : Msg) : Option State :=
  let k := s.cluster (clusterOf c)
  if k.ingress.length < 512 then some (s.setCluster (clusterOf c) { k with ingress := k.ingress ++ [m] }) else none

/-- Message k reaches its core, which WAITI does not stop any longer: `act` where its weave is, `lost` where that is no more; what
cannot be taken now waits in the core's ingress, or, as a completion of an engine, in its engine (R442). -/
def onCore (s : State) (k : Nat) (sel : Body → Bool) (act : State → Nat → Msg → Option State)
    (lost : State → Nat → Msg → State) : Out :=
  match s.reachable k with
  | none => .next s
  | some m =>
    match m.core with
    | none => .next s
    | some c =>
      if !sel m.body then .next s
      else
        let t := s.dropMsg k
        let wait := if m.src matches .engine _ then s else s.landMsg k c
        .next <| match s.meet c m, s.deliverable k with
          | .here, some _ => (act (t.wake c) c m).getD wait
          | .here, none | .wait, _ => wait
          | .closed, some _ => (t.hold c m).getD s
          | .away i, some _ => (t.spillMsg i c m).getD s
          | .gone, some _ => lost (t.wake c) c m
          | _, none => s

/-- A message of a frame that is no more: an orphan (R53, R57). What travels with a result is written all the same, where no other weave
has the core (R401; the exception is a choice: assumption log, entry 77). -/
def State.lose (s : State) (c : Nat) (m : Msg) : State :=
  let s := if s.regionOf c = none ∧ m.src matches .router _ then (s.landScratch m).1 else s
  let src := match m.src with | .core x => x | _ => 0xFFF
  match m.body with
  | .arrival a => s.dropArrival c a
  | .arm h slot _ => (s.absorb src c 1).modCore c (·.orphan src m.chan slot 1 h)
  | .free h => (s.absorb src c 1).modCore c (·.orphan src m.chan 0 1 h)
  | .roam .. => (s.absorb src c 1).modCore c (·.orphan src m.chan 0 1 0)
  | _ => s.modCore c (·.orphan src m.chan 0 1 0)

def Body.isArm : Body → Bool
  | .arm .. => true
  | _ => false
def Body.isFree : Body → Bool
  | .free _ => true
  | _ => false
def Body.isSpawn : Body → Bool
  | .fork .. => true
  | .glint .. => true
  | .restart .. => true
  | _ => false
def Body.isRoam : Body → Bool
  | .roam .. => true
  | _ => false
def Body.isSteal : Body → Bool
  | .steal .. => true
  | _ => false
def Body.isCancel : Body → Bool
  | .cancel .. => true
  | _ => false

/-- ARRIVAL (R294). -/
def execArrival (k : Nat) (s : State) : Out := onCore s k Body.isArrival State.deliver State.lose
/-- ARM_MESSAGE (R147). -/
def execArmMessage (k : Nat) (s : State) : Out := onCore s k Body.isArm State.deliver State.lose
/-- FREE_MESSAGE (R144). -/
def execFreeMessage (k : Nat) (s : State) : Out := onCore s k Body.isFree State.deliver State.lose

/-- FORK_REQUEST (R41, R43, R143). -/
def execForkRequest (k : Nat) (s : State) : Out := onCore s k Body.isSpawn State.spawnOrWait State.lose
/-- ROAM_ARRIVAL (R50). -/
def execRoamArrival (k : Nat) (s : State) : Out := onCore s k Body.isRoam State.spawnOrWait State.lose

/-- A steal at the victim (R156, R406). -/
def State.serveSteal (s : State) (c : Nat) (m : Msg) : Option State :=
  match m.body with
  | .steal word r =>
    let answer (s : State) (w0 w1 n : Nat) : State :=
      s.sendArrival (r.completer c) { signalArrival r 0 0 n with deposits := [(32 + 8 * word, w0), (40 + 8 * word, w1)] }
    let n := (s.core c).dqCap
    if n = 0 then some (answer s 0 0 0)
    else
      let s := s.reach c (s.core c).spr.dqbase.toNat 16
      let k := s.core c
      let bad (s : State) (a : Nat) : State :=
        (s.signal (r.completer c) r 3 0x10 0).post r.origin false 0x10 1 0 0xFFFFFFFF r.handle a (statusWord 3 0x10 0)
      if k.dqHeadBad then some (bad s k.spr.dqbase.toNat)
      else if k.dqCnt = 0 then some (answer s 0 0 0)
      else
        let at_ := k.dqEntry (k.dqTop % n)
        let s := s.reach c at_ 16
        if (s.core c).dqEntryBad (k.dqTop % n) then some (bad s at_)
        else
          let s := s.scrWrite c k.spr.dqbase.toNat (natLE 4 ((k.dqTop + 1) % n))
          let s := s.scrWrite c (k.spr.dqbase.toNat + 8) (natLE 4 (k.dqCnt - 1))
          some (answer s ((s.core c).scr.readN at_ 8) ((s.core c).scr.readN (at_ + 8) 8) 1)
  | _ => none

/-- STEAL (R406). -/
def execSteal (k : Nat) (s : State) : Out := onCore s k Body.isSteal State.serveSteal State.lose

/-- A cancel at a core, or recorded for one that is swapped out (R58, R82). -/
def execCancelAcknowledge (k : Nat) (s : State) : Out :=
  match s.deliverable k with
  | some { dst := .core c, body := .cancel i job, .. } =>
    let t := s.dropMsg k
    if s.regionOf c = some i then
      .next (((t.wake c).flushJob c job).ackCancel i c job)
    else
      let r := s.region i
      .next ((t.setRegion i { r with
        save := r.save.map fun v => { v with cancels := v.cancels ++ [(c, job)] } }).ackCancel i c job)
  | _ => .next s

/-! ### Backlog, spill, fill (R43-R47) -/

/-- BACKLOG_SERVE: a pending fill first, then the oldest waiting spawn (R43). -/
def execBacklogServe (c : Nat) (s : State) : Out :=
  let k := s.core c
  if k.fe.exhausted then .next s
  else match k.wantFill with
    | some fix => .next (s.startFill c fix)
    | none =>
      match k.fe.backlog with
      | [] => .next s
      | m :: ms =>
        match (s.modCore c (·.modFe fun f => { f with backlog := ms })).spawn c m with
        | some s => .next (s.modCore c (·.modFe fun f => { f with spilling := f.spilling && decide (48 < ms.length) }))
        | none => .next (if k.fe.spilling then s.startSpill c else s.backlogFull c)

/-- SPILL_COMPLETE (R44, R302). -/
def execSpillComplete (c fix : Nat) (s : State) : Out := .next (s.finishSpill c fix)

/-- FILL_COMPLETE (R46, R49). -/
def execFillComplete (c fix : Nat) (s : State) : Out := .next (s.finishFill c fix)

/-- WATERMARK_REPORT (R306): it bears on the region whose weave the core ran when it sent it. -/
def execWatermarkReport (k : Nat) (s : State) : Out :=
  match s.deliverable k with
  | some { src := .core c, body := .watermark low, region := i, .. } =>
    let t := s.dropMsg k
    match i with
    | none => .next t
    | some i =>
      let r := s.region i
      if r.state = 0 ∨ !r.cores.contains c then .next t
      else
      let rest := r.throttle.filter (· != c)
      .next (t.setRegion i { r with throttle := if low then rest ++ [c] else rest })
  | _ => .next s

/-! ### Issue and promotion (R34, R298-R300, R439) -/

/-- The head of a level, from either area, and whether it is the promotion area's. -/
def Level.head (l : Level) : Option (ReadyEnt × Bool) :=
  match l.reg.head?, l.prom.head? with
  | none, none => none
  | some a, none => some (a, false)
  | none, some b => some (b, true)
  | some a, some b => if a.seq < b.seq then some (a, false) else some (b, true)

/-- The level without its head; a regular place that frees takes an overflowed firing. -/
def FrameEng.pop (f : FrameEng) (now lev : Nat) (prom : Bool) : FrameEng :=
  let l := f.level lev
  if prom then f.setLevel lev { l with prom := l.prom.drop 1 }
  else (f.setLevel lev { l with reg := l.reg.drop 1 }).refill now lev

/-- The threadlet, PRIO, registers and retry count of an entry at this moment: a direct firing's own, else those that its
slot names (R34, R300). -/
def Core.firingOf (k : Core) (e : ReadyEnt) : Nat × Nat × List (Nat × Nat) × Nat :=
  match if e.direct then Sparse.get none k.fe.direct e.fix else none with
  | some d => (d.tix, d.pri, d.regs, d.retry)
  | none =>
    let w := k.slotWord e.fix e.slot
    (slotTix w, slotPri w, [], 0)

/-- A free place of the afterimage log's 384. -/
def State.afterFree (s : State) (c : Nat) : Option Nat :=
  firstFree ((s.cluster (clusterOf c)).log.map (·.1)) 384 0

/-- The head entry that issues: of the highest level whose head does not wait for the afterimage log. -/
def State.chooseFiring (s : State) (c : Nat) : List Nat → Option (Nat × ReadyEnt × Bool)
  | [] => none
  | lev :: ls =>
    let k := s.core c
    match (k.fe.level lev).head with
    | none => s.chooseFiring c ls
    | some (e, p) =>
      if (s.weaveOf c).rstb (k.firingOf e).1 && (s.afterFree c).isNone then s.chooseFiring c ls else some (lev, e, p)

/-- The registers of R34. -/
def firingRegs (addr handle : Nat) (regs : List (Nat × Nat)) : Regs :=
  { g := regs.foldl (fun g r => Sparse.set 0 g r.1 (BitVec.ofNat 64 r.2))
      (Sparse.set 0 (Sparse.set 0 [] 30 (BitVec.ofNat 64 addr)) 31 (BitVec.ofNat 64 handle)) }

/-- The threadlet of a chosen entry starts. -/
def State.startFiring (s : State) (c lev : Nat) (e : ReadyEnt) (prom : Bool) : State :=
  let k := s.core c
  let fr := k.frame e.fix
  let addr := k.frameAddr e.fix
  let h := mkHandle c e.fix fr.gen
  let (tix, pri, regs, retry) := k.firingOf e
  let s := s.setCore c (k.modFe fun f => f.pop s.cycles lev prom)
  let s := s.reach c addr 256
  if (s.core c).scr.isBad addr 256 then
    (s.modCore c fun k => (k.modFrame e.fix fun x => { x with st := if k.fe.queued e.fix then 2 else 1 }).modFe fun f =>
      { f with direct := if e.direct then Sparse.set none f.direct e.fix none else f.direct }).post c true 0x10 1 0
      0xFFFFFFFF h addr 0
  else
    let w := s.weaveOf c
    let (s, after) :=
      if w.rstb tix then
        match s.afterFree c with
        | some n =>
          let cl := s.cluster (clusterOf c)
          let ent : AfterEnt := { handle := h, tix := tix, pri := pri, job := fr.job, retry := retry
                                  frame := (s.core c).scr.read addr 256 }
          (s.setCluster (clusterOf c) { cl with log := Sparse.set none cl.log n (some ent) }, some n)
        | none => (s, none)
      else (s, none)
    s.modCore c fun k =>
      let k := k.modFrame e.fix fun x => { x with st := 3 }
      let k := k.modFe fun f => { f with
        direct := if e.direct then Sparse.set none f.direct e.fix none else f.direct, seq := f.seq + 1 }
      { k with
        regs := firingRegs addr h regs
        spr := { k.spr with prio := BitVec.ofNat 2 pri }
        pl := { k.pl with
          pipe := .run, pc := w.entry tix, sup := false, live := true, handle := h, fix := e.fix, slot := e.slot
          tid := k.fe.seq, after := after, lasth := if k.pl.stepping then h else k.pl.lasth } }

/-- FIRING_ISSUE (R300), behind the promotions that are due (R299). -/
def execFiringIssue (c : Nat) (s : State) : Out :=
  let k := s.core c
  if k.pl.pipe = .idle ∧ !k.pl.sup ∧ (!k.pl.halted ∨ k.pl.stepping) ∧ k.net.traps = [] ∧ !k.pl.preempt then
    let s := s.setCore c (k.modFe fun f => f.promoteDue s.cycles)
    match s.chooseFiring c [3, 2, 1, 0] with
    | none => .next s
    | some (lev, e, p) => .next (s.startFiring c lev e p)
  else .next s

/-- PROMOTION (R299): every promotion that is due has been made when it happens, whichever level it is seen at. -/
def execPromotion (c : Nat) (_level : Nat) (s : State) : Out := .next (s.modCore c (·.modFe (·.promoteDue s.cycles)))

end Sys2Proof.Machine
end

