-- ==== Sys2Proof/Machine/Engine.lean ====
section
/-! DEFINITION. Operations of a core's engines: where their core is while its region is swapped out (R56, R137), how
they start, park on a translation fault (R345, R362), end and signal (R195, R237, R262). -/

namespace Sys2Proof.Machine

/-! ### Records (R56, R425) -/

/-- A record for core c of `region`: into its fault queue, or, while the region is swapped out, among its spilled
messages (R56); where the message area has no room for it, it waits on its way (R437). -/
def State.postFor (s : State) (region : Option Nat) (c : Nat) (isTrap : Bool) (cause src auxid epc handle value aux : Nat) :
    State :=
  if s.regionOf c = region then s.post c isTrap cause src auxid epc handle value aux
  else match s.imageOf region c with
    | none => s
    | some (i, _, _) =>
      let m : Msg := { src := .router (clusterOf c), dst := .core c, chan := .request, region := region
                       body := .record isTrap cause src auxid epc handle value aux }
      (s.spillMsg i c m).getD (s.send m)

/-! ### Parking (R345, R346, R362) -/

/-- How many parked accesses the fault list holds: those of faults that have no miss register, and what one of the registers
has no room for (R334, R345). -/
def Slice.listed (l : Slice) : Nat := (l.faults.map fun f => if f.reg then f.parked.length - 32 else f.parked.length).sum

/-- Something joins fault n: in its miss register, which holds 32, else in the fault list of 256 entries; none when there is no
room. -/
def State.joinFault (s : State) (h n : Nat) (p : Parked) : Option State :=
  let l := s.slice h
  let f := l.faults.getD n {}
  if (f.reg && decide (f.parked.length < 32)) || decide (l.listed < 256) then
    some (s.setSlice h { l with faults := l.faults.modify n fun f => { f with parked := f.parked ++ [p] } })
  else none

/-- The page of a fault, by base and size: that of the leaf which did not permit the access; where the entry is not valid, 4 KiB
(assumption log, entry 37). -/
def faultPage (va reason entry : Nat) : Nat × Nat := if reason = 2 then leafPage va entry else (va - va % 4096, 4096)

/-- A translation fault at va is parked: it joins what is outstanding for the same ASID, page and reason, or a record
goes to the service core. A new fault takes one of the 32 miss registers that may hold faults, while one is free. None when there
is no room. -/
def State.parkFault (s : State) (asid va reason lev entry : Nat) (need : Need) (core handle : Nat) (p : Parked) :
    Option State :=
  let h := homeSlice va
  let l := s.slice h
  match l.faults.findIdx? fun f => f.asid == asid && decide (f.base ≤ va) && decide (va < f.base + f.size) && f.reason == reason with
  | some n => s.joinFault h n p
  | none =>
    let reg := decide ((l.faults.filter (·.reg)).length < 32) && decide (l.regsUsed < 64)
    if reg || decide (l.listed < 256) then
      let serial := (l.serial + 1) % 2 ^ 24
      let svh := (s.service h asid).1
      let s := s.setSlice h { l with
        serial := serial
        faults := l.faults ++ [{ serial := serial, asid := asid, base := (faultPage va reason entry).1
                                 size := (faultPage va reason entry).2, reason := reason, reg := reg, parked := [p] }] }
      some (s.send { src := .slice h, dst := .core (handleCore svh), chan := .request, region := s.regionOf (handleCore svh)
                     body := .faultRecord asid va handle (h * 2 ^ 24 + serial) core need.code reason lev entry })
    else none

/-- Where a piece that can be parked stopped. -/
def GErr.va : GErr → Nat
  | .abort va => va
  | .fault va .. => va
  | .behind va _ => va
  | _ => 0

/-- It was to write. -/
def GErr.writes : GErr → Bool
  | .fault _ _ _ _ need => need.isWrite
  | .behind _ need => need.isWrite
  | _ => false

/-- The place of a piece among the parked writes of the machine, if it was to write: its own, where it was parked before, or the next. -/
def GErr.stamp (e : GErr) (s : State) (old : Option Nat) : Option Nat := if e.writes then some (old.getD s.port.parks) else none

/-- What stopped a piece is parked, or joins what is parked on its page; none when there is no room, or nothing to park. -/
def State.parkErr (s : State) (asid core handle : Nat) (e : GErr) (p : Parked) : Option State :=
  let s := if e.writes then { s with port := { s.port with parks := s.port.parks + 1 } } else s
  match e with
  | .fault va r l x need => s.parkFault asid va r l x need core handle p
  | .behind va _ => ((s.slice (homeSlice va)).faultAt asid va).bind fun n => s.joinFault (homeSlice va) n p
  | _ => none

/-! ### Operations -/

def Engines.setList (e : Engines) (g : Engine) (ops : List EngOp) : Engines :=
  match g with
  | .copy => { e with copy := ops }
  | .vector => { e with vector := ops }
  | .tensor => { e with tensor := ops }
  | .shape => { e with shape := ops }
  | _ => e

def Core.setOps (k : Core) (g : Engine) (ops : List EngOp) : Core := k.modEng (·.setList g ops)
def Core.findOp (k : Core) (g : Engine) (id : Nat) : Option EngOp := (k.ops g).find? fun o => o.id == id
def Core.setOp (k : Core) (g : Engine) (o : EngOp) : Core :=
  k.setOps g ((k.ops g).map fun x => if x.id = o.id then o else x)
def Core.dropOp (k : Core) (g : Engine) (id : Nat) : Core := k.setOps g ((k.ops g).filter fun x => x.id != id)

/-- An operation as the moving core issues it. -/
def Ctx.engOp (k : Ctx) (s : State) (r : Ref) : EngOp :=
  { id := s.me.eng.nextId, opc := k.op, m := k.m, xop := k.xop, imm := k.imm, d := k.d, a := k.a, b := k.b, c := k.c
    vd := k.vD s, va := k.vA s, vb := k.vB s, vc := k.vC s, ea := k.ea s, th := k.x.th.toNat
    prio := s.me.spr.prio.toNat, since := s.cycles, seed := s.me.spr.rngseed.toNat, strm := s.me.spr.rngstrm.toNat
    asid := s.me.net.asid, epc := s.me.pl.pc, handle := s.me.pl.handle, ref := r }

/-- The operation enters its engine. -/
def Core.startOp (k : Core) (g : Engine) (o : EngOp) : Core :=
  (k.setOps g (k.ops g ++ [o])).modEng fun e => { e with nextId := e.nextId + 1 }

/-- A register whose stream has an operation in flight (R225, R238), whether or not its binding still stands. -/
def Core.streamBusy (k : Core) (r : Nat) : Bool := (k.ops .vector).any fun o => o.streams.any fun e => e.2.1 == r

/-- The bindings as the operation has left them. -/
def Core.syncStreams (k : Core) (o : EngOp) : Core :=
  o.streams.foldl (fun k e => match k.stream e.2.1 with
    | some b => if b.id = e.2.2.id then k.setStream e.2.1 (some e.2.2) else k
    | none => k) k

/-- Element width of a format code (R111, R232). -/
def fmtBits (f : Nat) : Nat :=
  match f with
  | 1 => 32 | 9 => 32 | 10 => 32
  | 4 => 8 | 5 => 8 | 7 => 8
  | 6 => 4 | 8 => 4
  | 11 => 64
  | _ => 16

/-- Elements of w bits packed from bit 0 (R313). -/
def packBits (w : Nat) : List Nat → Nat
  | [] => 0
  | v :: vs => v % 2 ^ w + 2 ^ w * packBits w vs

def Stream.w (b : Stream) (i : Nat) : Nat := b.words.getD i 0
def Stream.fmt (b : Stream) : Nat := bits (b.w 0) 51 48
def Stream.n0 (b : Stream) : Nat := if b.kind = 0 then b.w 1 % 2 ^ 32 else b.w 2 % 2 ^ 32

/-- A line of a channel goes out: its bytes are written to the destination core's scratchpad, then the core sends the decrement of the
remote slot (R226, R445). Where the weave has been swapped out, the bytes travel with the decrement, to be written at restore. -/
def State.channelLine (s : State) (region : Option Nat) (c : Nat) (b : Stream) (line v : Nat) : State :=
  let h := b.w 3 % 2 ^ 32
  let here := decide (s.regionOf c = region)
  let x := (b.w 1, b.w 0 % 2 ^ 32 + 64 * (line % b.n0), natLE 64 v)
  (if here then s.localWrite x.1 x.2.1 x.2.2 else s).sendArrival (.core c) {
    handle := h, slot := bits (b.w 3) 34 32, n := 1, scratch := if here then [] else [x]
    src := c, chan := .signal, absorb := 0, origin := c, region := region }

/-- What a channel's operation has gathered of a last line goes out, padded with zeros, before the operation ends (R236). -/
def State.lastLine (s : State) (region : Option Nat) (c : Nat) (o : EngOp) : State × EngOp :=
  match o.streams.lookup 0 with
  | some (_, b) =>
    if b.kind = 2 ∧ o.uops ≠ [] then
      (s.channelLine region c b b.line (packBits (fmtBits b.fmt) o.uops),
        { o with uops := [], streams := o.streams.map fun e => if e.1 = 0 then (e.1, e.2.1, { b with line := b.line + 1 }) else e })
    else (s, o)
  | none => (s, o)

/-- An entry of the tile exception log (R264): the lowest-numbered invalid one, else LOST in entry 7. -/
def Core.tileLog (k : Core) (op reg row col flags epc : Nat) : Core :=
  let w := 2 ^ 63 + flags * 2 ^ 56 + op * 2 ^ 48 + reg % 8 * 2 ^ 45 + row % 16 * 2 ^ 40 + col % 64 * 2 ^ 32 + epc % 2 ^ 32
  k.modEng fun e =>
    match (List.range 8).find? fun n => !(Sparse.get 0 e.tlog n).getLsbD 63 with
    | some n => { e with tlog := Sparse.set 0 e.tlog n (BitVec.ofNat 64 w) }
    | none => { e with tlog := Sparse.set 0 e.tlog 7 (Sparse.get 0 e.tlog 7 ||| BitVec.ofNat 64 (2 ^ 62)) }

/-- The entry of an operation whose elements raised a flag (R262). -/
def Core.logFirst (k : Core) (o : EngOp) : Core :=
  match o.first with
  | some (i, j, fl) => k.tileLog o.opc o.d i j fl o.epc
  | none => k

/-- The completion of an operation: status 2 for one that RESUME let go on; status 1 is a refusal (R195, R404). -/
def completion (r : Ref) (resumed : Bool) (code cause prog : Nat) : Arrival :=
  let a := if code = 0 ∧ resumed then signalArrival r 2 0x13 prog else signalArrival r code cause prog
  { a with refusal := code == 1 }

def EngOp.outcome (o : EngOp) (code cause prog : Nat) : Arrival := completion o.ref o.resumed code cause prog

/-- The held-arrival list of core c, with the completions on their way to it, has no room for a completion of its own that would be
held (R442). -/
def State.heldFull (s : State) (c : Nat) (a : Arrival) : Bool :=
  let k := s.core c
  k.holds { src := .engine c, dst := .core c, chan := a.chan, body := .arrival a, region := a.region } &&
    decide (256 ≤ k.fe.held.length + (s.msgs.filter fun m => m.src == .engine c && m.dst == .core c).length)

/-- A piece of an operation is parked. -/
def State.pieceParked (s : State) (region : Option Nat) (c : Nat) (g : Engine) (id : Nat) : Bool :=
  s.slices.any fun l => l.2.faults.any fun f => f.parked.any fun p => match p with
    | .piece d e n r .. => d == c && e == g && n == id && r == region
    | _ => false

/-- The places of the completions that wait in a core's engines for room at their core. -/
def Engines.places (e : Engines) : List Nat :=
  ((e.copy ++ e.vector ++ e.tensor ++ e.shape).filterMap (·.fin) ++ e.remote.filterMap (·.fin)).filterMap (·.place)

/-- The place behind them all. -/
def Engines.nextPlace (e : Engines) : Nat := e.places.foldl (fun m p => max m (p + 1)) 0

/-- A completion of core c's engines, to a frame of their own core, waits in its engine: behind one that waits there before it, `place`
being its own, or where there is no room for it (R293, R442). -/
def State.waitsRoom (s : State) (c : Nat) (a : Arrival) (place : Option Nat) : Bool :=
  handleCore a.handle == c &&
    (((s.core c).eng.places.any fun p => place.all fun q => decide (p < q)) || s.heldFull c a)

/-- The completion of core c of a region, which may be swapped out, must wait in its engine. -/
def State.mustWait (s : State) (region : Option Nat) (c : Nat) (a : Arrival) : Bool :=
  if s.regionOf c = region then s.waitsRoom c a none
  else handleCore a.handle == c && ((s.owner region c).map fun k => k.eng.places != []) == some true

/-- The place that it then takes. -/
def State.endPlace (s : State) (region : Option Nat) (c : Nat) : Nat := ((s.owner region c).map (·.eng.nextPlace)).getD 0

/-- The operation is over, with its outcome, and waits in its engine. -/
def EngOp.over (o : EngOp) (x : Ending) : EngOp := { o with fin := some x, parked := true, live := false, memo := [], order := none }

/-- The completion of an operation of core c that is over: flags first (R237, R262), then the record that goes with it, then its
signal. -/
def State.leaveOp (s : State) (c : Nat) (g : Engine) (o : EngOp) (x : Ending) : State :=
  let (s, o) := s.lastLine (s.regionOf c) c o
  let s := s.modCore c fun k => ((k.dropOp g o.id).syncStreams o).logFirst o
  let s := if o.flags = 0 then s else s.engineFlags c o.flags g.src o.epc o.handle
  let s := match x.recd with
    | some v => s.post c (x.cause == 0x13) x.cause g.src 0 o.epc o.handle v (statusWord x.code x.cause x.prog)
    | none => s
  s.sendArrival (.engine c) (o.outcome x.code x.cause x.prog)

/-- An operation of core c ends with a status. It waits in its engine while another piece of it is parked (R195), and while its signal
cannot go (R442). -/
def State.endOp (s : State) (c : Nat) (g : Engine) (o : EngOp) (code cause prog : Nat) (recd : Option Nat) : State :=
  let x : Ending := { code := code, cause := cause, prog := prog, recd := recd }
  if s.pieceParked (s.regionOf c) c g o.id then s.modCore c (·.setOp g (o.over x))
  else if s.waitsRoom c (o.outcome code cause prog) none then
    s.modCore c (·.setOp g (o.over { x with place := some (s.core c).eng.nextPlace }))
  else s.leaveOp c g o x

/-! ### Transfers with another part (R216) -/

/-- Transfer id of a core with another part is over. -/
def Core.dropRemote (k : Core) (id : Nat) : Core := k.modEng fun e => { e with remote := e.remote.filter fun x => x.id != id }

/-- Transfer x stands as x. -/
def Core.setRemote (k : Core) (x : Remote) : Core :=
  k.modEng fun e => { e with remote := e.remote.map fun y => if y.id = x.id then x else y }

def Core.findRemote (k : Core) (id : Nat) : Option Remote := k.eng.remote.find? fun x => x.id == id

/-- The completion of such a transfer of core c of a region, which may be swapped out: a record, if one goes with it, then its
signal. -/
def State.leaveRemote (s : State) (region : Option Nat) (c : Nat) (x : Remote) (e : Ending) : State :=
  let s := s.modOwner region c (·.dropRemote x.id)
  let s := match e.recd with
    | some v => s.postFor region c (e.cause == 0x13) e.cause Engine.copy.src 0 x.epc x.handle v (statusWord e.code e.cause e.prog)
    | none => s
  s.sendArrival (.engine c) (completion x.ref x.resumed e.code e.cause e.prog)

/-- It ends with a status, and waits in its engine as any operation does. -/
def State.endRemote (s : State) (region : Option Nat) (c : Nat) (x : Remote) (code cause prog : Nat) (recd : Option Nat) : State :=
  let e : Ending := { code := code, cause := cause, prog := prog, recd := recd }
  let ended (e : Ending) : State := s.modOwner region c (·.setRemote { x with fin := some e, order := none })
  if s.pieceParked region c .copy x.id then ended e
  else if s.mustWait region c (completion x.ref x.resumed code cause prog) then ended { e with place := some (s.endPlace region c) }
  else s.leaveRemote region c x e

/-! ### Completions that wait (R293, R442) -/

/-- The completion that waits at place p in the engines of core c goes, unless it must wait on. -/
def State.endAt (s : State) (c p : Nat) : State :=
  let k := s.core c
  let at_ (x : Option Ending) : Bool := x.any fun e => e.place == some p
  let ops := [Engine.copy, .vector, .tensor, .shape].findSome? fun g => ((k.ops g).find? fun o => at_ o.fin).map fun o => (g, o)
  match ops, k.eng.remote.find? fun x => at_ x.fin with
  | some (g, o), _ =>
    let x := o.fin.getD {}
    if s.waitsRoom c (o.outcome x.code x.cause x.prog) (some p) then s else s.leaveOp c g o x
  | none, some y =>
    let x := y.fin.getD {}
    if s.waitsRoom c (completion y.ref y.resumed x.code x.cause x.prog) (some p) then s else s.leaveRemote (s.regionOf c) c y x
  | none, none => s

/-- The completions that wait in the engines of core c go, in the order of their places, where there is room for them by now. -/
def State.endWaiting (s : State) (c : Nat) : State :=
  (s.core c).eng.places.foldl (fun s _ => match (s.core c).eng.places.min? with
    | some p => s.endAt c p
    | none => s) s

/-- An operation of the moving core that is over as it issues: its completion keeps its place behind those that wait in the core's engines,
and is one of them where it must wait (R293, R442). None where it must and its engine is full. -/
def State.endAtIssue (s : State) (g : Engine) (full : Bool) (o : EngOp) (x : Ending) : Option State :=
  if s.waitsRoom s.cur (o.outcome x.code x.cause x.prog) none then
    if full then none
    else some (s.modMe (·.startOp g (o.over { x with place := some s.me.eng.nextPlace })))
  else
    let s := match x.recd with
      | some v => s.post s.cur (x.cause == 0x13) x.cause g.src 0 o.epc o.handle v (statusWord x.code x.cause x.prog)
      | none => s
    some (s.signal (.engine s.cur) o.ref x.code x.cause x.prog)

/-- What an operation of the moving core, as it issues, reads of the scratchpad has an uncorrectable error: status 3, CAUSE 0x10, with a
record (R355). -/
def badLocal (v : Nat) : Ending := { code := 3, cause := 0x10, recd := some v }

/-- Why a unit of an operation stops: memory; an ending with status, CAUSE, VALUE and whether a record goes with
it; the pieces it may perform now have been performed. -/
inductive Stop where
  | mem (e : GErr)
  | fin (code cause value : Nat) (recd : Bool)
  | more
  deriving DecidableEq, Repr

/-- A unit as it runs: the machine; what pieces performed before have given, oldest first; what its pieces have given, newest
first; how many it may still perform now, none for all; the schedule's choice among those that may be next; how many elements it has
written, where PROG counts them, and their flags (R237). -/
structure Run where
  s : State
  todo : List (List Nat) := []
  done : List (List Nat) := []
  left : Option Nat := none
  pick : Nat := 0
  wrote : Nat := 0
  flags : Nat := 0

/-- A unit of an operation: a row, chunk, piece, element or group (R305). Its accesses are pieces, each with a performance of
its own (R357); it may be left between two of them, and is then gone through again with what the pieces gave. -/
abbrev GM (α : Type) := ExceptT Stop (StateM Run) α

/-- One thing a unit does to the machine, once, however often the unit is gone through; `piece` if it is a performance. -/
def GM.once (piece : Bool) (f : State → State × Except GErr (List Nat)) : GM (List Nat) :=
  ExceptT.mk fun r =>
    match r.todo with
    | m :: ms => (.ok m, { r with todo := ms, done := m :: r.done })
    | [] =>
      if piece && r.left == some 0 then (.error .more, r)
      else match f r.s with
        | (s, .ok m) => (.ok m, { r with s := s, done := m :: r.done, left := if piece then r.left.map (· - 1) else r.left })
        | (s, .error e) => (.error (.mem e), { r with s := s })

/-- A memory access as a piece, with the bytes it gives. -/
def GM.bytes (f : State → State × Except GErr (List Byte)) : GM (List Byte) := do
  let m ← GM.once true fun s => match f s with
    | (s, .ok bs) => (s, .ok (bs.map (·.toNat)))
    | (s, .error e) => (s, .error e)
  pure (m.map (BitVec.ofNat 8))

/-- A memory access as a piece that gives nothing. -/
def GM.act (f : State → State × Except GErr Unit) : GM Unit := do
  let _ ← GM.once true fun s => match f s with
    | (s, .ok ()) => (s, .ok [])
    | (s, .error e) => (s, .error e)
  pure ()

def GM.stop {α : Type} (code cause value : Nat) (recd : Bool := true) : GM α := throw (.fin code cause value recd)
/-- The machine as it stands: for units that are gone through in one step. -/
def GM.get : GM State := ExceptT.mk fun r => (.ok r.s, r)
def GM.upd (f : State → State) : GM Unit := do
  let _ ← GM.once false fun s => (f s, .ok [])
  pure ()
/-- An element has been written, with its flags. -/
def GM.wrote (fl : Nat) : GM Unit := ExceptT.mk fun r => (.ok (), { r with wrote := r.wrote + 1, flags := r.flags ||| fl })
/-- One of n things that nothing orders, as the schedule picks it, with the piece that follows (R369). -/
def GM.pick (n : Nat) : GM Nat :=
  if n ≤ 1 then pure 0
  else ExceptT.mk fun r =>
    match r.todo with
    | m :: ms => (.ok (m.headD 0), { r with todo := ms, done := m :: r.done })
    | [] =>
      if r.left == some 0 then (.error .more, r)
      else (.ok (r.pick % n), { r with done := [r.pick % n] :: r.done, pick := r.pick / n })
/-- What is left of some things, each with its number, and what the others have given; m goes before n where `first m n`; f bounds
them. -/
def GM.parFrom {α : Type} (first : Nat → Nat → Bool) : Nat → List (GM α × Nat) → List (Nat × α) → GM (List (Nat × α))
  | 0, _, rs => pure rs
  | f + 1, ps, rs => do
    let ready := ps.filter fun p => !ps.any fun q => first q.2 p.2
    let i ← GM.pick ready.length
    match ready[i]? with
    | none => pure rs
    | some (p, n) =>
      let x ← p
      GM.parFrom first f (ps.filter fun q => q.2 != n) ((n, x) :: rs)
/-- Things done in an order that the schedule picks, which nothing but `first` constrains; what they give, in the order they are
listed (R369). -/
def GM.par {α : Type} (ps : List (GM α)) (first : Nat → Nat → Bool := fun _ _ => false) : GM (List α) := do
  let rs ← GM.parFrom first ps.length ps.zipIdx []
  pure ((List.range ps.length).filterMap fun i => (rs.find? fun e => e.1 == i).map (·.2))
/-- A value that the spec does not state. -/
def GM.draw : GM Nat := do
  let m ← GM.once false fun s => ({ s with draws := s.draws + 1 }, .ok [(Config.freeValue s.draws).toNat])
  pure (m.headD 0)
/-- n bytes at a VA, read by an engine of core c, line by line. -/
def GM.read (c asid va n : Nat) (th : Nat := 0) : GM (List Byte) := do
  let ps ← GM.par ((linePieces (n / 64 + 2) va n).map fun e => GM.bytes fun s => s.engRead c asid e.1 e.2 th)
  pure ps.flatten
/-- How the writes of operation o of an engine of core c reach their slices. -/
def EngOp.via (o : EngOp) (c : Nat) (g : Engine) : Via := { turn := true, core := c, eng := some g, order := o.order }
/-- Bytes written at a VA by an engine, line by line. -/
def GM.write (v : Via) (asid va : Nat) (bs : List Byte) : GM Unit := do
  let _ ← GM.par ((linePieces (bs.length / 64 + 2) va bs.length).map fun e =>
    GM.act fun s => s.gWritePiece asid e.1 ((bs.drop (e.1 - va)).take e.2) v)
  pure ()
/-- PA and leaf of a VA, for an engine of core c. -/
def GM.trans (c asid va : Nat) (need : Need) : GM (Nat × Nat) := do
  let m ← GM.once false fun s => match s.gTransVia { turn := true, core := c } asid va need with
    | (s, .ok (pa, leaf)) => (s, .ok [pa, leaf])
    | (s, .error e) => (s, .error e)
  pure (m.getD 0 0, m.getD 1 0)

/-- A unit gone through whole in one step. -/
def GM.whole {α : Type} (m : GM α) (s : State) : Except Stop α × State :=
  match (ExceptT.run m) { s := s } with
  | (x, r) => (x, r.s)

/-- The operation with no unit in flight. -/
def EngOp.rested (o : EngOp) : EngOp := { o with live := false, memo := [], order := none }

/-- A unit of an operation, of which `left` pieces may be performed now, all for none, `pick` choosing among those that may be next:
what it makes of the operation, and the status, CAUSE and PROG it ends with, if it does. A stop ends it, with the flags of what the
unit wrote, or parks it, and the unit is to begin again (R219); where nothing can be parked now, or a piece's turn has not come,
nothing happens. `prog` and what the unit wrote are PROG where it stops. A unit that only made the plan of an operation is no row,
chunk or piece, and its wait goes on (R305). -/
def State.runPiece (s : State) (c : Nat) (g : Engine) (o : EngOp) (prog : Nat) (unit : GM (EngOp × Option (Nat × Nat × Nat)))
    (left : Option Nat := none) (pick : Nat := 0) : State :=
  let at_ (t : Run) : Nat := min (prog + t.wrote) (2 ^ 32 - 1)
  let stopped (t : Run) : EngOp := { o with flags := o.flags ||| t.flags }
  match (ExceptT.run unit) { s := s, todo := o.memo, left := left, pick := pick } with
  | (.ok (o', none), t) =>
    t.s.modCore c (·.setOp g (if o.sides = [] ∧ o'.sides ≠ [] then o'.rested else { o'.rested with since := t.s.cycles, aged := false }))
  | (.ok (o', some (code, cause, p)), t) => t.s.endOp c g o' code cause p none
  | (.error .more, t) => t.s.modCore c (·.setOp g { o with live := true, memo := t.done.reverse })
  | (.error (.fin code cause v recd), t) => t.s.endOp c g (stopped t) code cause (at_ t) (if recd then some v else none)
  | (.error (.mem (.abort va)), t) => t.s.endOp c g (stopped t) 3 0x13 (at_ t) (some va)
  | (.error (.mem (.cause cs v)), t) => t.s.endOp c g (stopped t) 3 cs (at_ t) (some v)
  | (.error (.mem e), t) =>
    match t.s.parkErr o.asid c o.handle e (.piece c g o.id (t.s.regionOf c) e.va (e.stamp t.s o.order) t.done.reverse) with
    | some u => u.modCore c (·.setOp g
        { o.rested with parked := true, prog := prog, part := t.wrote, partFlags := t.flags, rest := [] })
    | none => s

/-- A unit that makes a new operation, or none when that is done with status 0. -/
def State.runUnit (s : State) (c : Nat) (g : Engine) (o : EngOp) (prog : Nat) (unit : GM (Option EngOp × Nat))
    (left : Option Nat := none) (pick : Nat := 0) : State :=
  s.runPiece c g o prog (left := left) (pick := pick) do
    match ← unit with
    | (some o', _) => pure (o', none)
    | (none, p) => pure (o, some (0, 0, p))

/-- RESUME for a parked piece, number `n` of the parked writes if it is one: its operation goes on (R347), unless another piece of it is
parked. -/
def State.resumePiece (s : State) (region : Option Nat) (c : Nat) (g : Engine) (id : Nat) (n : Option Nat) : State :=
  let parked := s.pieceParked region c g id
  s.modOwner region c fun k =>
    match k.findOp g id with
    | some o => k.setOp g { o with
        parked := parked, resumed := true, part := 0, partFlags := 0, order := (n.toList ++ o.order.toList).min? }
    | none => k

/-- The VA at the part of place p of a transfer's runs. -/
def placeVa : List (Nat × Nat × Nat) → Nat → Nat
  | [], p => p
  | (_, g, n) :: rs, p => if p < n then g + p else placeVa rs (p - n)

/-- The place of a transfer's parked piece whose VA at the part is va. -/
def Remote.parkedAt (x : Remote) (va : Nat) : Option Nat :=
  x.parked.find? fun p => x.todo.any (fun q => q.2.1 == p && decide (placeVa x.pieces p ≤ va ∧ va < placeVa x.pieces p + q.2.2)) ||
    x.data.any fun q => q.1 == p && decide (placeVa x.pieces p ≤ va ∧ va < placeVa x.pieces p + q.2.length)

/-- A transfer's piece at va is parked no more, after a reply (R347): a RESUME, for number `n` of the parked writes if it is one. -/
def State.unparkRemote (s : State) (region : Option Nat) (c id va : Nat) (resumed : Bool) (n : Option Nat) : State :=
  match (s.owner region c).bind (·.findRemote id) with
  | some x => s.modOwner region c (·.setRemote
      { x with
        resumed := x.resumed || (resumed && x.fin.isNone)
        order := if resumed && x.fin.isNone then (n.toList ++ x.order.toList).min? else x.order
        parked := x.parked.erase ((x.parkedAt va).getD (2 ^ 64)) })
  | none => s

/-- An operation of core c of a region, which may be swapped out, ends with a status. -/
def State.endOwned (s : State) (region : Option Nat) (c : Nat) (g : Engine) (id code cause prog : Nat) (recd : Option Nat) :
    State :=
  match (s.owner region c).bind (·.findOp g id) with
  | none => s
  | some o =>
    let o := { o with flags := o.flags ||| o.partFlags }
    let x : Ending := { code := code, cause := cause, prog := prog, recd := recd }
    if s.regionOf c = region then s.endOp c g o code cause prog recd
    else if s.pieceParked region c g id then s.modOwner region c (·.setOp g (o.over x))
    else if s.mustWait region c (o.outcome code cause prog) then
      s.modOwner region c (·.setOp g (o.over { x with place := some (s.endPlace region c) }))
    else
      let (s, o) := s.lastLine region c o
      let s := s.modOwner region c fun k => (((k.dropOp g id).syncStreams o).logFirst o).orFlags o.flags
      let s :=
        if ((s.owner region c).map (·.flagTrap o.flags)).getD false then
          s.postFor region c true 0x0F g.src 0 o.epc o.handle o.flags 0
        else s
      let s := match recd with
        | some v => s.postFor region c (cause == 0x13) cause g.src 0 o.epc o.handle v (statusWord code cause prog)
        | none => s
      s.sendArrival (.engine c) (o.outcome code cause prog)

/-- An operation that is over goes when nothing of it is parked any more. -/
def State.settlePiece (s : State) (region : Option Nat) (c : Nat) (g : Engine) (id : Nat) : State :=
  match ((s.owner region c).bind (·.findOp g id)).bind (·.fin), (s.owner region c).bind (·.findRemote id) with
  | some x, _ => if x.place.isSome then s else s.endOwned region c g id x.code x.cause x.prog x.recd
  | none, some y => match y.fin with
    | some x => if g = .copy ∧ x.place.isNone then s.endRemote region c y x.code x.cause x.prog x.recd else s
    | none => s
  | none, none => s

/-- ABORT for a parked piece: its operation ends with status 3, CAUSE 0x13 and the recorded trap (R195, R347), unless another piece has
ended it. -/
def State.abortPiece (s : State) (region : Option Nat) (c : Nat) (g : Engine) (id va : Nat) : State :=
  match (s.owner region c).bind (·.findOp g id) with
  | none => s
  | some o =>
    if o.fin.isSome then s.settlePiece region c g id
    else s.endOwned region c g id 3 0x13 (min (o.prog + o.part) (2 ^ 32 - 1)) (some va)

/-! ### Lines filled by a device write (R199, R219, R259) -/

/-- The full/empty bits of n lines of a core's own scratchpad, from offset a on. -/
def Core.setEmpty (k : Core) (a : Nat) (v : Bool) : Core :=
  k.modScr fun m => { m with empty := Sparse.set false m.empty (a / 64) v }

end Sys2Proof.Machine
end

