-- ==== Sys2Proof/Machine/Beacon.lean ====
section
/-! DEFINITION. Beacon's jobs, grid and merge-path (R157, R397-R399, R407-R411), and the dusk detector: quiescence and the
livelock window (R414-R417). -/

namespace Sys2Proof.Machine

/-! ### Queries and answers (R407, R408) -/

def State.job (s : State) (die j : Nat) : BJob := Sparse.get {} (s.die die).jobs j
def State.setJob (s : State) (die j : Nat) (v : BJob) : State :=
  let d := s.die die
  s.setDie die { d with jobs := Sparse.set {} d.jobs j v }

/-- Fields of the query word. -/
def BeaconQuery.act (q : BeaconQuery) : Nat := bits q.query 63 62
def BeaconQuery.job (q : BeaconQuery) : Nat := bits q.query 61 56
def BeaconQuery.va (q : BeaconQuery) : Nat := bits q.query 47 0
/-- The die whose Beacon takes it. -/
def BeaconQuery.die (q : BeaconQuery) : Nat := dieOf q.core
/-- The region of the issuer. -/
def BeaconQuery.region (q : BeaconQuery) : Nat := q.ref.region.getD 0x7F

/-- Its reads take their turn at the slices. -/
def BeaconQuery.via (q : BeaconQuery) : Via := { turn := true, core := q.core }

/-- The answer is written, then the status is signalled (R157). -/
def State.beaconAnswer (s : State) (q : BeaconQuery) (code cause w0 w1 prog : Nat) : State :=
  s.sendArrival (.beacon q.die) { signalArrival q.ref code cause prog with
    scratch := [(q.core, q.dst, natLE 8 w0 ++ natLE 8 w1)] }

/-- A query is done: status 0, or 2 after RESUME. -/
def State.beaconDone (s : State) (q : BeaconQuery) (w0 w1 prog : Nat) : State :=
  if q.resumed then s.beaconAnswer q 2 0x13 w0 w1 prog else s.beaconAnswer q 0 0 w0 w1 prog

/-- A query is refused: status 3, CAUSE 0x02, a record with the offending value, an answer of zero. -/
def State.beaconRefuse (s : State) (q : BeaconQuery) (value : Nat) : State :=
  (s.postFor q.ref.region q.core false 0x02 Engine.beacon.src 0 q.epc q.handle value (statusWord 3 0x02 0)).beaconAnswer q 3
    0x02 0 0 0

/-- A read of a query ends it: status 3, with its record, PROG the part it had taken (R195, R399). What its answer then holds the
spec leaves open: free values (assumption log, entry 14). -/
def State.beaconFail (s : State) (q : BeaconQuery) (cause value : Nat) : State :=
  let p := q.part.getD 0
  let (s, w0) := s.draw
  let (s, w1) := s.draw
  (s.postFor q.ref.region q.core (cause == 0x13) cause Engine.beacon.src 0 q.epc q.handle value
    (statusWord 3 cause p)).beaconAnswer q 3 cause w0 w1 p

/-- The query's turn comes after x: x is one of its core (R157), or one of its job that has no part index yet and was received
before it (R399; assumption log, entry 14). -/
def BeaconQuery.behind (q x : BeaconQuery) : Bool :=
  x.ref.region == q.ref.region && (x.core == q.core || (x.die == q.die && x.job == q.job && x.part == none))

/-- A query that goes before it is parked, or comes back from a RESUME as a message before its own, the k-th. -/
def State.queryParked (s : State) (q : BeaconQuery) (k : Nat) : Bool :=
  (s.slices.any fun l => l.2.faults.any fun f => f.parked.any fun p => match p with
    | .query x _ => q.behind x
    | _ => false) ||
  (s.msgs.take k).any fun m => match m.body with
    | .beacon x => x.resumed && q.behind x
    | _ => false

/-- A reserved bit or a VA that must be zero is set. -/
def BeaconQuery.bad (q : BeaconQuery) : Bool :=
  bits q.query 55 48 != 0 || q.act == 3 || (q.act != 1 && q.va != 0) || (q.act == 1 && !aligned q.va 32)

/-- The job is one of the issuer's region, and not free. -/
def State.jobOk (s : State) (q : BeaconQuery) : Bool :=
  let j := s.job q.die q.job
  j.state != 0 && j.region == q.region

/-! ### Grid mode (R409, R410) -/

/-- Size k of a job's grid, and its total. -/
def gridSize (w k : Nat) : Nat := w / 2 ^ (16 * k) % 2 ^ 16
def gridTotal (w : Nat) : Nat := gridSize w 0 * gridSize w 1 * gridSize w 2 * gridSize w 3

/-- A word of a grid descriptor that R409 refuses. -/
def gridBad (w0 w1 w2 w3 : Nat) : Option Nat :=
  if ((List.range 4).any fun k => gridSize w0 k == 0) || decide (0xFFFFFFFF < gridTotal w0) then some w0
  else if w1 / 2 ^ 16 ≠ 0 ∨ w1 % 2 ^ 16 = 0 then some w1
  else if w2 ≠ 0 then some w2
  else if w3 ≠ 0 then some w3
  else none

/-- Word i of a list of bytes. -/
def wordAt (bs : List Byte) (i : Nat) : Nat := leNat ((bs.drop (8 * i)).take 8)

/-- The answer of a grid next, and NEXT after it (R410). -/
def gridNext (j : BJob) : Nat × Nat × Nat :=
  let t := gridTotal j.sizes
  if t ≤ j.next then (2 ^ 63, 0, j.next)
  else
    let l := j.next
    let n := min j.step (t - l)
    let n0 := gridSize j.sizes 0
    let n1 := gridSize j.sizes 1
    let n2 := gridSize j.sizes 2
    (n * 2 ^ 32 + l,
     l / n0 / n1 / n2 * 2 ^ 48 + l / n0 / n1 % n2 * 2 ^ 32 + l / n0 % n1 * 2 ^ 16 + l % n0,
     l + n)

/-! ### Merge-path mode (R397-R399, R411) -/

/-- An entry of the row-pointer array. -/
def rpRead (q : BeaconQuery) (rpva k : Nat) : GM Nat := do
  let bs ← GM.bytes fun s => s.gRead q.asid (rpva + 4 * k) 4 q.via
  pure (leNat bs)

/-- Split of R398 between lo and hi; f bounds the halvings. -/
def splitLoop (q : BeaconQuery) (rpva rp0 d : Nat) : Nat → Nat → Nat → GM Nat
  | 0, lo, _ => pure lo
  | f + 1, lo, hi =>
    if lo < hi then do
      let mid := (lo + hi + 1) / 2
      let v ← rpRead q rpva mid
      if (v : Int) - rp0 ≤ (d : Int) - mid then splitLoop q rpva rp0 d f mid hi
      else splitLoop q rpva rp0 d f lo (mid - 1)
    else pure lo

/-- The descriptor and the count of non-zeros: R, P, RPVA, rp[0], Z. -/
def mergeDesc (q : BeaconQuery) (va : Nat) : GM (Nat × Nat × Nat × Nat × Nat) := do
  let bs ← GM.bytes fun s => s.gRead q.asid va 32 q.via
  let w0 := wordAt bs 0
  let w1 := wordAt bs 1
  let r := w0 / 2 ^ 32
  let p := bits w0 20 0
  let rpva := bits w1 47 0
  if bits w0 31 21 ≠ 0 ∨ r = 0xFFFFFFFF ∨ p = 0 ∨ 1048576 < p then GM.stop 3 0x02 w0
  if bits w1 63 48 ≠ 0 ∨ !aligned rpva 4 then GM.stop 3 0x02 w1
  if wordAt bs 2 ≠ 0 then GM.stop 3 0x02 (wordAt bs 2)
  if wordAt bs 3 ≠ 0 then GM.stop 3 0x02 (wordAt bs 3)
  let a ← rpRead q rpva 0
  let b ← rpRead q rpva r
  if b < a then GM.stop 3 0x02 b
  pure (r, p, rpva, a, b - a)

/-- Part p: the two answer words and PROG. -/
def mergePart (q : BeaconQuery) (r parts rpva rp0 z p : Nat) : GM (Nat × Nat × Nat) := do
  let d := (r + z + parts - 1) / parts
  let split (x : Nat) : GM Nat := splitLoop q rpva rp0 x 33 (x - z) (min x r)
  let d0 := min (p * d) (r + z)
  let d1 := min ((p + 1) * d) (r + z)
  let i0 ← split d0
  let i1 ← split d1
  pure (p * 2 ^ 32 + i0, i1 * 2 ^ 32 + (rp0 + (d0 - i0)) % 2 ^ 32, (rp0 + (d1 - i1)) % 2 ^ 32)

/-- The part index that a query holds or is next to be handed is taken. -/
def State.takePart (s : State) (q : BeaconQuery) : State × BeaconQuery :=
  let j := s.job q.die q.job
  match q.part with
  | some _ => (s, q)
  | none => (s.setJob q.die q.job { j with next := j.next + 1 }, { q with part := some j.next })

/-- ABORT of a parked query. A merge next has a part index, of which it takes one now when it was parked before its descriptor was
validated: that part is not handed out again (R399). It takes none where its job is no more (R408). -/
def State.queryAbort (s : State) (q : BeaconQuery) (va : Nat) : State :=
  if q.act = 0 ∧ q.merge ∧ s.jobOk q ∧ (s.job q.die q.job).state = 2 then
    (s.takePart q).1.beaconFail (s.takePart q).2 0x13 va
  else s.beaconFail q 0x13 va

/-- A read of a query was not performed: the query parks, or ends. None when nothing can be parked now. -/
def State.beaconErr (s : State) (q : BeaconQuery) (e : GErr) : Option State :=
  match e with
  | .abort va => some (s.queryAbort q va)
  | .cause c v => some (s.beaconFail q c v)
  | .fault va .. => s.parkErr q.asid q.core q.handle e (.query q va)
  | .behind va _ => s.parkErr q.asid q.core q.handle e (.query q va)
  | .busy => none

/-- The part that a query has taken is computed, under what was validated before it was taken. -/
def State.mergeGo (s : State) (q : BeaconQuery) : Option State :=
  match q.plan with
  | none => none
  | some (r, parts, rpva, rp0, z) =>
    match (mergePart q r parts rpva rp0 z (q.part.getD 0)).whole s with
    | (.ok (w0, w1, n), s) => some (s.beaconDone q w0 w1 n)
    | (.error (.mem e), s) => s.beaconErr q e
    | (.error .more, _) => none
    | (.error (.fin _ _ v _), s) => some (s.beaconRefuse q v)

/-- A merge next: the descriptor is validated, then a part is taken, then the part is computed (R399). -/
def State.mergeNext (s : State) (q : BeaconQuery) (j : BJob) : Option State :=
  match (mergeDesc q j.va).whole s with
  | (.error (.fin _ _ v _), s) => some (s.beaconRefuse q v)
  | (.error (.mem e), s) => s.beaconErr q e
  | (.error .more, _) => none
  | (.ok d, s) =>
    if d.2.1 ≤ q.part.getD j.next then some (s.beaconDone q (2 ^ 63) 0 0)
    else (s.takePart q).1.mergeGo { (s.takePart q).2 with plan := some d }

/-- An open. -/
def State.beaconOpen (s : State) (q : BeaconQuery) : Option State :=
  let j := s.job q.die q.job
  if q.bad || (j.state != 0 && j.region != q.region) then some (s.beaconRefuse q q.query)
  else
    let new : BJob := { state := 1, region := q.region, va := q.va, asid := q.asid }
    if q.merge then some ((s.setJob q.die q.job { new with state := 2 }).beaconDone q 0 0 0)
    else match s.gRead q.asid q.va 32 q.via with
      | (s, .error e) => s.beaconErr q e
      | (s, .ok bs) =>
        match gridBad (wordAt bs 0) (wordAt bs 1) (wordAt bs 2) (wordAt bs 3) with
        | some v => some (s.beaconRefuse q v)
        | none => some ((s.setJob q.die q.job { new with sizes := wordAt bs 0, step := wordAt bs 1 }).beaconDone q 0 0 0)

/-- A next; one that has taken its part already goes on with it, whatever has become of the job. -/
def State.beaconNext (s : State) (q : BeaconQuery) : Option State :=
  let j := s.job q.die q.job
  if q.plan.isSome then s.mergeGo q
  else if q.bad || !s.jobOk q || (j.state == 2) != q.merge then some (s.beaconRefuse q q.query)
  else if q.merge then s.mergeNext q j
  else
    let (w0, w1, n) := gridNext j
    some ((s.setJob q.die q.job { j with next := n }).beaconDone q w0 w1 0)

/-- A close. -/
def State.beaconClose (s : State) (q : BeaconQuery) : Option State :=
  if q.bad || !s.jobOk q then some (s.beaconRefuse q q.query)
  else some ((s.setJob q.die q.job { s.job q.die q.job with state := 0 }).beaconDone q 0 0 0)

/-- Beacon takes a query (R408); one with ACT 11, as with any other reserved bit, is refused. -/
def State.takeQuery (s : State) (q : BeaconQuery) : Option State :=
  if q.act = 1 then s.beaconOpen q else if q.act = 2 then s.beaconClose q else s.beaconNext q

/-- RESUME: Beacon takes the query again, ahead of the later ones, if only when its turn comes at the slices. -/
def State.queryResume (s : State) (q : BeaconQuery) : State :=
  let q := { q with resumed := true }
  (s.takeQuery q).getD { s with msgs := { src := .core q.core, dst := .beacon q.die, chan := .request, region := q.ref.region
                                          body := .beacon q } :: s.msgs }

/-- Message k is a query whose ACT is `act`, or 11, which no query may have; it is taken in its turn. -/
def onBeacon (s : State) (k act : Nat) (f : State → BeaconQuery → Option State) : Out :=
  match s.deliverable k with
  | some { body := .beacon q, .. } =>
    if (q.act == act || q.act == 3) && !s.queryParked q k then .next ((f (s.dropMsg k) q).getD s) else .next s
  | _ => .next s

/-- BEACON_OPEN (R408). -/
def execBeaconOpen (k : Nat) (s : State) : Out := onBeacon s k 1 State.beaconOpen
/-- BEACON_NEXT (R410, R411). -/
def execBeaconNext (k : Nat) (s : State) : Out := onBeacon s k 0 State.beaconNext
/-- BEACON_CLOSE (R408). -/
def execBeaconClose (k : Nat) (s : State) : Out := onBeacon s k 2 State.beaconClose

/-! ### The dusk detector (R414-R416) -/

/-- Idle (R415). -/
def Core.idle (k : Core) : Bool :=
  !k.pl.live && ([0, 1, 2, 3].all fun i => (k.fe.level i).reg == [] && (k.fe.level i).prom == []) && k.fe.ovf == [] &&
    k.fe.backlog == [] && k.fe.pending == [] && (List.range 8).all fun q => (k.lq q).entries == []

/-- The cores that a TERMW waits for: those of its region in its instance. -/
def State.termwCores (s : State) (t : Termw) : List Nat :=
  (s.region t.region).cores.filter fun c => sameInst t.scope t.inst c

/-- Sums of EMIT and ABSORB at the instance's level. -/
def State.dusk (s : State) (t : Termw) : Nat × Nat :=
  let cs := s.termwCores t
  let lev := t.scope - 3
  ((cs.map fun c => Sparse.get 0 (s.core c).net.emit lev).sum % 2 ^ 64,
   (cs.map fun c => Sparse.get 0 (s.core c).net.absorb lev).sum % 2 ^ 64)

/-- Two TERMWs name one instance of one region. -/
def Termw.same (a b : Termw) : Bool := a.region == b.region && a.scope == b.scope && sameInst a.scope a.inst b.inst

/-- Every TERMW of an instance is signalled, in the order of arrival at each die's detector. -/
def State.termwSignal (s : State) (t : Termw) : State :=
  (List.range 4).foldl (fun s i =>
    let d := s.die i
    (d.termw.filter t.same).foldl (fun s x => s.sendArrival (.dusk i) { signalArrival x.ref 0 0 0 with absorb := 0 })
      (s.setDie i { d with termw := d.termw.filter fun x => !t.same x })) s

/-- DUSK_SAMPLE: a sample for the n-th TERMW of a die, 2,048 front-end cycles being 4,096 core cycles. -/
def execDuskSample (die n : Nat) (s : State) : Out :=
  let d := s.die die
  match d.termw[n]? with
  | none => .next s
  | some t =>
    let cs := s.termwCores t
    let set (t' : Termw) : State := s.setDie die { d with termw := d.termw.set n t' }
    if cs = [] ∨ !cs.all fun c => s.regionOf c == some t.region && (s.core c).idle then .next s
    else
      let p := s.dusk t
      match t.sample with
      | none => .next (set { t with sample := some (s.cycles, p.1, p.2) })
      | some (at_, e, a) =>
        if s.cycles < at_ + 4096 then .next s
        else if p = (e, a) ∧ e = a then .next (s.termwSignal t)
        else .next (set { t with sample := none })

/-! ### The livelock window (R417) -/

/-- The region's cores on a die: in a SWAP, those parked with their weave as those that run it still. -/
def State.coresOn (s : State) (i die : Nat) : List Nat :=
  (s.region i).cores.filter fun c => dieOf c == die && (s.owner (some i) c).isSome

/-- REFUSED and TAKEN of core c for a region's weave, wherever that is. -/
def State.counts (s : State) (i c : Nat) : Nat × Nat :=
  match s.owner (some i) c with
  | some k => (k.net.refused.toNat, k.net.taken.toNat)
  | none => (0, 0)

/-- A die's window of a region begins. -/
def State.llBegin (s : State) (i die : Nat) : State :=
  let r := s.region i
  let cs := s.coresOn i die
  s.setRegion i { r with
    llstart := Sparse.set 0 r.llstart die s.cycles
    llsnap := (r.llsnap.filter fun e => dieOf e.1 != die) ++
      cs.map fun c => (c, s.counts i c) }

/-- LIVELOCK_WINDOW: LLWIN front-end cycles, two core cycles each, have passed. -/
def execLivelockWindow (region die : Nat) (s : State) : Out :=
  let r := s.region region
  if r.state ≠ 1 ∨ r.llwin = 0 ∨ s.cycles < Sparse.get 0 r.llstart die + 2 * r.llwin then .next s
  else
    let cs := s.coresOn region die
    let was (c : Nat) : Nat × Nat := ((r.llsnap.lookup c).getD (0, 0))
    let since (a b : Nat) : Nat := (BitVec.ofNat 64 a - BitVec.ofNat 64 b).toNat
    let ref (c : Nat) : Nat := since (s.counts region c).1 (was c).1
    let tak (c : Nat) : Nat := since (s.counts region c).2 (was c).2
    let sum := (cs.map ref).sum
    let s :=
      if 0 < sum ∧ (cs.map tak).sum = 0 then
        cs.foldl (fun s c =>
          if ref c = 0 then s
          else s.postFor (some region) c true 0x0D 9 0 0xFFFFFFFF 0 (satN sum 32 * 2 ^ 32 + satN (ref c) 32) 0) s
      else s
    .next (s.llBegin region die)

end Sys2Proof.Machine
end

