-- ==== Sys2Proof/Machine/Slices.lean ====
section
/-! DEFINITION. A global access at its home slice and its performing agent: checks, misses, holds, parking, answers
(R195-R211, R332-R348, R362), and the events of slices that need nothing of the engines. -/

namespace Sys2Proof.Machine

/-! ### What an access is -/

/-- What it needs of the leaf (R341). -/
def AccKind.need : AccKind → Need
  | .fetch => .read
  | .ldf => .read
  | .hostRead => .read
  | .ifetch => .exec
  | .aop _ => .both
  | .acas => .both
  | .shape _ => .read
  | .pref => .read
  | _ => .write

/-- A posted store: it answers through the journal (R205). -/
def AccKind.posted : AccKind → Bool
  | .post => true
  | .stf => true
  | .stn => true
  | .feop _ => true
  | _ => false

/-- It is ordered under R197 and R446. -/
def AccKind.ordered : AccKind → Bool
  | .fetch => true
  | .post => true
  | .stf => true
  | .feop _ => true
  | .aop _ => true
  | .acas => true
  | _ => false

/-- It falls under R362: all but LDF. -/
def AccKind.lineOrdered : AccKind → Bool
  | .stn => true
  | k => k.ordered

/-- Its slice may hold it, translated, for a while: an access of a threadlet or of the host. -/
def AccKind.holdable : AccKind → Bool
  | .ldf | .hostRead | .hostWrite => true
  | k => k.lineOrdered

/-! ### Order at the network interface (R446) -/

/-- The interface learns the class that an access found, and whether a store is on its way to the host. -/
def Core.orderClass (k : Core) (a : Access) (cls : Nat) (toPort : Bool) : Core :=
  k.modNet fun n => { n with orders := n.orders.map fun o =>
    if o.tid = a.tid ∧ o.tag = a.tag then
      { o with cls := if a.kind.ordered then some cls else o.cls, store := o.store && toPort }
    else o }

/-- The interface learns that an access is settled. -/
def State.settle (s : State) (a : Access) : State :=
  if a.kind.lineOrdered then
    s.modOwner a.region a.core (·.modNet fun n => { n with orders := n.orders.filter fun o => !(o.tid == a.tid && o.tag == a.tag) })
  else s

/-- An access to a strongly ordered page follows an earlier one of its threadlet (R363, R446). -/
def Core.classWaits (k : Core) (a : Access) (cls : Nat) : Bool :=
  cls == 1 && k.net.orders.any fun o => o.tid == a.tid && decide (o.tag < a.tag) && (o.cls == none || o.cls == some 1)

/-- The interface does not yet let an access of a class be performed (R197, R204, R446). -/
def Core.orderWaits (k : Core) (a : Access) (cls : Nat) : Bool :=
  a.kind.ordered &&
    (k.classWaits a cls ||
     (cls != 2 && (k.acquires a.tid a.tag != [] || (a.rel && k.releaseWaits a.tag a.scope))))

/-- An access still on its way to its home slice will be translated to a page outside the aperture, as the tables stand. -/
def State.missesPort (s : State) (region : Option Nat) (c tag : Nat) : Bool :=
  s.msgs.any fun m => match m.dst, m.body with
    | .slice h, .access b => b.core == c && b.region == region && b.tag == tag && match s.peekTrans h b.asid b.va b.kind.need with
      | .ok pa .. => s.paKind pa != .aperture
      | _ => false
    | _, _ => false

/-- The earlier stores of the threadlet that may be on their way to the host (R63, R370). -/
def State.portLeads (s : State) (k : Core) (a : Access) : List OrderRec :=
  if a.kind.posted then k.net.orders.filter fun o =>
    o.store && o.tid == a.tid && decide (o.tag < a.tag) && !s.missesPort a.region a.core o.tag
  else []

/-- It keeps its place among the accesses of its core, or of the host, to a line that different VAs name (R362, R370). -/
def AccKind.aliased : AccKind → Bool
  | .hostWrite => true
  | k => k.lineOrdered

/-- An earlier access of the same core, or of the host, to the same line is held at the slice (R362, R370). -/
def heldLine (held : List (Access × Nat × Nat)) (a : Access) (pa : Nat) : Bool :=
  a.kind.holdable && a.kind != .ldf && held.any fun e =>
    e.1.kind != .ldf && e.1.core == a.core && e.1.region == a.region && e.2.2 / 64 == pa / 64 && !e.1.freely a

/-- The LDFs on a line that are parked, or come to be parked when its miss is over. -/
def State.ldfsAt (s : State) (h pa : Nat) : List Access :=
  let l := s.slice (s.agentOf h pa)
  (l.ldf.filter (·.2 / 64 == pa / 64)).map (·.1) ++
    (l.misses.filter (·.1 == pa / 64)).flatMap fun m => (m.2.map (·.1)).filter (·.kind == .ldf)

/-- Who sees what the access sees: a threadlet, or, with core 0xFFF, the host or the device's own work. An LDF has no place among
its core's accesses to its line (R362). -/
def Access.viewer (a : Access) : Viewer :=
  { core := a.core, tag := if a.kind.lineOrdered then some a.tag else none, writes := a.kind.need.isWrite }

/-- Setting the line full would have an LDF on it read the line without a write that comes first for it (R200, R359). `own` tells what the setter
itself comes before. -/
def State.ldfEarly (s : State) (h pa : Nat) (own : EarlyRel → Bool) : Bool :=
  (s.earlyAt h pa).any fun e => !own e && s.earlyStands e && (s.ldfsAt h pa).any fun b => e.blocks b.viewer

/-- Access b, of the same core as a, or of the host as a, but issued before it, touches the line of `pa`, where b's own place is `at_`
(R362, R370; R325 may leave bank operations free). -/
def Access.leads (b a : Access) (at_ pa : Nat) : Bool :=
  b.kind.aliased && b.core == a.core && b.region == a.region && decide (b.tag < a.tag) && at_ / 64 == pa / 64 &&
    !b.freely a

/-- An earlier access of the core, or write of the host, to the same line of direct memory or of the host's is still on its way to another
home slice, under another VA (R362, R370). Of HBM R337 forbids such VAs. -/
def State.aliasComing (s : State) (h : Nat) (a : Access) (pa : Nat) : Bool :=
  match s.paKind pa with
  | .direct _ | .aperture =>
    a.kind.aliased && s.msgs.any fun m => match m.dst, m.body with
      | .slice g, .access b => g != h && match s.peekTrans g b.asid b.va b.kind.need with
        | .ok at_ .. => b.leads a at_ pa
        | _ => false
      | _, _ => false
  | _ => false

/-- Such accesses that are held at another home slice. -/
def State.aliasHeld (s : State) (h : Nat) (a : Access) (pa : Nat) : List Access :=
  match s.paKind pa with
  | .direct _ | .aperture =>
    if a.kind.aliased then s.slices.flatMap fun l => if l.1 = h then [] else (l.2.held.filter fun e => e.1.leads a e.2.2 pa).map (·.1)
    else []
  | _ => []

/-- The access would set its line full while an LDF there is to see first what R359 has it see. -/
def State.fillWaits (s : State) (h : Nat) (a : Access) (leaf pa : Nat) : Bool :=
  (a.kind == .stf || a.kind == .feop true) && leafSync leaf &&
    s.ldfEarly h pa fun e => e.core == a.core && e.region == a.region && decide (a.tag ≤ e.ord)

/-- What a translated access is not performed before: those of its line that are held before it, or come under another VA; what agents
of its scope are to see first; what its class or its release makes it follow; the core's stores to the host. `early` leaves out
the stores and the acquires that it follows (R359). -/
def State.mustHold (s : State) (h : Nat) (held : List (Access × Nat × Nat)) (a : Access) (leaf pa : Nat) (early : Bool) : Bool :=
  heldLine held a pa || s.aliasComing h a pa || s.aliasHeld h a pa != [] || s.earlyWaits h pa a.viewer || s.fillWaits h a leaf pa ||
    match s.owner a.region a.core with
    | some k =>
      (if early then a.kind.ordered && k.classWaits a (leafOrd leaf) else k.orderWaits a (leafOrd leaf)) ||
        (s.paKind pa == .aperture && s.portLeads k a != [])
    | none => false

/-! ### Answers (R195, R205, R332) -/

/-- What the host receives (R62, R65): the bytes read, one a word; nothing for a write. -/
def State.hostAnswer (s : State) (bs : List Byte) : State :=
  { s with port := { s.port with replies := s.port.replies ++ [bs.map (·.setWidth 64)] } }

/-- An access has been performed: a store is acknowledged, everything else signals with status 0, or 2 after RESUME;
what was read travels with the signal (R37, R419). -/
def State.answer (s : State) (h : Nat) (a : Access) (bs : List Byte) : State :=
  let s := s.settle a
  if a.kind.posted then
    s.send { src := .slice h, dst := .core a.core, chan := .reply, region := a.region, body := .storeAck a.entry a.tag a.tid }
  else match a.ref with
    | some r =>
      s.sendArrival (.slice h) { signalArrival r (if a.resumed then 2 else 0) (if a.resumed then 0x13 else 0) 0 with
        scratch := match a.dst with
          | some d => [(a.core, d, bs)]
          | none => [] }
    | none => if a.kind = .hostRead then s.hostAnswer bs else s

/-- REASON of a refusal (R205). -/
def refusalReason (cause : Nat) : Nat := match cause with | 0x13 => 1 | 0x02 => 2 | _ => 3

/-- An access ends unperformed (R62, R195, R205): a store is refused; everything else signals status 3 and posts its
record, or for cause 0x13 the recorded trap. An access of the host that ends for another cause than ABORT is dropped, or reads all
ones, and the error word does not record it (a choice: R62; assumption log, entry 71). -/
def State.failAccess (s : State) (h : Nat) (a : Access) (cause value : Nat) : State :=
  let s := s.settle a
  if a.kind.posted then
    s.send { src := .slice h, dst := .core a.core, chan := .reply, region := a.region
             body := .storeRefusal a.entry (refusalReason cause) a.tag a.tid }
  else match a.kind with
    | .hostRead => (if cause = 0x13 then s.logError 2 a.va else s).hostAnswer (List.replicate a.size 0xFF)
    | .hostWrite => if cause = 0x13 then s.logError 2 a.va else s
    | .ifetch => s.modOwner a.region a.core (·.modPl fun p =>
        if p.pipe = .fetchWait then { p with pipe := .run, fetchTrap := some (cause, value) } else p)
    | _ =>
      let s := s.postFor a.region a.core (cause == 0x13) cause 7 0 a.epc a.handle value (statusWord 3 cause 0)
      match a.ref with
      | some r => s.signal (.slice h) r 3 cause 0
      | none => s

/-- A write to a watched page advances its generation before it is answered (R348). -/
def State.answerWrite (s : State) (h : Nat) (a : Access) (leaf : Nat) (bs : List Byte) : State :=
  if leafWatch leaf then
    let p := leafPage a.va leaf
    s.send { src := .slice h, dst := .slice (homeSlice p.1), chan := .request
             body := .watchAdvance a.asid p.1 p.2 a bs }
  else s.answer h a bs

/-! ### Bank operations (R209-R211) -/

/-- The new value of a bank operation on w bits; none when nothing is written. -/
def bankOp (op w old b c : Nat) : Option Nat :=
  let b := b % 2 ^ w
  let sOld := toSigned w old
  let sB := toSigned w b
  match op with
  | 0 => some ((old + b) % 2 ^ w)
  | 1 => some ((old + 2 ^ w - b) % 2 ^ w)
  | 2 => some (old &&& b)
  | 3 => some (old ||| b)
  | 4 => some (old ^^^ b)
  | 5 => some (if sB < sOld then b else old)
  | 6 => some (if sOld < sB then b else old)
  | 7 => some (min old b)
  | 8 => some (max old b)
  | 9 => some b
  | 10 => some (fAdd (fmtOf 1) 0 0 (unpack (fmtOf 1) old) (unpack (fmtOf 1) b)).1
  | 11 => some (fAdd (fmtOf 3) 0 0 (unpack (fmtOf 3) old) (unpack (fmtOf 3) b)).1
  | 12 => if old < c % 2 ^ w then some ((old + b) % 2 ^ w) else none
  | _ => none

/-! ### Performing (R194, R199-R206, R332, R335, R336) -/

/-- The LDFs parked on a line read it as the write left it, each under its own leaf's key, in the order of parking (R200,
R352). -/
def State.releaseLdf (s : State) (h pa : Nat) : State :=
  let g := s.agentOf h pa
  let l := s.slice g
  let hit := l.ldf.filter fun e => e.2 / 64 == pa / 64
  if hit = [] then s
  else hit.foldl (fun s e =>
    match s.readAt h e.2 e.1.size (leafKey e.1.leaf) e.1.th with
    | (s, some bs) => s.answer g e.1 bs
    | (s, none) => s.failAccess g e.1 0x10 e.2) (s.setSlice g { l with ldf := l.ldf.filter fun e => e.2 / 64 != pa / 64 })

/-- Bytes written, and the answer. -/
def State.performWrite (s : State) (h : Nat) (a : Access) (pa leaf : Nat) (bs old : List Byte) (th : Nat) (full : Option Bool) :
    State :=
  match s.writeAt h pa bs (leafKey leaf) th full with
  | (s, true) =>
    let s := if full = some true then s.releaseLdf h pa else s
    s.answerWrite h a leaf old
  | (s, false) => s.failAccess h a 0x10 pa

/-- What the access does on HBM or direct memory. -/
def State.performKind (s : State) (h : Nat) (a : Access) (pa leaf : Nat) : State :=
  let key := leafKey leaf
  let sync := leafSync leaf
  match a.kind with
  | .fetch =>
    match s.readAt h pa a.size key a.th with
    | (s, some bs) => (if s.regionOf a.core = a.region then s.constFill a.core a.asid a.va a.size else s).answer h a bs
    | (s, none) => s.failAccess h a 0x10 pa
  | .ldf =>
    if sync && !s.lineFull h pa then
      let g := s.agentOf h pa
      let l := s.slice g
      if l.ldf.length < 256 then s.setSlice g { l with ldf := l.ldf ++ [({ a with since := s.cycles, leaf := leaf }, pa)] }
      else { s with msgs := { src := .core a.core, dst := .slice h, chan := .request, body := .access a } :: s.msgs }
    else
      match s.readAt h pa a.size key a.th with
      | (s, some bs) => s.answer h a bs
      | (s, none) => s.failAccess h a 0x10 pa
  | .post => s.performWrite h a pa leaf a.data [] a.th none
  | .hostWrite => s.performWrite h a pa leaf a.data [] a.th none
  | .stn => (s.performWrite h a pa leaf a.data [] 1 none).lowRetention h (pa / 64)
  | .stf => s.performWrite h a pa leaf a.data [] a.th (if sync then some true else none)
  | .feop full =>
    if sync then
      let s := s.setLineFull h pa key a.th full
      (if full then s.releaseLdf h pa else s).answerWrite h a leaf []
    else s.answer h a []
  | .aop op =>
    match s.readAt h pa a.size key a.th with
    | (s, none) => s.failAccess h a 0x10 pa
    | (s, some bs) =>
      match bankOp op (8 * a.size) (leNat bs) a.b a.c with
      | some v => s.performWrite h a pa leaf (natLE a.size v) bs a.th none
      | none => s.answer h a bs
  | .acas =>
    match s.readAt h pa a.size key a.th with
    | (s, none) => s.failAccess h a 0x10 pa
    | (s, some bs) =>
      if leNat bs = a.b % 2 ^ (8 * a.size) then s.performWrite h a pa leaf (natLE a.size a.c) bs a.th none
      else s.answer h a bs
  | .hostRead =>
    match s.readAt h pa a.size key a.th with
    | (s, some bs) => s.answer h a bs
    | (s, none) => s.failAccess h a 0x10 pa
  | _ => s

/-- The access is performed on HBM or direct memory. -/
def State.perform (s : State) (h : Nat) (a : Access) (pa leaf : Nat) : State :=
  (s.performKind h a pa leaf).noteLine h pa a.asid a.va

/-! ### The host aperture, and fences (R63, R208, R336, R359) -/

/-- A store that the fence covers has not been performed at its scope; for a DRAIN, has not left the journal (R207, R208). -/
def Fence.awaits (f : Fence) (e : JEntry) : Bool :=
  (if f.drain then e.state == 1 && e.kind == 4 else !e.doneAt f.scope && e.covered) && decide (e.ord < f.upto)

def Core.fenceWaits (c : Core) (f : Fence) : Bool := c.net.journal.any fun e => f.awaits e.2

/-- Fences whose stores are all settled signal. -/
def State.settleFences (s : State) (region : Option Nat) (c : Nat) : State :=
  match s.owner region c with
  | none => s
  | some k =>
    let ready := k.net.fences.filter fun f => !k.fenceWaits f
    ready.foldl (fun s f => s.signal (.engine c) f.ref 0 0 0)
      (s.modOwner region c fun k => k.modNet fun n => { n with fences := n.fences.filter fun f => k.fenceWaits f })

/-- The Belide port accepts a store: it is performed at every scope but .sy (R359), and later stores to the host may follow
it (R63). -/
def State.portAccepts (s : State) (a : Access) : State :=
  let s := s.modOwner a.region a.core fun k =>
    (k.setJournal a.entry { k.journal a.entry with port := true }).modNet fun n =>
      { n with orders := n.orders.map fun o => if o.tag = a.tag then { o with store := false } else o }
  s.settleFences a.region a.core

/-- An access to the aperture goes to the host (R63, R336): the stores of one core in one order. -/
def State.toHost (s : State) (h : Nat) (a : Access) (pa leaf : Nat) : State :=
  let b := { a with leaf := leaf }
  match s.hostAddr pa with
  | none => (s.logError 3 pa).failAccess h a 0x05 pa
  | some x =>
    match a.kind with
    | .feop _ => s.answer h a []
    | .fetch => s.send { src := .core a.core, dst := .host, chan := .request, body := .hostMem false x [] (some b) }
    | .ldf | .hostRead => s.send { src := .slice h, dst := .host, chan := .request, body := .hostMem false x [] (some b) }
    | _ =>
      (if a.kind.posted then s.portAccepts a else s).send
        { src := .core a.core, dst := .host, chan := .request, body := .hostMem true x a.data (some b) }

/-- An LDF that can neither read its line nor be parked: the wait list of its performing agent is full (R200). -/
def State.ldfWaits (s : State) (h : Nat) (a : Access) (pa leaf : Nat) : Bool :=
  a.kind == .ldf && leafSync leaf && !s.lineFull h pa && decide (256 ≤ (s.slice (s.agentOf h pa)).ldf.length)

/-- The access reaches its performing agent: at once, or behind the miss of its line. None when no miss register has
room (R334), or no wait list (R200). -/
def State.reachAgent (s : State) (h : Nat) (a : Access) (pa leaf : Nat) : Option State :=
  match s.paKind pa with
  | .hbm =>
    let l := s.slice h
    match l.misses.findIdx? fun e => e.1 == pa / 64 with
    | some n =>
      if (l.misses.getD n (0, [])).2.length < 32 then
        some (s.setSlice h { l with misses := l.misses.modify n fun e => (e.1, e.2 ++ [(a, leaf, pa)]) })
      else none
    | none =>
      if (s.cline h (pa / 64)).isSome then (if s.ldfWaits h a pa leaf then none else some (s.perform h a pa leaf))
      else if l.regsUsed < 64 then some (s.setSlice h { l with misses := l.misses ++ [(pa / 64, [(a, leaf, pa)])] })
      else none
  | .direct _ => if s.ldfWaits h a pa leaf then none else some (s.perform h a pa leaf)
  | _ => some (s.toHost h a pa leaf)

/-- The fault-reply window takes a POST.n64 at the line of its slice, nothing else (R347). -/
def isReply (a : Access) (pa : Nat) : Bool := a.kind == .post && a.size == 8 && pa % 64 == 0

/-- The core's interface learns what the access found. -/
def State.noteClass (s : State) (a : Access) (pa leaf : Nat) : State :=
  if a.kind.lineOrdered then
    s.modOwner a.region a.core (·.orderClass a (leafOrd leaf) (s.paKind pa == .aperture && !(a.kind matches .feop _)))
  else s

/-- The slice holds a translated access. -/
def State.holdAt (s : State) (h : Nat) (a : Access) (pa leaf : Nat) : State :=
  let l := s.slice h
  s.setSlice h { l with held := l.held ++ [(a, leaf, pa)] }

/-- An access that nothing holds goes on: one for the fault-reply window to the slice that the window names, any other to its agent. -/
def State.goOn (s : State) (h : Nat) (a : Access) (pa leaf : Nat) : Option State :=
  match s.paKind pa with
  | .reply w => some (s.send { src := .slice h, dst := .slice w, chan := .request, body := .faultReply (leNat a.data) { a with leaf := leaf } })
  | _ => s.reachAgent h a pa leaf

/-- A translated access (R195, R336, R347, R446). -/
def State.accessAt (s : State) (h : Nat) (a : Access) (pa leaf : Nat) : Option State :=
  let s1 := s.noteClass a pa leaf
  let waits := s.mustHold h (s.slice h).held a leaf pa false
  let hold (s : State) : State := s.holdAt h a pa leaf
  match s.paKind pa with
  | .beyond => some (s.failAccess h a 0x05 pa)
  | .reply _ =>
    if !isReply a pa then some (s.failAccess h a 0x05 pa)
    else if waits then some (hold s1) else s1.goOn h a pa leaf
  | .aperture => if a.kind.isBank then some (s.failAccess h a 0x05 pa) else if waits then some (hold s1) else s1.reachAgent h a pa leaf
  | _ => if waits then some (hold s1) else s1.reachAgent h a pa leaf

/-- An access at its home slice (R332, R345, R362); none when it cannot be taken now. -/
def State.access (s : State) (h : Nat) (a : Access) : Option State :=
  match (s.slice h).faultAt a.asid a.va with
  | some n => s.joinFault h n (.access a)
  | none =>
    if s.walkWaits h a.asid a.va a.kind.need a.viewer then none
    else match s.gTrans a.asid a.va a.kind.need with
    | (t, .ok (pa, leaf)) => t.accessAt h a pa leaf
    | (t, .error (.abort va)) => some (t.failAccess h a 0x13 va)
    | (t, .error (.cause c v)) => some (t.failAccess h a c v)
    | (t, .error e) => t.parkErr a.asid a.core a.handle e (.access a)

/-! ### Events of a slice -/

/-- The accesses of a miss register in their order; LDFs that no wait list takes go back to the request channel. -/
def State.fillPerforms (s : State) (h : Nat) : List (Access × Nat × Nat) → State × List Msg
  | [] => (s, [])
  | (a, leaf, pa) :: es =>
    if s.ldfWaits h a pa leaf then
      let (s, ms) := s.fillPerforms h es
      (s, { src := .core a.core, dst := .slice h, chan := .request, body := .access a } :: ms)
    else (s.perform h a pa leaf).fillPerforms h es

/-- LINE_FILL: the line of a miss register arrives (R334). -/
def execLineFill (h n : Nat) (s : State) : Out :=
  let l := s.slice h
  match l.misses[n]? with
  | none => .next s
  | some (line, as) =>
    let s := s.setSlice h { l with misses := l.misses.eraseIdx n }
    let s := match as with
      | [] => s
      | (a, leaf, _) :: _ => (s.ensureLine h line (leafKey leaf) (if a.kind = AccKind.stn then 1 else a.th)).1
    let (s, ms) := s.fillPerforms h as
    .next { s with msgs := ms ++ s.msgs }

/-- HELD_ACCESS_RELEASE: a held access that follows nothing unsettled any more (R446). -/
def execHeldAccessRelease (h n : Nat) (s : State) : Out :=
  let l := s.slice h
  match l.held[n]? with
  | none => .next s
  | some (a, leaf, pa) =>
    if s.mustHold h (l.held.take n) a leaf pa false then .next s
    else .next (((s.setSlice h { l with held := l.held.eraseIdx n }).goOn h a pa leaf).getD s)

/-- What a held access of core k follows, each by its place in issue order and the narrowest scope that orders the two: the stores
of a release, the acquires of its threadlet, its threadlet's accesses to strongly ordered pages. -/
def Core.follows (k : Core) (a : Access) (leaf : Nat) : List (Nat × Nat) :=
  if a.kind.ordered && leafOrd leaf != 2 then
    (if a.rel then (k.net.journal.filter (·.2.leads a.tag a.scope)).map fun e => (e.2.ord, a.scope) else []) ++
      (k.acquires a.tid a.tag).map (fun o => (o.tag, o.scope)) ++
      if leafOrd leaf = 1 then
        (k.net.orders.filter fun o => o.tid == a.tid && decide (o.tag < a.tag) && (o.cls == none || o.cls == some 1)).map fun o => (o.tag, 7)
      else []
  else []

/-- Where the access of place `ord` of core c of a region waits at a slice, held or for a miss: the slice, what is held before it,
the access, its leaf and PA. -/
def State.placeOf (s : State) (region : Option Nat) (c ord : Nat) : Option (Nat × List (Access × Nat × Nat) × Access × Nat × Nat) :=
  let is (a : Access) : Bool := a.core == c && a.region == region && a.tag == ord && a.kind.lineOrdered
  s.slices.findSome? fun e =>
    (e.2.held.zipIdx.findSome? fun x => if is x.1.1 then some (e.1, e.2.held.take x.2, x.1) else none).or
      (e.2.misses.findSome? fun m => m.2.findSome? fun x => if is x.1 then some (e.1, [], x) else none)

/-- What agents of a scope wait for while an access that has been translated is not performed. -/
def Access.guard (a : Access) (leaf pa : Nat) (kind : PaKind) (sc : Nat) : EarlyRel :=
  let w := a.kind.need.isWrite
  { line := pa / 64, core := a.core, region := a.region, ord := a.tag, scope := sc, writes := w
    walked := w && kind matches .direct _
    page := if w && leafWatch leaf then some (a.asid, leafPage a.va leaf) else none
    port := w && kind == .aperture }

/-- What keeps agents inside scopes from seeing that some accesses of core c have not been performed, nor those that these follow:
`work` names them, each with its scope; none when one of them has not come to a slice. -/
def State.guards (s : State) (region : Option Nat) (c : Nat) (k : Core) :
    Nat → List (Nat × Nat) → List (Nat × EarlyRel) → Option (List (Nat × EarlyRel))
  | _, [], es => some es
  | 0, _ :: _, _ => none
  | f + 1, (ord, sc) :: work, es =>
    if es.any fun e => e.2.ord == ord && decide (sc ≤ e.2.scope) then s.guards region c k f work es
    else match s.placeOf region c ord with
      | none => none
      | some (h, before, a, leaf, pa) =>
        match s.paKind pa with
        | .reply _ | .beyond => none
        | kind =>
          if s.aliasComing h a pa then none else
          let near := ((before.filter fun e => e.1.core == c && e.1.region == region && e.2.2 / 64 == pa / 64 && e.1.kind.lineOrdered &&
            !e.1.freely a).map (·.1) ++ s.aliasHeld h a pa).map fun b => (b.tag, 7)
          let port := if kind = .aperture then (s.portLeads k a).map fun o => (o.tag, 7) else []
          s.guards region c k f (((k.follows a leaf ++ near ++ port).map fun x => (x.1, min x.2 sc)) ++ work)
            ((s.agentOf h pa, a.guard leaf pa kind sc) :: es)

/-- How many accesses `guards` may look at. -/
def Core.guardFuel (k : Core) : Nat := (k.net.orders.length + 1) * (k.net.orders.length + 1) * 8

/-- The agents that perform them watch for some accesses; what has been performed is watched for no more. -/
def State.addEarly (s : State) (es : List (Nat × EarlyRel)) : State :=
  es.foldl (fun s e => s.setSlice e.1 { s.slice e.1 with early := (s.slice e.1).early.filter s.earlyStands ++ [e.2] }) s

/-- A held access that follows stores or acquires of scopes narrower than .sy is performed before them, as agents outside those
scopes may see it (R359): those inside do not touch the lines of what it follows until that has been performed, nor flush a cache, nor
read page tables in direct memory or the generation of a page that it writes. -/
def State.releaseEarly (s : State) (h n : Nat) : State :=
  match (s.slice h).held[n]? with
  | none => s
  | some (a, leaf, pa) =>
    match s.owner a.region a.core with
    | none => s
    | some k =>
      let fs := k.follows a leaf
      if fs = [] || fs.any (fun e => decide (6 ≤ e.2)) || s.mustHold h ((s.slice h).held.take n) a leaf pa true then s
      else match s.guards a.region a.core k k.guardFuel fs [] with
        | none => s
        | some es =>
          match (s.setSlice h { s.slice h with held := (s.slice h).held.eraseIdx n }).goOn h a pa leaf with
          | none => s
          | some t => t.addEarly es

/-- FENCE n of core c, of a scope narrower than .sy, signals before the stores it covers are performed, as agents outside its scope may see
it (R359): those inside do not touch their lines until they are. A DRAIN never does: it waits for the journal entries, which the home
slices' acknowledgements release (R205, R207). -/
def State.earlyFence (s : State) (c n : Nat) : State :=
  let k := s.core c
  match k.net.fences[n]? with
  | none => s
  | some f =>
    if f.drain || decide (6 ≤ f.scope) then s
    else match s.guards (s.regionOf c) c k k.guardFuel ((k.net.journal.filter fun e => f.awaits e.2).map fun e => (e.2.ord, f.scope)) [] with
      | none => s
      | some es =>
        ((s.addEarly es).modCore c (·.modNet fun n' =>
          { n' with fences := n'.fences.eraseIdx n })).signal (.engine c) f.ref 0 0 0

/-- LDF_TIMEOUT: 2^24 slice cycles, two core cycles each (R6, R200). -/
def execLdfTimeout (h n : Nat) (s : State) : Out :=
  let l := s.slice h
  match l.ldf[n]? with
  | none => .next s
  | some (a, _) =>
    if s.cycles < a.since + 2 ^ 25 then .next s
    else
      let s := s.setSlice h { l with ldf := l.ldf.eraseIdx n }
      match a.ref with
      | some r => .next (s.signal (.slice h) r 4 0 0)
      | none => .next s

/-- WATCH_ADVANCE: the generation advances, then the write is answered (R348). -/
def execWatchAdvance (k : Nat) (s : State) : Out :=
  match s.deliverable k with
  | some { src := .slice h, body := .watchAdvance asid page size a bs, .. } =>
    .next (((s.dropMsg k).watchBump asid page size).answer h a bs)
  | _ => .next s

/-- HOST_MEMORY_ACCEPTANCE: the host takes a write or answers a read (R63). -/
def execHostMemoryAcceptance (k : Nat) (s : State) : Out :=
  match s.deliverable k with
  | some { body := .hostMem write x bs a, .. } =>
    let s := s.dropMsg k
    let s := if write then { s with port := { s.port with hostMem := writeCells s.port.hostMem x bs } } else s
    match a with
    | some a =>
      let h := homeSlice a.va
      .next (if write then s.answerWrite h a a.leaf [] else s.answer h a (readCells s.port.hostMem x a.size))
    | none => .next s
  | _ => .next s

/-! ### Soft errors (R354, R355) -/

/-- What a location of SCRUB and SOFT_ERROR names (assumption log, entry 9). -/
inductive SoftLoc where
  /-- A 64-bit word of a core's scratchpad. -/
  | scratch (c w : Nat)
  /-- A line of memory by PA / 64, and in it a symbol of HBM or a word of slice SRAM. -/
  | memory (line place : Nat)
  /-- A word of a line as a slice holds it. -/
  | cached (h line w : Nat)

/-- Below 2^40 core × 2^17 + word; from there to 2^45 line × 64 + symbol; above, (slice × 2^38 + line) × 8 + word. -/
def softLoc (loc : Nat) : SoftLoc :=
  if loc < 2 ^ 40 then .scratch (loc / 2 ^ 17 % 4096) (loc % 2 ^ 17)
  else if loc < 2 ^ 45 then .memory ((loc - 2 ^ 40) / 64) (loc % 64)
  else .cached ((loc - 2 ^ 45) / 2 ^ 41 % 256) ((loc - 2 ^ 45) / 8 % 2 ^ 38) ((loc - 2 ^ 45) % 8)

/-- The correctable errors e of a line after n bits of one word strike it; none when that cannot be corrected. -/
def strikeWord (e w n : Nat) : Option Nat := if 2 ≤ n || e.testBit w then none else some (e ||| 2 ^ w)

/-- The same of a line of HBM, of which n symbols are struck, the first at `place`: one symbol, however often, is
corrected. -/
def strikeSymbol (e place n : Nat) : Option Nat :=
  if 2 ≤ n || (e != 0 && e != place + 1) then none else some (place + 1)

/-- A line of memory as a strike leaves it: with its correctable errors, or with an uncorrectable one. -/
def Memory.struck (m : Memory) (line : Nat) : Option Nat → Memory
  | some e => { m with soft := Sparse.set 0 m.soft line e }
  | none => { m with bad := Sparse.set false m.bad line true, soft := Sparse.set 0 m.soft line 0 }

/-- SOFT_ERROR: `bits` bits of one word, or symbols of one line of HBM, are struck (R354). -/
def execSoftError (loc bits : Nat) (s : State) : Out :=
  if bits = 0 then .next s
  else match softLoc loc with
    | .scratch c w =>
      .next (s.modCore c (·.modScr fun m =>
        if Sparse.get false m.bad w then m
        else if 2 ≤ bits || Sparse.get false m.soft w then
          { m with bad := Sparse.set false m.bad w true, soft := Sparse.set false m.soft w false }
        else { m with soft := Sparse.set false m.soft w true }))
    | .memory line place =>
      let e := Sparse.get 0 s.mem.soft line
      if Sparse.get false s.mem.bad line then .next s
      else match s.protection line with
        | .sram _ => .next { s with mem := s.mem.struck line (strikeWord e (place % 8) bits) }
        | .hbm => .next { s with mem := s.mem.struck line (strikeSymbol e place bits) }
        | .none => .next s
    | .cached h line w =>
      match s.cline h line with
      | none => .next s
      | some c =>
        if c.bad then .next s
        else match strikeWord c.soft w bits with
        | some e => .next (s.setCline h line (some { c with soft := e }))
        | none => .next (s.setCline h line (some { c with soft := 0, bad := true }))

/-- SCRUB: correctable errors are corrected and counted by their memory; a slice that finds an uncorrectable one poisons the line, a
controller leaves it (a choice: R355; assumption log, entry 9). -/
def execScrub (loc : Nat) (s : State) : Out :=
  match softLoc loc with
  | .scratch c w =>
    .next (s.modCore c (·.modScr fun m =>
      if Sparse.get false m.soft w then { m with soft := Sparse.set false m.soft w false, corrected := (m.corrected + 1) % 2 ^ 32 }
      else m))
  | .memory line _ =>
    .next (match s.protection line with
      | .sram _ => s.scanLine line
      | _ => s.correctLine line)
  | .cached h line _ => .next (s.scanCached h line)

end Sys2Proof.Machine
end

