-- ==== Sys2Proof/Machine/MemoryOps.lean ====
section
/-! DEFINITION. Instructions of memory and queues that issue accesses or act at once: LD, ST, full/empty and global
accesses, the journal, FENCE and DRAIN, bank operations, prefetch, queues, bindings, TLBI and CFLUSH (R193-R211, R213,
R220-R225, R227, R230, R231), with the network interface's events. -/

namespace Sys2Proof.Machine

/-- Bytes of a size code (R110). -/
def Ctx.size (k : Ctx) : Nat := 2 ^ k.m

/-! ### LD and ST (R198, R257, R355) -/

/-- The descriptor window (R257). -/
def inWindow (v : Nat) : Bool := decide (0x800000 ≤ v) && decide (v < 0x800040)

/-- LD: the descriptor window takes LD.n64 alone: another size has cause 0x04, LD.i64 is another instruction and has 0x05. -/
def opLd (k : Ctx) (s : State) : Out :=
  run false k s fun s =>
    let v := k.ea s
    let n := k.size
    if inWindow v then
      if n ≠ 8 ∨ v % 8 ≠ 0 then trapOut s 0x04 v
      else if k.xop % 2 = 1 then trapOut s 0x05 v
      else setG k s (s.me.td ((v - 0x800000) / 8)).toNat
    else checkLocal s v n n <|
      let s := s.localReach s.cur v n
      checkEcc s v n <| setG k s (if k.xop % 2 = 1 then signExtend (8 * n) (s.localN s.cur v n) else s.localN s.cur v n)

/-- A value that R257 lets a descriptor hold. -/
def tdOk (v : Nat) : Bool := decide (v / 2 ^ 41 = 0) && decide (bits v 31 28 ≤ 10)

/-- ST: a store narrower than a word merges, and so meets the word's error. -/
def opSt (k : Ctx) (s : State) : Out :=
  run false k s fun s =>
    let v := k.ea s
    let n := k.size
    if inWindow v then
      if n ≠ 8 ∨ v % 8 ≠ 0 then trapOut s 0x04 v
      else if tdOk (k.vD s) then done k s (·.setTd ((v - 0x800000) / 8) (BitVec.ofNat 64 (k.vD s)))
      else trapOut s 0x02 (k.vD s)
    else checkLocal s v n n <|
      let s := if n = 8 then s else s.localReach s.cur v n
      if n ≠ 8 ∧ s.localBad s.cur v n then trapOut s 0x10 v
      else .next ((s.localWrite s.cur v (natLE n (k.vD s))).advance k.len)

/-! ### Accesses of the core's network interface (R197, R203-R206, R446) -/

/-- An access as the moving core issues it. -/
def Ctx.acc (k : Ctx) (s : State) (kind : AccKind) (n : Nat) : Access :=
  { kind := kind, core := s.cur, va := k.ea s, size := n, asid := s.me.net.asid, th := k.x.th.toNat, epc := s.me.pl.pc
    handle := s.me.pl.handle, region := s.regionOf s.cur, tid := s.me.pl.tid, tag := s.me.net.ord, scope := k.sc }

/-- It goes to its home slice, and joins what the interface orders. -/
def State.sendAccess (s : State) (a : Access) : State :=
  (s.modMe (·.modNet fun n =>
    { n with ord := n.ord + 1
             orders := if a.kind.lineOrdered then n.orders ++ [{ tid := a.tid, tag := a.tag, acq := a.acq, scope := a.scope
                                                                 cls := if a.kind.ordered then none else some 2
                                                                 store := a.kind.posted && !(a.kind matches .feop _) }]
                       else n.orders })).send
    { src := .core s.cur, dst := .slice (homeSlice a.va), chan := .request, body := .access a }

/-- FETCH and LDF (R200, R203): a constant held by the core's cache is read there (R23). -/
def opFetch (kind : AccKind) (k : Ctx) (s : State) : Out :=
  run false k s fun s =>
    let n := k.size
    let ea := k.ea s
    let v := k.vD s
    checkGlobal s ea n <| checkLocal s v n n <| withRef k s fun r =>
      let s := issued s r
      match (if kind = .fetch then s.constHit s.cur ea n else none) with
      | some bs => .next ((s.sendArrival (.engine s.cur) { signalArrival r 0 0 0 with scratch := [(s.cur, v, bs)] }).advance k.len)
      | none => .next ((s.sendAccess { k.acc s kind n with ref := some r, dst := some v, acq := kind == .fetch && k.xop % 2 == 1 }).advance k.len)

/-- A free journal entry (R205). -/
def Core.journalFree (c : Core) : Option Nat := firstFree (c.net.journal.map (·.1)) 64 0

/-- Word 0 of a journal entry (R205). -/
def JEntry.word0 (e : JEntry) : Nat := e.state * 2 ^ 62 + e.kind * 2 ^ 59 + e.size * 2 ^ 56 + e.reason * 2 ^ 52 + e.va

/-- A posted store takes a journal entry and goes out; with none free it holds issue (R205). -/
def opPosted (k : Ctx) (s : State) (a : Access) (jkind size data : Nat) : Out :=
  match s.me.journalFree with
  | none => .next s
  | some e =>
    let j : JEntry := { state := 1, kind := jkind, size := size, va := a.va, epc := a.epc, handle := a.handle, data := data, ord := a.tag }
    .next (((s.modMe (·.setJournal e j)).sendAccess { a with entry := e }).advance k.len)

/-- A posted store whose local data has an uncorrectable error is refused where it stands, as R355 has it of one that merges into a
poisoned line (a choice: assumption log, entry 38). -/
def refusePosted (k : Ctx) (s : State) (a : Access) (jkind size data : Nat) : Out :=
  match s.me.journalFree with
  | none => .next s
  | some e =>
    let j : JEntry := { state := 2, kind := jkind, size := size, reason := 3, va := a.va, epc := a.epc, handle := a.handle, data := data
                        ord := a.tag }
    .next (((s.modMe fun c => (c.setJournal e j).modNet fun n => { n with ord := n.ord + 1 }).post s.cur true 0x0B 6 e j.epc j.handle
      j.word0 j.data).advance k.len)

/-- POST, STF and STN: the data is gD up to 8 bytes, else read at issue from the local address gD (R201, R204, R206). -/
def opStore (kind : AccKind) (jkind : Ctx → Nat) (k : Ctx) (s : State) : Out :=
  run false k s fun s =>
    let n := k.size
    let v := k.vD s
    let a := { k.acc s kind n with rel := jkind k == 1 }
    checkGlobal s a.va n <|
      if k.m ≤ 3 then opPosted k s { a with data := natLE n v } (jkind k) k.m (v % 2 ^ (8 * n))
      else checkLocal s v n n <|
        let s := s.localReach s.cur v n
        if s.localBad s.cur v n then refusePosted k s a (jkind k) k.m v
        else opPosted k s { a with data := s.localRead s.cur v n } (jkind k) k.m v

/-- KIND of POST. -/
def postKind (k : Ctx) : Nat := k.xop % 2

/-- FEOP (R202); SIZE and DATA of its journal entry are 0 (a choice: R205; assumption log, entry 81). -/
def opFeop (k : Ctx) (s : State) : Out :=
  run false k s fun s =>
    let a := k.acc s (.feop (k.m == 1)) 1
    checkGlobal s a.va 1 <| opPosted k s a 3 0 0

/-! ### FENCE, DRAIN and the journal's answers (R205, R207, R208, R427) -/

/-- FENCE and DRAIN. -/
def opFence (drain : Bool) (k : Ctx) (s : State) : Out :=
  run false k s fun s => withRef k s fun r =>
    let s := (issued s r).modMe (·.modNet fun n => { n with fences := n.fences ++ [{ drain := drain, scope := k.sc, upto := n.ord, ref := r }] })
    .next ((s.settleFences (s.regionOf s.cur) s.cur).advance k.len)

/-- STORE_ACKNOWLEDGE: the entry is released (R205). -/
def execStoreAcknowledge (k : Nat) (s : State) : Out :=
  match s.deliverable k with
  | some { dst := .core c, region := i, body := .storeAck e tag _, .. } =>
    let t := ((s.dropMsg k).wakeOf i c).modOwner i c fun k => if (k.journal e).ord = tag then k.setJournal e {} else k
    .next (t.settleFences i c)
  | _ => .next s

/-- STORE_REFUSAL: the entry goes to STATE 2 and the recorded trap 0x0B names it (R205, R427). -/
def execStoreRefusal (k : Nat) (s : State) : Out :=
  match s.deliverable k with
  | some { dst := .core c, region := i, body := .storeRefusal e reason tag _, .. } =>
    let t := (s.dropMsg k).wakeOf i c
    match t.owner i c with
    | none => .next t
    | some w =>
      if (w.journal e).ord ≠ tag ∨ (w.journal e).state ≠ 1 then .next t
      else
        let j := { w.journal e with state := 2, reason := reason }
        let t := t.modOwner i c (·.setJournal e j)
        .next ((t.postFor i c true 0x0B 6 e j.epc j.handle j.word0 j.data).settleFences i c)
  | _ => .next s

/-! ### Bank operations and prefetch (R209-R211, R213) -/

/-- AOP: with D = 0 the old value is discarded. -/
def opAop (k : Ctx) (s : State) : Out :=
  run false k s fun s =>
    let n := k.size
    let ea := k.ea s
    let v := k.vD s
    let go : Out := withRef k s fun r =>
      let s := issued s r
      .next ((s.sendAccess { k.acc s (.aop k.xop) n with
        b := k.vB s, c := k.vC s, ref := some r, dst := if k.d = 0 then none else some v }).advance k.len)
    checkGlobal s ea n <| if k.d = 0 then go else checkLocal s v n n go

/-- The number in a register pair, or in one register (R211). -/
def pairVal (wide : Bool) (s : State) (r : Nat) : Nat :=
  (s.me.readG r).toNat + (if wide then (s.me.readG (r + 1)).toNat * 2 ^ 64 else 0)

/-- ACAS. -/
def opAcas (k : Ctx) (s : State) : Out :=
  run false k s fun s =>
    let n := k.size
    let v := k.vD s
    checkGlobal s (k.ea s) n <| checkLocal s v n n <| withRef k s fun r =>
      let s := issued s r
      .next ((s.sendAccess { k.acc s .acas n with
        b := pairVal (k.m == 4) s k.b, c := pairVal (k.m == 4) s k.c, ref := some r, dst := some v }).advance k.len)

/-- One line is brought in, if its translation holds, it is HBM and absent, and a miss register is free for it (R213, R334). -/
def State.prefetch (s : State) (asid va th : Nat) : State :=
  if 2 ^ 48 ≤ va ∨ th = 3 then s
  else
    let h := homeSlice va
    let l := s.slice h
    match s.peekTrans h asid va .read with
    | .ok pa leaf _ =>
      if s.paKind pa != .hbm || (s.cline h (pa / 64)).isSome || l.misses.any (fun e => e.1 == pa / 64) || decide (64 ≤ l.regsUsed) then s
      else s.setSlice h { l with misses := l.misses ++
        [(pa / 64, [({ kind := .pref, core := 0xFFF, va := va, size := 64, asid := asid, th := th }, leaf, pa)])] }
    | _ => s

/-- PREF: at most 16,384 lines. -/
def opPref (k : Ctx) (s : State) : Out :=
  run false k s fun s =>
    let ea := k.ea s
    checkGlobal s ea 1 <|
      let n := if k.vB s = 0 then 1 else min 16384 ((ea + k.vB s - 1) / 64 + 1 - ea / 64)
      .next (((List.range n).foldl (fun s i => s.prefetch s.me.net.asid (64 * (ea / 64 + i)) k.x.th.toNat) s).advance k.len)

/-! ### Queues (R220-R224, R404, R405) -/

/-- ENQ. -/
def opEnq (k : Ctx) (s : State) : Out :=
  run false k s fun s =>
    let q := k.vA s
    let c := q % 4096
    if 2 ^ 15 ≤ q then trapOut s 0x02 q
    else if !validCore c then trapOut s 0x06 q
    else withRef k s fun r =>
      .next (((issued s r).send
        { src := .core s.cur, dst := .core c, chan := .request, region := s.regionOf c
          outside := s.regionOf c != s.regionOf s.cur
          body := .enq (bits q 14 12) (k.vB s) (k.m % 2 == 1) false r 0 }).advance k.len)

/-- Configuration fields of R223. -/
def cfgGtix (w : Nat) : Nat := bits w 47 36
def cfgGlen (w : Nat) : Bool := w.testBit 33

/-- A glint handler of core c waits in the network for room in the backlog. -/
def State.glintWaits (s : State) (c : Nat) : Bool :=
  s.msgs.any fun m => m.dst == .core c && m.body matches .glint ..

/-- The glint handler of a dequeued control entry is allocated and queued (R223), behind those of control entries removed before
(R405). -/
def State.glint (s : State) (c cfg value : Nat) : State :=
  let m : Msg := { src := .core c, dst := .core c, chan := .request, region := s.regionOf c
                   body := .glint (cfgGtix cfg) (bits cfg 35 34) value }
  if s.glintWaits c then s.send m else (s.spawnOrWait c m).getD (s.send m)

/-- The head entry leaves local queue q of core c: TAKEN counts it; a control entry schedules the handler where GLEN
is set (R222, R404). -/
def State.takeEntry (s : State) (c q : Nat) : State :=
  let l := (s.core c).lq q
  match l.entries with
  | [] => s
  | (v, ctl) :: es =>
    let s := s.modCore c fun k => (k.setLq q { l with entries := es, rptr := (l.rptr + 1) % 2 ^ 64 }).modNet fun n => { n with taken := n.taken + 1 }
    if ctl && cfgGlen l.cfg then s.glint c l.cfg v else s

/-- Local queue q of a core is bound to a stream. -/
def Core.queueBound (k : Core) (q : Nat) : Bool :=
  k.regs.bind.any fun e => match e.2 with
    | some b => b.kind == 1 && !(b.words.getD 0 0).testBit 52 && bits (b.words.getD 0 0) 2 0 == q
    | none => false

/-- DEQ. -/
def opDeq (k : Ctx) (s : State) : Out :=
  run false k s fun s =>
    let q := s.me.lq k.a
    let no (s : State) : Out := done k s (·.writeP k.m false)
    if s.me.queueBound k.a then no s
    else match q.entries with
      | [] => no s
      | (v, ctl) :: _ =>
        let t := s.takeEntry s.cur k.a
        if ctl && cfgGlen q.cfg then no t
        else done k t fun c => (c.writeG k.d (BitVec.ofNat 64 v)).writeP k.m true

/-- QCFG. -/
def opQcfg (k : Ctx) (s : State) : Out :=
  run false k s fun s =>
    let w := k.vB s
    let g := cfgGtix w
    if 2 ^ 48 ≤ w ∨ bits w 8 1 ≠ 0 then trapOut s 0x02 w
    else if cfgGlen w && (decide (s.tlcnt ≤ g) || !(s.weaveOf s.cur).glint g || s.tplcnt == 0) then trapOut s 0x02 w
    else done k s fun c =>
      let l := c.lq k.a
      c.setLq k.a { l with cfg := w / 2 * 2, entries := if w % 2 = 1 then [] else l.entries }

/-! ### Stream bindings (R225, R227) -/

/-- A stride as R225 lays it out. -/
def strideOk (v : Nat) : Bool := bits v 63 40 == (if v.testBit 39 then 2 ^ 24 - 1 else 0)

/-- The descriptor words of a kind, each with whether it breaks no rule of R225. A channel's base that is no multiple of 64 and a ring of
more than 65,536 lines take cause 0x02 with the others (a choice: assumption log, entry 77). -/
def streamWords (kind : Nat) (w : List Nat) : List (Nat × Bool) :=
  let g (i : Nat) : Nat := w.getD i 0
  let fmt := bits (g 0) 51 48
  let zero (is : List Nat) : List (Nat × Bool) := is.map fun i => (g i, g i == 0)
  match kind with
  | 0 =>
    [(g 0, bits (g 0) 63 54 == 0 && decide (fmt ≤ 12)), (g 1, decide (bits (g 1) 31 0 ≠ 0) && decide (bits (g 1) 63 32 ≠ 0)),
     (g 2, decide (bits (g 2) 31 0 ≠ 0) && bits (g 2) 63 32 == 0), (g 3, strideOk (g 3)), (g 4, strideOk (g 4)),
     (g 5, strideOk (g 5))] ++ zero [6, 7]
  | 1 =>
    let dir := (g 0).testBit 52
    [(g 0, bits (g 0) 63 53 == 0 && bits (g 0) 47 3 == 0 && (!dir || bits (g 0) 2 0 == 0) && decide (fmt ≠ 0) && decide (fmt ≤ 12)),
     (g 1, if dir then decide (g 1 < 2 ^ 15) else g 1 == 0),
     (g 2, decide (bits (g 2) 31 0 ≠ 0) && bits (g 2) 63 32 == 0)] ++ zero [3, 4, 5, 6, 7]
  | _ =>
    [(g 0, bits (g 0) 63 53 == 0 && (g 0).testBit 52 && bits (g 0) 47 32 == 0 && decide (bits (g 0) 31 0 % 64 = 0) &&
        decide (fmt ≠ 0) && decide (fmt ≤ 12)),
     (g 1, decide (g 1 < 4096)), (g 2, decide (1 ≤ g 2) && decide (g 2 ≤ 65536)),
     (g 3, bits (g 3) 63 35 == 0)] ++ zero [4, 5, 6, 7]

/-- What is wrong with the places that a descriptor names, as cause and value: the core of a queue address (R220); of a channel the
destination core, which lies in the region of the issuing core, then its ring, which lies in that core's own scratchpad, then the
handle (R54, R328; the causes and their order are a choice: assumption log, entry 77). -/
def State.streamFail (s : State) (kind : Nat) (w : List Nat) : Option (Nat × Nat) :=
  let g (i : Nat) : Nat := w.getD i 0
  match kind with
  | 0 => none
  | 1 => if (g 0).testBit 52 && !validCore (g 1 % 4096) then some (0x06, g 1) else none
  | _ =>
    if !s.inRegion s.cur (g 1) then some (0x06, g 1)
    else if 0x100000 < bits (g 0) 31 0 + 64 * g 2 then some (0x05, bits (g 0) 31 0)
    else if !s.handleOk s.cur (bits (g 3) 31 0) then some (0x06, bits (g 3) 31 0)
    else none

/-- SBIND: the descriptor is read at issue; its reserved fields are looked at first, then the places it names. -/
def opSbind (k : Ctx) (s : State) : Out :=
  run false k s fun s =>
    let v := k.vA s
    checkLocal s v 64 64 <|
      let s := s.localReach s.cur v 64
      checkEcc s v 64 <|
        let w := (List.range 8).map fun i => s.localN s.cur (v + 8 * i) 8
        match (streamWords k.m w).find? fun e => !e.2 with
        | some e => trapOut s 0x02 e.1
        | none =>
          if s.me.streamBusy k.d then trapOut s 0x02 k.d
          else match s.streamFail k.m w with
            | some e => trapOut s e.1 e.2
            | none => done k s fun c => (c.setStream k.d (some { kind := k.m, words := w, id := c.eng.nextId })).modEng
              fun e => { e with nextId := e.nextId + 1 }

/-- SUNB and SUNB.query, whose count of consumed elements stands at 2^32 − 1 beyond that (a choice: R227; assumption log, entry 45). -/
def opSunb (k : Ctx) (s : State) : Out :=
  run false k s fun s =>
    if k.m = 1 then
      setG k s (match s.me.stream k.a with
        | some b => min b.used (2 ^ 32 - 1) * 2 ^ 32 + b2n (s.me.streamBusy k.a) * 8 + b.kind + 1
        | none => 0)
    else if s.me.streamBusy k.a then setG k s 1
    else done k s fun c => ((c.setStream k.a none).writeF k.a 0).writeG k.d 0

/-! ### Translation and slice maintenance (R230, R231) -/

/-- The slices of SC 4 and 5. -/
def scopeSlices (sc c : Nat) : List Nat :=
  if sc = 4 then (List.range 64).map (dieOf c * 64 + ·) else List.range 256

/-- A leaf, cached under asid with base va and a size code, is one that the TLBI names. -/
def tlbiHits (m asid va : Nat) (tAsid tVa tSize : Nat) : Bool :=
  match m with
  | 0 => tAsid == asid && va - va % pageSize tSize == tVa
  | 1 => tAsid == asid
  | _ => true

/-- An access whose leaf the TLBI invalidates takes its mark. -/
def Access.marked (m asid va : Nat) (mark : Nat × Nat) (leaf : Nat) (a : Access) : Access :=
  if tlbiHits m asid va a.asid (leafPage a.va leaf).1 (bits leaf 7 4) then { a with marks := a.marks ++ [mark] } else a

/-- A slice without the entries. -/
def Slice.tlbi (l : Slice) (m asid va : Nat) : Slice := { l with tlb := l.tlb.filter fun t => !tlbiHits m asid va t.asid t.va t.size }

/-- The translated accesses of a slice, each changed by what f makes of its leaf and it. -/
def Slice.mapLeaf (l : Slice) (f : Nat → Access → Access) : Slice :=
  { l with
    misses := l.misses.map fun e => (e.1, e.2.map fun x => (f x.2.1 x.1, x.2))
    held := l.held.map fun x => (f x.2.1 x.1, x.2)
    ldf := l.ldf.map fun x => (f x.1.leaf x.1, x.2) }

/-- A translated access that a message carries: to the host, or a reply word to the slice that it names. -/
def Body.mapLeaf (f : Nat → Access → Access) : Body → Body
  | .hostMem w x bs (some a) => .hostMem w x bs (some (f a.leaf a))
  | .faultReply w a => .faultReply w (f a.leaf a)
  | b => b

/-- Every access that has been translated and not performed, wherever it waits. -/
def State.mapLeaf (s : State) (f : Nat → Access → Access) : State :=
  { s with slices := Sparse.mapV {} (fun _ l => l.mapLeaf f) s.slices
           msgs := s.msgs.map fun m => { m with body := m.body.mapLeaf f } }

/-- TLBI: the signal follows once every marked access has been performed. A nonzero gB[63:16] traps in every form, `.all` too, which
R230 also has ignore gB (a choice: assumption log, entry 24). -/
def opTlbi (k : Ctx) (s : State) : Out :=
  run true k s fun s =>
    let asid := k.vB s
    let va := k.vA s
    if 2 ^ 16 ≤ asid then trapOut s 0x02 asid
    else if k.m = 0 ∧ 2 ^ 48 ≤ va then trapOut s 0x05 va
    else withRef k s fun r =>
      let mark := (s.cur, s.me.net.ord)
      let s := issued s r
      let hs := scopeSlices k.sc s.cur
      let s := hs.foldl (fun s h => s.setSlice h ((s.slice h).tlbi k.m asid va)) s
      let s := s.mapLeaf fun leaf a => if hs.contains (homeSlice a.va) then a.marked k.m asid va mark leaf else a
      .next (((s.modMe (·.modNet fun n => { n with ord := n.ord + 1 })).send
        { src := .core s.cur, dst := .slice 0, chan := .signal
          body := .access { kind := .tlbi, core := s.cur, tag := mark.2, ref := some r, region := s.regionOf s.cur } }).advance k.len)

/-- An access that carries a TLBI's mark has not been performed. -/
def State.marksOut (s : State) (mark : Nat × Nat) : Bool :=
  s.slices.any (fun e =>
    e.2.misses.any (fun m => m.2.any fun a => a.1.marks.contains mark) || e.2.held.any (fun a => a.1.marks.contains mark) ||
      e.2.ldf.any fun a => a.1.marks.contains mark) ||
    s.msgs.any fun e => match e.body with
      | .hostMem _ _ _ (some a) => a.marks.contains mark
      | .faultReply _ a => a.marks.contains mark
      | _ => false

/-! ### Accesses in flight -/

def Parked.mapAccess (f : Access → Access) : Parked → Parked
  | .access a => .access (f a)
  | p => p

def Parked.anyAccess (p : Access → Bool) : Parked → Bool
  | .access a => p a
  | _ => false

/-- Everything a slice holds of accesses, changed by f. -/
def Slice.mapAccess (l : Slice) (f : Access → Access) : Slice :=
  { l with
    misses := l.misses.map fun e => (e.1, e.2.map fun x => (f x.1, x.2))
    held := l.held.map fun x => (f x.1, x.2)
    ldf := l.ldf.map fun x => (f x.1, x.2)
    faults := l.faults.map fun t => { t with parked := t.parked.map (·.mapAccess f) } }

def Slice.anyAccess (l : Slice) (p : Access → Bool) : Bool :=
  (l.misses.any fun e => e.2.any fun x => p x.1) || (l.held.any fun x => p x.1) || (l.ldf.any fun x => p x.1) ||
    l.faults.any fun t => t.parked.any (·.anyAccess p)

def Body.mapAccess (f : Access → Access) : Body → Body
  | .access a => .access (f a)
  | .hostMem w x bs (some a) => .hostMem w x bs (some (f a))
  | b => b

def Body.anyAccess (p : Access → Bool) : Body → Bool
  | .access a => p a
  | .hostMem _ _ _ (some a) => p a
  | _ => false

/-- Every access that has not been performed, changed by f. -/
def State.mapAccess (s : State) (f : Access → Access) : State :=
  { s with slices := Sparse.mapV {} (fun _ l => l.mapAccess f) s.slices
           msgs := s.msgs.map fun m => { m with body := m.body.mapAccess f } }

/-- Some access that has not been performed is one of p. -/
def State.anyAccess (s : State) (p : Access → Bool) : Bool :=
  (s.slices.any fun e => e.2.anyAccess p) || s.msgs.any fun m => m.body.anyAccess p

/-- CFLUSH on one line of a slice. -/
def State.flushLine (s : State) (h line m : Nat) : State :=
  if m = 0 then s.writeBack h line
  else if m = 1 then s.setCline h line none
  else (s.writeBack h line).setCline h line none

/-- The lines cached under addresses of [va, va + n) of an ASID, each with its slice. -/
def State.namedLines (s : State) (asid va n : Nat) : List (Nat × Nat) :=
  s.slices.flatMap fun e => e.2.lines.filterMap fun l =>
    match l.2 with
    | some c => if c.names.any fun x => x.1 == asid && decide (va / 64 ≤ x.2) && decide (64 * x.2 < va + n) then some (e.1, l.1) else none
    | none => none

/-- A CFLUSH of the moving core has to wait: it would miss in a cache a write that comes first for it (R359, R365, R366). -/
def State.flushWaits (s : State) : Bool :=
  s.slices.any fun l => l.2.early.any fun e => e.blocks { core := s.cur } && s.earlyStands e

/-- CFLUSH. It issues once no write that comes first for it is still to be performed. -/
def opCflush (k : Ctx) (s : State) : Out :=
  run (k.m != 0) k s fun s =>
    let va := k.vA s
    let n := k.vB s
    withRef k s fun r =>
      if s.flushWaits then .next s else
      let s := issued s r
      if n = 0 then .next ((s.signal (.engine s.cur) r 0 0 0).advance k.len)
      else if 2 ^ 48 < va + n then .next ((s.signal (.engine s.cur) r 3 0x05 0).advance k.len)
      else
        let t := (s.namedLines s.me.net.asid va n).foldl (fun s e => s.flushLine e.1 e.2 k.m) s
        .next ((t.signal (.engine s.cur) r 0 0 0).advance k.len)

/-- LD (R198). -/
def execLd (o : W0) (s : State) : Out := opLd (ctxB 0x70 o) s
/-- LD_EXT (R198). -/
def execLdExt (o : Ext) (s : State) : Out := opLd (ctxX 0x70 o) s

/-- ST (R198). -/
def execSt (o : W0) (s : State) : Out := opSt (ctxB 0x71 o) s
/-- ST_EXT (R198). -/
def execStExt (o : Ext) (s : State) : Out := opSt (ctxX 0x71 o) s

/-- LDF (R200). -/
def execLdf (o : Ext) (s : State) : Out := opFetch .ldf (ctxX 0x72 o) s

/-- STF (R201). -/
def execStf (o : W0) (s : State) : Out := opStore .stf (fun _ => 2) (ctxB 0x73 o) s
/-- STF_EXT (R201). -/
def execStfExt (o : Ext) (s : State) : Out := opStore .stf (fun _ => 2) (ctxX 0x73 o) s

/-- FEOP (R202). -/
def execFeop (o : W0) (s : State) : Out := opFeop (ctxB 0x74 o) s
/-- FEOP_EXT (R202). -/
def execFeopExt (o : Ext) (s : State) : Out := opFeop (ctxX 0x74 o) s

/-- FETCH (R203). -/
def execFetch (o : Ext) (s : State) : Out := opFetch .fetch (ctxX 0x75 o) s

/-- POST (R204). -/
def execPost (o : Ext) (s : State) : Out := opStore .post postKind (ctxX 0x76 o) s

/-- STN (R206). -/
def execStn (o : Ext) (s : State) : Out := opStore .stn (fun _ => 4) (ctxX 0x77 o) s

/-- DRAIN (R207). -/
def execDrain (o : Ext) (s : State) : Out := opFence true (ctxX 0x78 o) s

/-- FENCE (R208). -/
def execFence (o : Ext) (s : State) : Out := opFence false (ctxX 0x79 o) s

/-- AOP (R209). -/
def execAop (o : Ext) (s : State) : Out := opAop (ctxX 0x7A o) s

/-- ACAS (R211). -/
def execAcas (o : Ext) (s : State) : Out := opAcas (ctxX 0x7B o) s

/-- PREF (R213). -/
def execPref (o : W0) (s : State) : Out := opPref (ctxB 0x7D o) s
/-- PREF_EXT (R213). -/
def execPrefExt (o : Ext) (s : State) : Out := opPref (ctxX 0x7D o) s

/-- ENQ (R221). -/
def execEnq (o : Ext) (s : State) : Out := opEnq (ctxX 0x81 o) s

/-- DEQ (R222). -/
def execDeq (o : W0) (s : State) : Out := opDeq (ctxB 0x82 o) s

/-- QCFG (R223). -/
def execQcfg (o : Ext) (s : State) : Out := opQcfg (ctxX 0x83 o) s

/-- SBIND (R225). -/
def execSbind (o : Ext) (s : State) : Out := opSbind (ctxX 0x84 o) s

/-- SUNB (R227). -/
def execSunb (o : W0) (s : State) : Out := opSunb (ctxB 0x85 o) s

/-- TLBI (R230). -/
def execTlbi (o : Ext) (s : State) : Out := opTlbi (ctxX 0x88 o) s

/-- CFLUSH (R231). -/
def execCflush (o : Ext) (s : State) : Out := opCflush (ctxX 0x89 o) s

end Sys2Proof.Machine
end

