-- ==== Sys2Proof/Machine/Shapes.lean ====
section
/-! DEFINITION. Shape records, their classification and placement of elements (R313, R314, R374-R379), the shape cache
with its snapshots (R285-R288, R373, R381, R382), and GLOBAL_ACCESS, which serves it and every other access. -/

namespace Sys2Proof.Machine

/-! ### Records (R374, R375) -/

def ShapeEnt.w (e : ShapeEnt) (i : Nat) : Nat := e.words.getD i 0
def ShapeEnt.rank (e : ShapeEnt) : Nat := bits (e.w 0) 6 4
def ShapeEnt.rag (e : ShapeEnt) : Bool := (e.w 0).testBit 7
def ShapeEnt.fmt (e : ShapeEnt) : Nat := bits (e.w 0) 11 8
def ShapeEnt.blk (e : ShapeEnt) : Nat := bits (e.w 0) 15 12
def ShapeEnt.xing (e : ShapeEnt) : Nat := bits (e.w 0) 17 16
def ShapeEnt.ilvg (e : ShapeEnt) : Nat := bits (e.w 0) 27 24
def ShapeEnt.ilvw (e : ShapeEnt) : Nat := bits (e.w 0) 31 28
def ShapeEnt.base (e : ShapeEnt) : Nat := e.w 1
def ShapeEnt.dim (e : ShapeEnt) (i : Nat) : Nat :=
  if i % 2 = 0 then bits (e.w (2 + i / 2)) 31 0 else bits (e.w (2 + i / 2)) 63 32
def ShapeEnt.stride (e : ShapeEnt) (i : Nat) : Int := toSigned 40 (e.w (5 + i))
def ShapeEnt.xfill (e : ShapeEnt) : Nat := bits (e.w 10) 31 0
def ShapeEnt.efill (e : ShapeEnt) : Nat := bits (e.w 10) 63 32
/-- MODE 1: per-item lengths. -/
def ShapeEnt.perItem (e : ShapeEnt) : Bool := (e.w 11).testBit 63
def ShapeEnt.rdim (e : ShapeEnt) : Nat := bits (e.w 11) 62 60
def ShapeEnt.count (e : ShapeEnt) : Nat := bits (e.w 11) 59 48
def ShapeEnt.tva (e : ShapeEnt) : Nat := bits (e.w 11) 47 0
/-- Entries of the boundary table; word 11 is not read where RAG = 0 (R375). -/
def ShapeEnt.entries (e : ShapeEnt) : Nat := if e.rag then e.count else 0

/-- A loaded record is valid (R286). -/
def recordOk (w : List Nat) : Bool :=
  let e : ShapeEnt := { words := w }
  bits (e.w 0) 63 32 == 0 && bits (e.w 0) 23 18 == 0 && bits (e.w 1) 63 48 == 0 && bits (e.w 4) 63 32 == 0 &&
    bits (e.w 0) 3 0 == 1 && decide (1 ≤ e.rank) && decide (e.rank ≤ 5) && decide (e.fmt ≤ 10) && decide (e.xing ≤ 1) &&
    (e.blk == 0 || (e.blk == 1 && e.fmt == 6)) &&
    (List.range 5).all (fun i => decide (i < e.rank) || e.dim i == 0) &&
    (List.range 5).all fun i => strideOk (e.w (5 + i))

/-! ### Classification (R376, R378, R381) -/

/-- Entry j of the boundary table: the snapshot's below 64, else memory's. -/
def bound (c asid : Nat) (e : ShapeEnt) (j : Nat) : GM Nat :=
  if j < 64 then pure (Sparse.get 0 e.bounds j)
  else do
    let bs ← GM.read c asid (e.tva + 4 * j) 4
    pure (leNat bs)

/-- The smallest segment from i on, of n more, that holds position p under packed offsets; lo is entry i. -/
def segScan (c asid : Nat) (e : ShapeEnt) (p : Nat) : Nat → Nat → Nat → GM (Option Nat)
  | 0, _, _ => pure none
  | n + 1, i, lo => do
    let hi ← bound c asid e (i + 1)
    if lo ≤ p ∧ p < hi then pure (some i) else segScan c asid e p n (i + 1) hi

/-- The segment of position p, of item t; none beyond an edge. -/
def segment (c asid : Nat) (e : ShapeEnt) (p t : Nat) : GM (Option Nat) :=
  if !e.rag then pure (some 0)
  else if e.perItem then
    if t < e.count then do
      let l ← bound c asid e t
      pure (if p < l then some t else none)
    else pure none
  else if e.count < 2 then pure none
  else do
    let lo ← bound c asid e 0
    segScan c asid e p (e.count - 1) 0 lo

/-- Where an element lies. -/
inductive Place where
  | inside (seg : Nat) | edge | out
  deriving DecidableEq, Repr

/-- The class of an index vector under the record of entry n. -/
def classify (c asid : Nat) (e : ShapeEnt) (n : Nat) (ix : List Nat) : GM Place :=
  if e.rag && decide (e.rank ≤ e.rdim + (if e.perItem then 1 else 0)) then GM.stop 3 0x08 n
  else if (List.range e.rank).any fun i => decide (e.dim i ≤ ix.getD i 0) then pure .out
  else do
    match ← segment c asid e (ix.getD e.rdim 0) (ix.getD (e.rdim + 1) 0) with
    | some g => pure (.inside g)
    | none => pure .edge

/-! ### Placement (R313, R314, R372, R376, R377) -/

/-- The byte offset of the run that holds an element: dimensions from 1 on, and dimension 0 where nothing packs it. -/
def Side.runOffset (d : Side) (ix : List Nat) : Int :=
  let from_ := if d.fmt = 6 ∨ d.fmt = 8 then 1 else 0
  ((List.range d.e.rank).filter (from_ ≤ ·)).foldl (fun a i => a + ix.getD i 0 * d.e.stride i) 0

/-- The byte of dimension 0's packing that holds element i, and its lowest bit. -/
def Side.packed (d : Side) (i : Nat) : Nat × Nat :=
  if d.fmt = 8 then (i / 2, 4 * (i % 2))
  else if d.fmt = 6 then
    if d.blk = 1 then (i / 2, 4 * (i % 2)) else (64 * (i / 64) + i % 64 / 2, 4 * (i % 2))
  else (0, 0)

/-- The byte that holds the scale of element i's block. -/
def Side.scaleByte (d : Side) (i : Nat) : Nat :=
  if d.blk = 1 then roundUp ((d.e.dim 0 + 1) / 2) 16 + i / 32 else 64 * (i / 64) + 32 + i % 64 / 32

/-- The address of n bytes at offset off of a side of core c, checked: first that it lies in its space, then its alignment
(R372, R376, R377). -/
def Side.place (c : Nat) (d : Side) (off : Int) (n : Nat) : GM Nat :=
  match d.lbase with
  | none =>
    let a := (d.e.base : Int) + off
    if a < 0 ∨ (2 ^ 48 : Int) ≤ a then GM.stop 3 0x05 (ofSigned 64 a)
    else if a % n ≠ 0 then GM.stop 3 0x04 (ofSigned 64 a)
    else pure a.toNat
  | some b =>
    let a : Except Nat Int :=
      if d.e.ilvw = 0 then .ok (b + off)
      else
        match resolveLocal c b with
        | none => .error b
        | some (k, o) =>
          let g : Int := (2 ^ (d.e.ilvg + 6) : Nat)
          let q := off / g
          let ways : Int := (2 ^ d.e.ilvw : Nat)
          let core := (bits k 4 0 : Int) + q % ways
          let within := o + g * (q / ways) + off % g
          if 23 < core then .error core.toNat
          else if 0x100000 ≤ within then .error (ofSigned 64 within)
          else .ok (0x1000000 + 0x100000 * core + within)
    match a with
    | .error v => GM.stop 3 0x05 v
    | .ok a =>
      if a < 0 ∨ !localRange a.toNat 1 then GM.stop 3 0x05 (ofSigned 64 a)
      else if a % n ≠ 0 then GM.stop 3 0x04 (ofSigned 64 a)
      else pure a.toNat

/-- Formats whose elements R313 and R314 pack along dimension 0. -/
def packedFmt (f : Nat) : Bool := f == 6 || f == 8

/-- The elements of a side are placed, and have the width, as the pages they lie on say: its record names no format (R219, R314, R376). -/
def Side.byPage (d : Side) : Bool := !d.fixed && d.lbase.isNone

/-- The class and block geometry of the page at a VA, as its entry stands, without effect; none where no entry maps it. -/
def State.pageClass (s : State) (asid va : Nat) (need : Need) : Option (Nat × Nat) :=
  match s.peekTrans (homeSlice va) asid va need with
  | .ok _ leaf _ => some (leafEfc leaf, leafBlk leaf)
  | .fault 2 _ entry => some (leafEfc entry, leafBlk entry)
  | _ => none

/-- A cell as one of a format's width, which its address must suit (R376). -/
def Cell.as (k : Cell) (f : Nat) : GM Cell :=
  if k.addr % max 1 (fmtBits f / 8) ≠ 0 then GM.stop 3 0x04 k.addr else pure { k with w := fmtBits f, fmt := f }

/-- The first of some index vectors that lies inside. -/
def firstInside (c asid : Nat) (e : ShapeEnt) (n : Nat) : List (List Nat) → GM (Option (List Nat))
  | [] => pure none
  | ix :: ixs => do
    match ← classify c asid e n ix with
    | .inside _ => pure (some ix)
    | _ => firstInside c asid e n ixs

/-- The bytes of a run's packing that may hold element i of its dimension 0 where the page's class is a packed one: in line-tiled
form for class 6 with BLK 0, else two to a byte (R313, R314). -/
def packedPlaces (i : Nat) : List (Nat × (Nat → Nat → Bool)) :=
  [(64 * (i / 64) + i % 64 / 2, fun f b => f == 6 && b == 0), (i / 2, fun f b => f == 8 || (f == 6 && b != 0))]

/-- A VA, if it is one. -/
def vaOf (p : Int) : Option Nat := if p < 0 ∨ (2 ^ 48 : Int) ≤ p then none else some p.toNat

/-- The VA of the run of dimension 0 that holds an element. -/
def ShapeEnt.run (e : ShapeEnt) (ix : List Nat) : Int :=
  (e.base : Int) + ((List.range e.rank).filter (1 ≤ ·)).foldl (fun x i => x + ix.getD i 0 * e.stride i) 0

/-- The class and block geometry of the page that holds an element of a record of FMT 0, as its entry stands, without effect (R314, R376):
a packed format ignores STRIDE0, so the pages of the packed places are asked first, and one gives them where its class is the packed one
that leads there, whether or not it permits the access. Where such a page is not mapped, the page of the run's first element, which every
format places alike, tells whether the element lies there. Else they are those of the page that the strides lead to; none where no
entry maps that (a choice: assumption log, entry 82). -/
def State.elemClass (s : State) (asid : Nat) (e : ShapeEnt) (ix : List Nat) (need : Need) : Option (Nat × Nat) :=
  let run := e.run ix
  let class_ (p : Int) : Option (Nat × Nat) := (vaOf p).bind fun v => s.pageClass asid v need
  ((packedPlaces (ix.getD 0 0)).findSome? fun q =>
    ((class_ (run + (q.1 : Nat))).or (class_ run)).filter fun k => q.2 k.1 k.2).or (class_ (run + ix.getD 0 0 * e.stride 0))

/-- The side as the element's page has it: its record's format, or the page's class and geometry; none where no entry maps the page
(R219, R314, R376). -/
def Side.found (asid : Nat) (d : Side) (ix : List Nat) (need : Need) : GM (Option Side) := do
  if !d.byPage then pure (some d)
  else do
    let m ← GM.once false fun s => (s, .ok (match s.elemClass asid d.e ix need with
      | some k => [k.1, k.2]
      | none => []))
    match m with
    | [f, b] => pure (some { d with fmt := f, blk := b })
    | _ => pure none

/-- The side as the element's page has it; where no entry maps that, what another page of it gave, until one does. -/
def Side.here (asid : Nat) (d : Side) (ix : List Nat) (need : Need) : GM Side := do
  pure ((← d.found asid ix need).getD d)

/-- The cell of an element. -/
def Side.cell (c asid : Nat) (d : Side) (ix : List Nat) (need : Need) : GM Cell := do
  let f ← d.found asid ix need
  let d := f.getD d
  let w := fmtBits d.fmt
  let p := d.packed (ix.getD 0 0)
  let a ← d.place c (d.runOffset ix + p.1) (max 1 (w / 8))
  pure { addr := a, sh := p.2, w := w, fmt := d.fmt, ix := ix, sure := f.isSome }

/-- The cell of an element that was placed while no entry mapped its page is looked for anew: its page gives its format and its place
(R219, R314, R376). -/
def Side.again (c asid : Nat) (d : Side) (need : Need) : Option Cell → GM (Option Cell)
  | some k => if k.sure then pure (some k) else do pure (some (← d.cell c asid k.ix need))
  | none => pure none

/-- The cell of the scale of an element's block. -/
def Side.scaleCell (c asid : Nat) (d : Side) (ix : List Nat) (need : Need) : GM Cell := do
  let d ← d.here asid ix need
  let a ← d.place c (d.runOffset ix + d.scaleByte (ix.getD 0 0)) 1
  pure { addr := a, sh := 0, w := 8, fmt := d.fmt, ix := ix }

/-- The class and block geometry of an element's page, which is translated where the packed places do not give them. -/
def pageFormat (c asid : Nat) (e : ShapeEnt) (ix : List Nat) (need : Need) : GM (Nat × Nat) := do
  let m ← GM.once false fun s => (s, .ok (match s.elemClass asid e ix need with
    | some k => [k.1, k.2]
    | none => []))
  match m with
  | [f, b] => if packedFmt f then pure (f, b) else byStride
  | _ => byStride
where
  byStride : GM (Nat × Nat) := do
    let a := e.run ix + ix.getD 0 0 * e.stride 0
    match vaOf a with
    | none => GM.stop 3 0x05 (ofSigned 64 a)
    | some v => do
      let (_, leaf) ← GM.trans c asid v need
      pure (leafEfc leaf, leafBlk leaf)

/-- Origin and extent of dimension 0 of a window must be multiples of what each of some formats packs together (R314, R376). -/
def windowStop (win : Option (Nat × Nat)) (fmts : List Nat) : GM Unit :=
  let step (f : Nat) : Nat := if f = 8 then 2 else if f = 6 then 32 else 1
  match win with
  | none => pure ()
  | some (org, ext) =>
    if fmts.any fun f => org % step f != 0 then GM.stop 3 0x02 org
    else if fmts.any fun f => ext % step f != 0 then GM.stop 3 0x02 ext
    else pure ()

/-- The side of an operation, its format and geometry found (R219, R314, R372, R376, R377): of a record of FMT 0 those of the page of its
first element inside, which stand for a page that is not mapped. -/
def mkSide (c asid : Nat) (e : ShapeEnt) (n : Nat) (lbase : Option Nat) (ixs : List (List Nat)) (win : Option (Nat × Nat))
    (need : Need) : GM Side := do
  if !e.valid then GM.stop 3 0x08 n
  if e.ilvw ≠ 0 ∧ (lbase.isNone ∨ 4 < e.ilvw ∨ 10 < e.ilvg ∨ (List.range e.rank).any fun i => decide (e.stride i < 0)) then
    GM.stop 3 0x02 (e.w 0)
  let (f, b) ←
    if e.fmt ≠ 0 then pure (e.fmt, e.blk)
    else if lbase.isSome then GM.stop 3 0x02 (e.w 0)
    else do
      match ← firstInside c asid e n ixs with
      | none => pure (0, 0)
      | some ix => pageFormat c asid e ix need
  windowStop win [f]
  pure { e := e, n := n, fmt := f, blk := b, fixed := decide (e.fmt ≠ 0), lbase := lbase }

/-- A dimension at or beyond RANK with an origin or a wider extent (R218). -/
def rankRule (e : ShapeEnt) (org ext : List Nat) : Bool :=
  ((List.range 5).filter (e.rank ≤ ·)).all fun i => org.getD i 0 == 0 && ext.getD i 0 == 1

/-- Two formats that COPY and TLD.win take as equal (R219, R265). -/
def fmtAgree (a b : Nat) : Bool := a == b || (a == 0 && fmtBits b == 16) || (b == 0 && fmtBits a == 16)

/-- The format that a side has at a cell, and the cell at its width (R195, R219): its own, with which the page's class must agree
where the record fixes it; else the page's class, which must by now be packed as the element was placed. -/
def Side.fmtAt (c : Nat) (d : Side) (asid : Nat) (x : Cell) (need : Need) : GM (Nat × Cell) :=
  match d.lbase with
  | some _ => pure (d.fmt, x)
  | none => do
    let x := (← d.again c asid need (some x)).getD x
    let (_, leaf) ← GM.trans c asid x.addr need
    let k := leafEfc leaf
    if d.fixed then do
      if k ≠ 0 ∧ k ≠ d.fmt then GM.stop 5 0x07 k false
      pure (d.fmt, x)
    else do
      if (packedFmt k || packedFmt x.fmt) && k != x.fmt then GM.stop 5 0x07 k false
      if packedFmt k then pure (k, x) else pure (k, ← x.as k)

/-- A piece of the scratchpad map read by an engine of core c (R195, R355). -/
def State.engLocal (s : State) (c a n : Nat) : State × Except GErr (List Byte) :=
  if !localRange a n then (s, .error (.cause 0x05 a))
  else
    let s := s.localReach c a n
    if s.localBad c a n then (s, .error (.cause 0x10 a)) else (s, .ok (s.localRead c a n))

/-- A piece of the scratchpad map written by an engine of core c: a word of which it writes a part is read first (R355). -/
def State.engPut (s : State) (c a : Nat) (bs : List Byte) : State × Except GErr Unit :=
  let n := bs.length
  let parts := (if a % 8 = 0 then [] else [a]) ++ (if (a + n) % 8 = 0 then [] else [a + n - 1])
  let s := parts.foldl (fun s x => s.localReach c x 1) s
  if n ≠ 0 ∧ parts.any fun x => s.localBad c x 1 then (s, .error (.cause 0x10 a)) else (s.localWrite c a bs, .ok ())

/-- Local addresses read by an engine, line by line. -/
def GM.localRead (c a n : Nat) : GM (List Byte) := do
  if !localRange a n then GM.stop 3 0x05 a
  let ps ← GM.par ((linePieces (n / 64 + 2) a n).map fun e => GM.bytes fun s => s.engLocal c e.1 e.2)
  pure ps.flatten

/-- Local addresses written by an engine, line by line. -/
def GM.localWrite (c a : Nat) (bs : List Byte) : GM Unit := do
  let _ ← GM.par ((linePieces (bs.length / 64 + 2) a bs.length).map fun e =>
    GM.act fun s => s.engPut c e.1 ((bs.drop (e.1 - a)).take e.2))
  pure ()

/-- The line of a sync page set full after an engine's writes to it (R219, R368). -/
def GM.fillLine (v : Via) (asid va : Nat) : GM Unit :=
  GM.act fun s =>
    match s.gTransVia v asid va .write with
    | (s, .error e) => (s, .error e)
    | (t, .ok (pa, leaf)) =>
      if !leafSync leaf then (t, .ok ())
      else if t.ldfEarly (homeSlice va) pa fun _ => false then (s, .error .busy)
      else ((t.setLineFull (homeSlice va) pa (leafKey leaf) 0 true).releaseLdf (homeSlice va) pa, .ok ())

/-- What a cell holds, in the scratchpad (`loc`) or in global memory. -/
def GM.getCell (c asid : Nat) (loc : Bool) (k : Cell) (th : Nat := 0) : GM Nat := do
  let n := max 1 (k.w / 8)
  let bs ← if loc then GM.localRead c k.addr n else GM.read c asid k.addr n th
  pure (leNat bs / 2 ^ k.sh % 2 ^ k.w)

/-- A cell written by an engine; one narrower than a byte keeps the rest of its byte, which is read first, in the same performance. -/
def GM.putCell (via : Via) (asid : Nat) (loc : Bool) (k : Cell) (v : Nat) : GM Unit :=
  let c := via.core
  let merged (old : Byte) : List Byte := natLE 1 (putBits old.toNat (k.sh + k.w - 1) k.sh v)
  if 8 ≤ k.w then (if loc then GM.localWrite c k.addr (natLE (k.w / 8) v) else GM.write via asid k.addr (natLE (k.w / 8) v))
  else GM.act fun s =>
    if loc then match s.engLocal c k.addr 1 with
      | (s, .error e) => (s, .error e)
      | (s, .ok bs) => s.engPut c k.addr (merged (bs.headD 0))
    else match s.gReadPiece asid k.addr 1 .write via with
      | (s, .error e) => (s, .error e)
      | (s, .ok bs) => s.gWritePiece asid k.addr (merged (bs.headD 0)) via

def Side.readCell (c asid : Nat) (d : Side) (k : Cell) (th : Nat := 0) : GM Nat := GM.getCell c asid d.lbase.isSome k th
def Side.writeCell (via : Via) (asid : Nat) (d : Side) (k : Cell) (v : Nat) : GM Unit := GM.putCell via asid d.lbase.isSome k v

/-! ### The shape cache (R285-R288, R381) -/

/-- Whose snapshot a queue entry of the shape cache takes. -/
def snapEngine (n : Nat) : Engine := if n = 0 then .copy else .tensor

/-- The access by which the shape cache works on an operation, sent at the operation's turn, a SHLD's first at issue where that is its turn,
in order with what the core has sent before (a choice: R373; assumption log, entry 43). -/
def State.shapeKick (s : State) (c : Nat) (o : EngOp) (va : Nat) : State :=
  s.send { src := .core c, dst := .slice (homeSlice va), chan := .request
           body := .access { kind := .shape o.id, core := c, va := va, asid := o.asid, region := s.regionOf c, b := o.pos
                             epc := o.epc, handle := o.handle } }

/-- The queue of the shape cache in issue order: every operation whose turn has come acts. A SHLD begins once nothing
is before it, and nothing behind it acts before it ends; SHBND's memory write holds only a later SHLD. -/
def State.shapeWalk (s : State) (c : Nat) : List EngOp → Bool → State
  | [], _ => s
  | o :: os, first =>
    if o.fin.isSome then State.shapeWalk s c os first
    else if o.opc = 0xE0 then
      if first && !o.begun then
        (s.modCore c fun k => (k.setOp .shape { o with begun := true }).setShape o.d {}).shapeKick c o o.va
      else s
    else if o.opc = 0xE1 then
      (s.modCore c fun k =>
        let k := k.dropOp .shape o.id
        if o.m = 1 then k.modEng fun e => { e with shapes := [] } else k.setShape o.d {}).shapeWalk c os first
    else if o.opc = 0xE2 then
      if o.begun then State.shapeWalk s c os false
      else
        let e := (s.core c).shape o.d
        if !e.valid then State.shapeWalk (s.endOp c .shape o 3 0x08 0 none) c os first
        else if e.entries ≤ o.va then State.shapeWalk (s.endOp c .shape o 3 0x02 0 (some o.va)) c os first
        else
          let o' := { o with begun := true, ea := e.tva + 4 * o.va }
          let s := s.modCore c fun k =>
            let k := k.setOp .shape o'
            if o.va < 64 then k.setShape o.d { e with bounds := Sparse.set 0 e.bounds o.va o.vb } else k
          State.shapeWalk (s.shapeKick c o' o'.ea) c os false
    else
      State.shapeWalk (s.modCore c fun k =>
        let k := k.dropOp .shape o.id
        let g := snapEngine o.a
        match k.findOp g o.pos with
        | some x => k.setOp g { x with snaps := o.lanes.map k.shape, waits := false }
        | none => k) c os first

def State.shapeAdvance (s : State) (c : Nat) : State := s.shapeWalk c ((s.core c).ops .shape) true

/-- An operation enters the shape cache's queue. -/
def State.shapeIssue (s : State) (c : Nat) (o : EngOp) : State := (s.modCore c (·.startOp .shape o)).shapeAdvance c

/-- An operation of another engine enters it, and asks for its snapshots (R381). -/
def State.startWithSnaps (s : State) (c : Nat) (g : Engine) (o : EngOp) (entries : List Nat) : State :=
  let s := s.modCore c (·.startOp g { o with waits := true })
  s.shapeIssue c { id := (s.core c).eng.nextId, a := if g = .copy then 0 else 1, pos := o.id, lanes := entries }

/-- The record's line that a SHLD reads first, then the other: as offset and bytes (R373). -/
def EngOp.recordLine (o : EngOp) (second : Bool) : Nat × Nat := if second = decide (o.sub = 0) then (64, 32) else (0, 64)

/-- One step of a SHLD or a SHBND (R286, R288, R373): the record's lines, the table, or the store. -/
def shapeUnit (c : Nat) (o : EngOp) : GM (Option EngOp × Nat) := do
  if o.opc = 0xE2 then
    GM.write (o.via c .shape) o.asid o.ea (natLE 4 o.vb)
    pure (none, 0)
  else
    let wordsOf (bs : List Byte) (n : Nat) : List Nat := (List.range n).map fun i => leNat ((bs.drop (8 * i)).take 8)
    let line (second : Bool) : GM (List Nat) := do
      let (x, n) := o.recordLine second
      pure (wordsOf (← GM.read c o.asid (o.va + x) n) (n / 8))
    match o.pos with
    | 0 => do pure (some { o with lanes := ← line false, pos := 1 }, 0)
    | 1 =>
      let ws ← line true
      let w := if o.sub = 0 then o.lanes ++ ws else ws ++ o.lanes
      if !recordOk w then GM.stop 3 0x08 o.d
      let e : ShapeEnt := { valid := true, words := w }
      if e.rag ∧ e.tva % 4 ≠ 0 then GM.stop 3 0x04 e.tva
      if e.rag ∧ 0 < e.count then pure (some { o with lanes := w, pos := 2 }, 0)
      else
        GM.upd fun s => s.modCore c (·.setShape o.d e)
        pure (none, 0)
    | _ =>
      let e : ShapeEnt := { valid := true, words := o.lanes }
      let n := min e.count 64
      let bs ← GM.read c o.asid e.tva (4 * n)
      let e := { e with bounds := (List.range n).foldl (fun b i => Sparse.set 0 b i (leNat ((bs.drop (4 * i)).take 4))) [] }
      GM.upd fun s => s.modCore c (·.setShape o.d e)
      pure (none, 0)

/-- Where the next step of an operation of the shape cache reads or writes. -/
def EngOp.shapeVa (o : EngOp) : Nat :=
  if o.opc = 0xE2 then o.ea
  else match o.pos with
    | 0 => o.va + (o.recordLine false).1
    | 1 => o.va + (o.recordLine true).1
    | _ => bits (o.lanes.getD 11 0) 47 0

/-- The shape cache's access is served, or asks again when its turn has not come; one that its operation no longer awaits is nothing. -/
def State.shapeServe (s : State) (a : Access) (id : Nat) : State :=
  if s.regionOf a.core ≠ a.region then s
  else match (s.core a.core).findOp .shape id with
    | none => s
    | some o =>
      if !o.begun || o.parked || o.pos != a.b then s
      else
        let s := s.runUnit a.core .shape o 0 (shapeUnit a.core o)
        match (s.core a.core).findOp .shape id with
        | none => s.shapeAdvance a.core
        | some o' => if o'.fin.isSome then s.shapeAdvance a.core else if o'.parked then s else s.shapeKick a.core o' o'.shapeVa

/-- Operations of the shape cache that have begun and are not parked ask again (after a restore or a RESUME). -/
def State.shapeAgain (s : State) (c : Nat) : State :=
  ((s.core c).ops .shape).foldl (fun s o => if o.begun && !o.parked then s.shapeKick c o o.shapeVa else s) (s.shapeAdvance c)

/-- A write that the host issued before its access of number n has not been performed (R63). -/
def Access.hostBefore (n : Nat) (a : Access) : Bool := a.kind == .hostWrite && decide (a.tag < n)

/-- A read of the host follows a write of the host that has not been performed (R63, R370). -/
def State.hostWaits (s : State) (r : Access) : Bool :=
  r.kind == .hostRead && (
    (s.msgs.any fun m => match m.body with
      | .access a => a.hostBefore r.tag
      | .hostMem _ _ _ (some a) => a.hostBefore r.tag
      | .watchAdvance _ _ _ a _ => a.hostBefore r.tag
      | _ => false) ||
    s.slices.any fun l =>
      (l.2.misses.any fun e => e.2.any fun x => x.1.hostBefore r.tag) || (l.2.held.any fun x => x.1.hostBefore r.tag) ||
      l.2.faults.any fun f => f.parked.any fun p => match p with
        | .access a => a.hostBefore r.tag
        | _ => false)

/-- GLOBAL_ACCESS: an access reaches its home slice (R332). -/
def execGlobalAccess (k : Nat) (s : State) : Out :=
  match s.deliverable k with
  | some { dst := .slice h, body := .access a, .. } =>
    let t := s.dropMsg k
    match a.kind with
    | .shape id => .next (t.shapeServe a id)
    | .tlbi =>
      if s.marksOut (a.core, a.tag) then .next s
      else match a.ref with
        | some r => .next (t.signal (.engine a.core) r 0 0 0)
        | none => .next t
    | _ => if s.hostWaits a then .next s else .next ((t.access h a).getD s)
  | _ => .next s

/-- The access of message k is translated, and held at its home slice to be performed at some later time, as R332 and R357 leave it
(assumption log, entry 58). -/
def State.takeIn (s : State) (k : Nat) : State :=
  match s.deliverable k with
  | some { dst := .slice h, body := .access a, .. } =>
    if !a.kind.holdable || ((s.slice h).faultAt a.asid a.va).isSome || s.hostWaits a || s.walkWaits h a.asid a.va a.kind.need a.viewer then s
    else match (s.dropMsg k).gTrans a.asid a.va a.kind.need with
      | (t, .ok (pa, leaf)) => match t.paKind pa with
        | .hbm | .direct _ => (t.noteClass a pa leaf).holdAt h a pa leaf
        | .aperture => if a.kind.isBank then s else (t.noteClass a pa leaf).holdAt h a pa leaf
        | _ => s
      | _ => s
  | _ => s

/-! ### SHLD, SHINV, SHBND -/

/-- SHLD: which line of the record it reads first is open (R373). -/
def opShld (k : Ctx) (s : State) : Out :=
  run false k s fun s =>
    checkGlobal s (k.vA s) 64 <| withRef k s fun r =>
      .next ((({ issued s r with draws := s.draws + 1 } : State).shapeIssue s.cur
        { k.engOp s r with sub := (Config.freeValue s.draws).toNat % 2 }).advance k.len)

/-- SHINV. -/
def opShinv (k : Ctx) (s : State) : Out :=
  run false k s fun s => .next ((s.shapeIssue s.cur (k.engOp s {})).advance k.len)

/-- SHBND: with no SHLD pending the checks against the entry are exact (R288). -/
def opShbnd (k : Ctx) (s : State) : Out :=
  run false k s fun s =>
    let j := k.vA s
    let v := k.vB s
    let e := s.me.shape k.d
    let pending := (s.me.ops .shape).any fun o => o.opc == 0xE0
    if 2 ^ 32 ≤ v then trapOut s 0x02 v
    else if !pending && !e.valid then trapOut s 0x08 k.d
    else if !pending && decide (e.entries ≤ j) then trapOut s 0x02 j
    else withRef k s fun r => .next (((issued s r).shapeIssue s.cur (k.engOp s r)).advance k.len)

/-- SHLD (R286). -/
def execShld (o : Ext) (s : State) : Out := opShld (ctxX 0xE0 o) s

/-- SHINV (R287). -/
def execShinv (o : W0) (s : State) : Out := opShinv (ctxB 0xE1 o) s

/-- SHBND (R288). -/
def execShbnd (o : Ext) (s : State) : Out := opShbnd (ctxX 0xE2 o) s

end Sys2Proof.Machine
end

