-- ==== Sys2Proof/Machine/Copy.lean ====
section
/-! DEFINITION. Tile descriptors (R256-R259) and the copy engine: COPY, GET, PUT, BUPD, TLD and RGLD, one row, chunk or
element at a time, and transfers with other parts (R212-R219, R265, R289, R305, R383). -/

namespace Sys2Proof.Machine

/-! ### Tile descriptors -/

def tdAddr (v : Nat) : Nat := bits v 19 0
def tdRows (v : Nat) : Nat := bits v 23 20 + 1
def tdCols (v : Nat) : Nat := bits v 27 24 + 1
def tdFmt (v : Nat) : Nat := bits v 31 28
def tdPitch (v : Nat) : Nat := bits v 39 32
def tdFe (v : Nat) : Bool := v.testBit 40
/-- A column is 32 bits wide (R256). -/
def tdWide (v : Nat) : Bool := tdFmt v == 1 || tdFmt v == 9 || tdFmt v == 10
/-- Elements of a row, k. -/
def tdK (v : Nat) : Nat := tdCols v * (if tdWide v then 1 else 16 / fmtBits (tdFmt v))
/-- Bytes of a row's data. -/
def tdData (v : Nat) : Nat := tdCols v * (if tdWide v then 4 else 2)
/-- Scale bytes of a row, from byte 32 of it. -/
def tdScales (v : Nat) : Nat := if tdFmt v = 6 then (tdK v + 31) / 32 else 0
/-- Bytes from the beginning of a row to the end of what it holds. -/
def tdSpan (v : Nat) : Nat := if tdFmt v = 6 then 32 + tdScales v else tdData v
/-- Where row i begins. -/
def tdRow (v i : Nat) : Nat := tdAddr v + 64 * tdPitch v * i

/-- The first of checks 1 to 4 of R258 that a descriptor fails: cause and value (R421). -/
def tdFail (v : Nat) (okFmt : Bool) : Option (Nat × Nat) :=
  if !okFmt then some (0x07, tdFmt v)
  else if tdPitch v = 0 ∨ 64 * tdPitch v < tdSpan v then some (0x02, v)
  else if tdAddr v % 64 ≠ 0 then some (0x04, tdAddr v)
  else if 0x100000 < tdRow v (tdRows v - 1) + tdSpan v then some (0x05, tdAddr v)
  else none

/-- Those checks before a body. -/
def checkTd (s : State) (v : Nat) (okFmt : Bool) (body : Out) : Out :=
  match tdFail v okFmt with
  | some (c, x) => trapOut s c x
  | none => body

/-- The first line of each row set empty at issue, in full/empty mode (R259); its block is claimed first (R420). -/
def State.emptyRows (s : State) (v : Nat) : State :=
  if tdFe v then
    (List.range (tdRows v)).foldl (fun s i => (s.claim s.cur (tdRow v i) 64).modMe (·.setEmpty (tdRow v i) true)) s
  else s

/-- The row is readable (R259). -/
def Core.rowFull (k : Core) (v i : Nat) : Bool := !tdFe v || !Sparse.get false k.scr.empty (tdRow v i / 64)

/-- The line of row i of a tile of core c set full (R259). -/
def GM.fillRow (c v i : Nat) : GM Unit := do
  if tdFe v then GM.act fun s => (s.modCore c (·.setEmpty (tdRow v i) false), .ok ())

/-- Row i of a tile of core c written: its data and its scales, then its line full (R259, R367). -/
def GM.tileRow (c v i : Nat) (data scales : List Byte) : GM Unit := do
  let _ ← GM.par (GM.localWrite c (tdRow v i) data :: if scales = [] then [] else [GM.localWrite c (tdRow v i + 32) scales])
  GM.fillRow c v i

/-! ### Windows (R217-R219) -/

/-- The index vectors of some extents, dimension 0 fastest: element order (R376). -/
def boxes : List Nat → List (List Nat)
  | [] => [[]]
  | e :: es => (boxes es).flatMap fun t => (List.range e).map (· :: t)

def addIx (a b : List Nat) : List Nat := List.zipWith (· + ·) a b

/-- The five numbers of words i to i + 2 of a window descriptor. -/
def descVec (w : List Nat) (i : Nat) : List Nat :=
  let g (j : Nat) : Nat := w.getD j 0
  [g i % 2 ^ 32, g i / 2 ^ 32, g (i + 1) % 2 ^ 32, g (i + 1) / 2 ^ 32, g (i + 2) % 2 ^ 32]

/-- The window descriptor at a local address, its reserved bits checked. -/
def readDesc (c a : Nat) : GM (List Nat) := do
  let bs ← GM.localRead c a 96
  let w := (List.range 12).map fun i => leNat ((bs.drop (8 * i)).take 8)
  match ([(2, 32), (5, 32), (8, 32), (9, 2), (10, 32), (11, 32)].map fun e => (w.getD e.1 0, e.2)).find? fun e => e.1 / 2 ^ e.2 != 0 with
  | some e => GM.stop 3 0x02 e.1
  | none => pure w

/-- A padding element of format 6, beyond dimension 0 within its last block or line, reads as code 0 (R314). -/
def Side.padding (d : Side) (ix : List Nat) : Bool :=
  d.fmt == 6 && decide (d.e.dim 0 ≤ ix.getD 0 0) && decide (ix.getD 0 0 < roundUp (d.e.dim 0) (if d.blk = 1 then 32 else 64)) &&
    (List.range d.e.rank).all fun i => decide (i = 0) || decide (ix.getD i 0 < d.e.dim i)

/-- Where a source element lies; none, and what it reads, when it lies outside and XING lets that be (R314, R379). -/
def Side.source (c asid : Nat) (d : Side) (ix : List Nat) : GM (Option Cell × Nat) := do
  if (← d.here asid ix .read).padding ix then pure (none, 0)
  else do
    match ← classify c asid d.e d.n ix with
    | .inside _ => do pure (some (← d.cell c asid ix .read), 0)
    | _ => if d.e.xing = 1 then GM.stop 6 0x09 0 false else pure (none, d.e.xfill)

/-- A source element that is not read, since its destination is not written: XING still judges it (R379). -/
def Side.unread (c asid : Nat) (d : Side) (ix : List Nat) : GM Unit := do
  if (← d.here asid ix .read).padding ix then pure ()
  else do
    match ← classify c asid d.e d.n ix with
    | .inside _ => pure ()
    | _ => if d.e.xing = 1 then GM.stop 6 0x09 0 false else pure ()

/-- Where a destination element lies; none when it lies outside and XING lets that be (R379). -/
def Side.target (c asid : Nat) (d : Side) (ix : List Nat) : GM (Option Cell) := do
  match ← classify c asid d.e d.n ix with
  | .inside _ => do pure (some (← d.cell c asid ix .write))
  | _ => if d.e.xing = 1 then GM.stop 6 0x09 0 false else pure none

/-- The first of some cells that is of format 6. -/
def firstCoded (cells : List (Option Cell)) : Option Cell := cells.findSome? fun k => k.filter (·.fmt == 6)

/-- The scales of a run of blocks of format 6, as moves: a block's own where one of its elements is read, else 0x7F (R379). A source of
another format has none; its elements do not agree with a destination of format 6. -/
def scaleMoves (c asid : Nat) (a : Side) (srcs : List (Option Cell)) (n : Nat) : GM (List Move) :=
  (List.range n).mapM fun b => do
    let x ← match firstCoded ((srcs.drop (32 * b)).take 32) with
      | none => pure none
      | some k => do pure (some (← a.scaleCell c asid k.ix .read))
    pure { src := x, fill := 0x7F, dst := none }

/-- The scale of a block of a COPY's destination, none where no element of it is of format 6; `here` are the block's elements. -/
def blockScale (c asid : Nat) (a d : Side) (here : List Move) : GM (List Move) := do
  match firstCoded (here.map (·.dst)) with
  | none => pure []
  | some k => do
    let y ← d.scaleCell c asid k.ix .write
    let ss ← scaleMoves c asid a (here.map (·.src)) 1
    pure (ss.map fun m => { m with dst := some y })

/-- Everything a COPY moves, in element order, then the scales of its blocks (R314). Of several endings that hold, at a crossing (6/0x09) or
at an address (3/0x05, 3/0x04), the first in element order stands, the destination's before the source's (a choice: R372, R376; assumption
log, entry 81). -/
def copyMoves (c asid : Nat) (a d : Side) (so to_ ex : List Nat) : GM (List Move) := do
  let one (t : List Nat) : GM Move := do
    match ← d.target c asid (addIx to_ t) with
    | none => do
      a.unread c asid (addIx so t)
      pure { src := none, fill := 0, dst := none }
    | some y => do
      let (x, fill) ← a.source c asid (addIx so t)
      pure { src := x, fill := fill, dst := some y }
  let ms ← (boxes ex).mapM one
  windowStop (some (so.getD 0 0, ex.getD 0 0)) (ms.filterMap fun m => m.src.map (·.fmt))
  windowStop (some (to_.getD 0 0, ex.getD 0 0)) (ms.filterMap fun m => m.dst.map (·.fmt))
  let ss ← if ms.any fun m => m.dst.any fun k => k.fmt == 6 then
      (List.range (ms.length / 32)).mapM fun b => blockScale c asid a d ((ms.drop (32 * b)).take 32)
    else pure []
  pure (ms.filter (·.dst.isSome) ++ ss.flatten)

/-- The two sides of a COPY; a source element whose destination is not written is not read, and its page gives no format. -/
def copySides (c : Nat) (o : EngOp) : GM (Side × Side) := do
  let w := o.lanes
  let so := descVec w 0
  let to_ := descVec w 3
  let ex := descVec w 6
  let flags := w.getD 9 0
  let src := o.snaps.getD 0 {}
  let dst := o.snaps.getD 1 {}
  let written ← (boxes ex).filterM fun t => do
    match ← classify c o.asid dst (bits o.imm 7 4) (addIx to_ t) with
    | .inside _ => pure true
    | _ => pure false
  let a ← mkSide c o.asid src (bits o.imm 3 0) (if flags.testBit 0 then some (w.getD 10 0) else none) (written.map (addIx so))
    (some (so.getD 0 0, ex.getD 0 0)) .read
  let d ← mkSide c o.asid dst (bits o.imm 7 4) (if flags.testBit 1 then some (w.getD 11 0) else none)
    ((boxes ex).map (addIx to_)) (some (to_.getD 0 0, ex.getD 0 0)) .write
  pure (a, d)

/-- The first origin or extent that breaks the rank rule of R218. -/
def rankStop (e : ShapeEnt) (org ext : List Nat) : GM Unit :=
  if rankRule e org ext then pure ()
  else
    let bad := ((List.range 5).filter (e.rank ≤ ·)).flatMap fun i =>
      (if org.getD i 0 ≠ 0 then [org.getD i 0] else []) ++ (if ext.getD i 0 ≠ 1 then [ext.getD i 0] else [])
    GM.stop 3 0x02 (bad.headD 0)

/-- The beginning of a COPY: every check that comes before any element moves, and what is to move (R218, R219, R376, R379). A
window of nothing ends before a format is looked at, and a mismatch of fixed formats is found before a crossing or an address (a choice:
R218, R372; assumption log, entry 81). -/
def copyBegin (c : Nat) (o : EngOp) : GM (Option EngOp × Nat) := do
  let w ← readDesc c o.va
  let o := { o with lanes := w, begun := true }
  let src := o.snaps.getD 0 {}
  let dst := o.snaps.getD 1 {}
  if !src.valid then GM.stop 3 0x08 (bits o.imm 3 0)
  if !dst.valid then GM.stop 3 0x08 (bits o.imm 7 4)
  rankStop src (descVec w 0) (descVec w 6)
  rankStop dst (descVec w 3) (descVec w 6)
  if (descVec w 6).contains 0 then pure (none, 0)
  else do
    let (a, d) ← copySides c o
    if a.fixed ∧ d.fixed ∧ !fmtAgree a.fmt d.fmt then GM.stop 5 0x07 d.fmt false
    let ms ← copyMoves c o.asid a d (descVec w 0) (descVec w 3) (descVec w 6)
    pure (some { o with sides := [a, d], plan := ms }, 0)

/-- The least destination address of what is left to move. -/
def leastDst (ms : List Move) : Option Nat := (ms.filterMap fun m => m.dst.map (·.addr)).min?

/-- Two cells share a byte. -/
def Cell.meets (a b : Cell) : Bool :=
  let n (k : Cell) : Nat := max 1 (k.w / 8)
  decide (a.addr < b.addr + n b) && decide (b.addr < a.addr + n a)

/-- Both cells of the move were placed by the page's own format. -/
def Move.sure (m : Move) : Bool := m.src.all (·.sure) && m.dst.all (·.sure)

/-- The move is one of a block's scale; every other is one of an element. -/
def Move.isScale (m : Move) : Bool := m.dst.any fun k => k.fmt == 6 && k.w == 8

/-- The block of 32 along dimension 0 to which the destination belongs. -/
def Move.block (m : Move) : Option (List Nat) := m.dst.map fun k => (k.ix.headD 0 / 32) :: k.ix.drop 1

/-- What is left of a COPY, as the pages that are mapped by now place it: an element placed while no entry mapped its page finds its place
before its chunk is run, or run once more after RESUME, and its block its scale (R219, R314, R376). -/
def copyAgain (c : Nat) (o : EngOp) (a d : Side) : GM (List Move) := do
  if o.plan.all (·.sure) then pure o.plan
  else do
    let els := o.plan.filter fun m => !m.isScale
    let ms ← els.mapM fun m => do
      pure ({ m with src := ← a.again c o.asid .read m.src, dst := ← d.again c o.asid .write m.dst } : Move)
    let new := (ms.zip els).filterMap fun p => if p.1 = p.2 then none else some p.1
    let ext := (descVec o.lanes 6).getD 0 0
    windowStop (some ((descVec o.lanes 0).getD 0 0, ext)) (new.filterMap fun m => m.src.map (·.fmt))
    windowStop (some ((descVec o.lanes 3).getD 0 0, ext)) (new.filterMap fun m => m.dst.map (·.fmt))
    let blocks := (new.map (·.block)).dedup
    let ss ← blocks.mapM fun b => blockScale c o.asid a d (ms.filter fun m => m.block == b)
    pure (ms ++ (o.plan.filter fun m => m.isScale && !blocks.contains m.block) ++ ss.flatten)

/-- The next chunk of a COPY: all its elements read, then written, those that share bytes in element order, then its lines of sync
pages set full (R219, R368, R376). -/
def copyChunk (c : Nat) (o : EngOp) (a d : Side) : GM (Option EngOp × Nat) := do
  let plan ← copyAgain c o a d
  match leastDst plan with
  | none => pure (none, o.pos)
  | some x => do
    let (page, size) ←
      match d.lbase with
      | some _ => pure (x - x % 4096, 4096)
      | none => do
        let (_, leaf) ← GM.trans c o.asid x .write
        pure (leafPage x leaf)
    let hit (m : Move) : Bool := m.dst.any fun k => decide (page ≤ k.addr) && decide (k.addr < page + size)
    let here := plan.filter hit
    let later := plan.filter fun m => !hit m
    let vs ← GM.par <| here.map fun m => do
      let (fd, y) ← match m.dst with
        | some k => do
          let (f, y) ← d.fmtAt c o.asid k .write
          pure (f, some y)
        | none => pure (d.fmt, none)
      let v ← match m.src with
        | some k => do
          let (fs, x) ← a.fmtAt c o.asid k .read
          if !fmtAgree fs fd then GM.stop 5 0x07 fd false
          a.readCell c o.asid x
        | none => do
          if a.fixed ∧ !fmtAgree a.fmt fd then GM.stop 5 0x07 fd false
          pure m.fill
      pure (y.map fun y => (y, v % 2 ^ y.w))
    let out := vs.filterMap id
    let _ ← GM.par (out.map fun e => d.writeCell (o.via c .copy) o.asid e.1 e.2) fun m n =>
      decide (m < n) && match out[m]?, out[n]? with
        | some x, some y => x.1.meets y.1
        | _, _ => false
    if d.lbase.isNone then
      let _ ← GM.par (((here.filterMap fun m => m.dst.map (·.addr / 64)).dedup).map fun l => GM.fillLine (o.via c .copy) o.asid (64 * l))
    if later = [] then pure (none, o.pos + 1) else pure (some { o with pos := o.pos + 1, plan := later }, o.pos + 1)

/-- A COPY as it goes on. -/
def copyGo (c : Nat) (o : EngOp) : GM (Option EngOp × Nat) :=
  match o.sides with
  | [a, d] => copyChunk c o a d
  | _ => copyBegin c o

/-! ### GET, PUT, BUPD (R212, R214, R215) -/

/-- [va, va + n) lies below 2^48; else the part beyond ends the operation, a GET, PUT, BUPD or TLD, with status 3, CAUSE 0x05, as R376
says it of a COPY (a choice: assumption log, entry 81). -/
def inVa (va n : Nat) : GM Unit := if 2 ^ 48 < va + n then GM.stop 3 0x05 (max va (2 ^ 48)) else pure ()

/-- [x, x + n) cut where either side of a transfer meets a line: (offset, length); l and g are the sides' places at offset 0,
f bounds the pieces (R214). -/
def splitPieces (l g : Nat) : Nat → Nat → Nat → List (Nat × Nat)
  | 0, _, _ => []
  | f + 1, x, n =>
    if n = 0 then []
    else
      let k := min n (min (64 - (l + x) % 64) (64 - (g + x) % 64))
      (x, k) :: splitPieces l g f (x + k) (n - k)

/-- One piece of a transfer between local address l and global address g: read, then written. -/
def movePart (c : Nat) (o : EngOp) (l g n : Nat) : GM Unit := do
  inVa g n
  if o.opc = 0x7E then
    let bs ← GM.read c o.asid g n
    GM.localWrite c l bs
  else
    let bs ← GM.localRead c l n
    GM.write (o.via c .copy) o.asid g bs

/-- The length of the chunk of a plain GET or PUT that begins at o.pos (R214, R219). -/
def moveChunk (c : Nat) (o : EngOp) : GM Nat := do
  let left := o.vb - o.pos
  if o.opc = 0x7E then pure (min left (4096 - (o.vd + o.pos) % 4096))
  else do
    let g := o.ea + o.pos
    inVa g 1
    let (_, leaf) ← GM.trans c o.asid g .write
    let p := leafPage g leaf
    pure (min left (p.1 + p.2 - g))

/-- One piece of a plain GET or PUT: any of those left of its chunk, which nothing orders (R369). -/
def movePiece (c : Nat) (o : EngOp) : GM (Option EngOp × Nat) := do
  let z ← if o.rest = [] then moveChunk c o else pure o.sub
  let rest := if o.rest = [] then splitPieces (o.vd + o.pos) (o.ea + o.pos) (z / 32 + 3) 0 z else o.rest
  let i ← GM.pick rest.length
  let (x, k) := rest.getD i (0, 0)
  movePart c o (o.vd + o.pos + x) (o.ea + o.pos + x) k
  let rest := rest.eraseIdx i
  if rest ≠ [] then pure (some { o with rest := rest, sub := z }, 0)
  else if o.pos + z = o.vb then pure (none, o.vb)
  else pure (some { o with pos := o.pos + z, rest := [] }, 0)

/-- One piece of the element of an indexed one that is being moved, or of the next: any of those left of it; lanes hold count, list,
stride and element size, td1 the element's global address. -/
def moveElement (c : Nat) (o : EngOp) : GM (Option EngOp × Nat) := do
  let g (i : Nat) : Nat := o.lanes.getD i 0
  let l := o.vd + o.pos * g 3
  let (va, rest) ←
    if o.rest = [] then do
      let ix ← GM.localRead c (g 1 + 4 * o.pos) 4
      let va := o.ea + leNat ix * g 2
      inVa va (g 3)
      pure (va, splitPieces l va (g 3 / 32 + 3) 0 (g 3))
    else pure (o.td1, o.rest)
  let i ← GM.pick rest.length
  let (x, k) := rest.getD i (0, 0)
  movePart c o (l + x) (va + x) k
  let rest := rest.eraseIdx i
  if rest ≠ [] then pure (some { o with rest := rest, td1 := va }, 0)
  else if o.pos + 1 = g 0 then pure (none, g 0)
  else pure (some { o with pos := o.pos + 1, rest := [] }, 0)

/-- One element updated at its home slice, in one performance (R210, R212). -/
def State.bankUpdate (s : State) (c asid va n op b : Nat) : State × Except GErr Unit :=
  State.replied c <| match s.gTransVia { turn := true, core := c } asid va .both with
    | (s, .error e) => (s, .error e)
    | (s, .ok (pa, leaf)) =>
      if s.paKind pa = .aperture then (s, .error (.cause 0x05 pa))
      else match s.paRead (homeSlice va) pa n (leafKey leaf) 0 with
        | (s, .error e) => (s, .error e)
        | (s, .ok old) =>
          match bankOp op (8 * n) (leNat old) b 0 with
          | none => (s, .ok ())
          | some v => s.gWriteAt asid va pa leaf (natLE n v) false

/-- The next chunk of a BUPD: the elements on one destination page. -/
def bupdChunk (c : Nat) (o : EngOp) : GM (Option EngOp × Nat) := do
  let z := 2 ^ o.m
  let va := o.ea + o.pos * z
  inVa va z
  let (_, leaf) ← GM.trans c o.asid va .both
  let p := leafPage va leaf
  let n := min (o.vc - o.pos) ((p.1 + p.2 - va) / z)
  let _ ← GM.par <| (List.range n).map fun i => do
    let b ← GM.localRead c (o.vb + (o.pos + i) * z) z
    GM.act fun s => s.bankUpdate c o.asid (va + i * z) z o.xop (leNat b)
  if o.pos + n = o.vc then pure (none, o.vc) else pure (some { o with pos := o.pos + n }, 0)

/-! ### TLD (R265) -/

/-- The page of a row's bytes is of a class the tile takes. -/
def tldClass (c asid va fmt : Nat) : GM Unit := do
  let (_, leaf) ← GM.trans c asid va .read
  let k := leafEfc leaf
  if fmt ≠ 0 ∧ k ≠ 0 ∧ k ≠ fmt then GM.stop 5 0x07 k false

/-- The next row of a TLD. -/
def tldRow (c : Nat) (o : EngOp) : GM (Option EngOp × Nat) := do
  let v := o.td1
  let a := (o.va + o.pos * o.vb) % 2 ^ 64
  inVa a (tdSpan v)
  let take (off n : Nat) : GM (List Byte) := do
    let _ ← (linePieces 3 (a + off) n).mapM fun e => tldClass c o.asid e.1 (tdFmt v)
    GM.read c o.asid (a + off) n o.th
  let got ← GM.par (take 0 (tdData v) :: if tdScales v = 0 then [] else [take 32 (tdScales v)])
  GM.tileRow c v o.pos (got.getD 0 []) (got.getD 1 [])
  if o.pos + 1 = tdRows v then pure (none, tdRows v) else pure (some { o with pos := o.pos + 1 }, 0)

/-- The source of a TLD.win. -/
def winSide (c : Nat) (o : EngOp) : GM Side := do
  let w := o.lanes
  let so := descVec w 0
  let ex := descVec w 6
  mkSide c o.asid (o.snaps.getD 0 {}) (bits o.imm 3 0) (if (w.getD 9 0).testBit 0 then some (w.getD 10 0) else none)
    ((boxes ex).map (addIx so)) (some (so.getD 0 0, ex.getD 0 0)) .read

/-- What row i of the tile takes: its elements, those outside the extents under the record's XING as those out of bounds (R265), then the
scales of its blocks. -/
def winMoves (c : Nat) (o : EngOp) (a : Side) (i : Nat) : GM (List Move) := do
  let so := descVec o.lanes 0
  let ex := descVec o.lanes 6
  let ms ← (List.range (tdK o.td1)).mapM fun j => do
    let (x, fill) ←
      if i < ex.getD 1 0 ∧ j < ex.getD 0 0 then a.source c o.asid (addIx so [j, i, 0, 0, 0])
      else if a.e.xing = 1 then GM.stop 6 0x09 0 false
      else pure (none, a.e.xfill)
    pure ({ src := x, fill := fill, dst := none } : Move)
  let ss ← scaleMoves c o.asid a (ms.map (·.src)) (tdScales o.td1)
  pure (ms ++ ss)

/-- The elements and scales of a tile's row, as moves. -/
def EngOp.rowMoves (o : EngOp) : List Move :=
  let n := tdK o.td1 + tdScales o.td1
  (o.plan.drop (o.pos * n)).take n

/-- A row as the pages that are mapped by now place its elements and their scales (R219, R314, R376). -/
def rowAgain (c : Nat) (o : EngOp) (a : Side) (win : Option (Nat × Nat)) : GM (List Move) := do
  let ms := o.rowMoves
  let n := tdK o.td1
  if ms.all (·.sure) then pure ms
  else do
    let es ← (ms.take n).mapM fun m => do pure ({ m with src := ← a.again c o.asid .read m.src } : Move)
    windowStop win (es.filterMap fun m => m.src.map (·.fmt))
    let ss ← scaleMoves c o.asid a (es.map (·.src)) (tdScales o.td1)
    pure (es ++ ss)

/-- A planned row of a tile read and written; `strict` for RGLD, which takes no raw source for a 16-bit format. -/
def planRow (c : Nat) (o : EngOp) (a : Side) (win : Option (Nat × Nat)) (strict : Bool) : GM Unit := do
  let v := o.td1
  let w := fmtBits (tdFmt v)
  let vs ← GM.par <| (← rowAgain c o a win).map fun m => match m.src with
    | some k => do
      let (f, x) ← a.fmtAt c o.asid k .read
      if (if strict then f != tdFmt v else !fmtAgree f (tdFmt v)) then GM.stop 5 0x07 f false
      a.readCell c o.asid x o.th
    | none => pure m.fill
  let es := (vs.take (tdK v)).map (· % 2 ^ w)
  GM.tileRow c v o.pos (natLE (tdData v) (packBits w es)) ((vs.drop (tdK v)).map (BitVec.ofNat 8))

/-- The beginning of a TLD.win. -/
def winBegin (c : Nat) (o : EngOp) : GM (Option EngOp × Nat) := do
  let w ← readDesc c o.va
  let o := { o with lanes := w, begun := true }
  let e := o.snaps.getD 0 {}
  if !e.valid then GM.stop 3 0x08 (bits o.imm 3 0)
  let ex := descVec w 6
  match ([3, 4, 5, 11].map (w.getD · 0)).find? (· != 0) with
  | some x => GM.stop 3 0x02 x
  | none => pure ()
  if (w.getD 9 0).testBit 1 then GM.stop 3 0x02 (w.getD 9 0)
  if tdK o.td1 < ex.getD 0 0 then GM.stop 3 0x02 (ex.getD 0 0)
  if tdRows o.td1 < ex.getD 1 0 then GM.stop 3 0x02 (ex.getD 1 0)
  match (ex.drop 2).find? (· != 1) with
  | some x => GM.stop 3 0x02 x
  | none => pure ()
  rankStop e (descVec w 0) ex
  let a ← winSide c o
  if a.fixed ∧ !fmtAgree a.fmt (tdFmt o.td1) then GM.stop 5 0x07 a.fmt false
  let ms ← (List.range (tdRows o.td1)).mapM fun i => winMoves c o a i
  windowStop (some ((descVec w 0).getD 0 0, ex.getD 0 0)) (ms.flatten.filterMap fun m => m.src.map (·.fmt))
  pure (some { o with sides := [a], plan := ms.flatten }, 0)

/-- The next row of a TLD.win. -/
def winRow (c : Nat) (o : EngOp) : GM (Option EngOp × Nat) := do
  match o.sides with
  | [a] => do
    planRow c o a (some ((descVec o.lanes 0).getD 0 0, (descVec o.lanes 6).getD 0 0)) false
    if o.pos + 1 = tdRows o.td1 then pure (none, tdRows o.td1) else pure (some { o with pos := o.pos + 1 }, 0)
  | _ => winBegin c o

/-! ### RGLD (R289, R383) -/

/-- The length of item t; none at or above the entry count. -/
def itemLength (c asid : Nat) (e : ShapeEnt) (t : Nat) : GM (Option Nat) :=
  if e.perItem then
    if t < e.count then do pure (some (← bound c asid e t)) else pure none
  else if t + 1 < e.count then do
    let lo ← bound c asid e t
    let hi ← bound c asid e (t + 1)
    pure (some (hi - lo))
  else pure none

/-- The plan: for each row taken, the item and the position, each plus 1 and 0 for the fill; the offsets; how many
leading items were placed whole: an item of length 0 behind one that was cut short is none of them (a choice: R289; assumption log,
entry 44). -/
def rgldPlan (c asid rows : Nat) (e : ShapeEnt) : List Nat → Nat → List (Nat × Nat) → List Nat → Nat → Bool →
    GM (List (Nat × Nat) × List Nat × Nat)
  | [], _, rs, off, n, _ => pure (rs, off ++ [rs.length], n)
  | t :: ts, p0, rs, off, n, whole => do
    let len ← do
      match ← itemLength c asid e t with
      | some l => pure l
      | none => if e.xing = 1 then GM.stop 6 0x09 0 false else pure 0
    let room := rows - rs.length
    let take := min room (len - p0)
    let whole := whole && decide (len - p0 ≤ room)
    rgldPlan c asid rows e ts 0 (rs ++ (List.range take).map fun i => (t + 1, p0 + i)) (off ++ [rs.length])
      (if whole then n + 1 else n) whole

/-- The index vector of element i of a placed row. -/
def rgldIx (c asid : Nat) (e : ShapeEnt) (t p i : Nat) : GM (List Nat) :=
  if e.perItem then pure [i, p, t, 0, 0]
  else do
    let o ← bound c asid e t
    pure [i, o + p, 0, 0, 0]

/-- What a row takes, of the placed position p of item t, or none: its elements, then the scales of its blocks. -/
def rgldMoves (c : Nat) (o : EngOp) (a : Side) (r : Option (Nat × Nat)) : GM (List Move) := do
  let k := tdK o.td1
  match r with
  | none =>
    pure (List.replicate k { src := none, fill := a.e.xfill, dst := none } ++
      List.replicate (tdScales o.td1) { src := none, fill := 0x7F, dst := none })
  | some (t, p) => do
    let ix0 ← rgldIx c o.asid a.e t p 0
    let ms ← (List.range k).mapM fun i => do
      let ix := addIx ix0 [i, 0, 0, 0, 0]
      if (← a.here o.asid ix .read).padding ix then pure ({ src := none, fill := 0, dst := none } : Move)
      else if (List.range a.e.rank).any fun j => decide (a.e.dim j ≤ ix.getD j 0) then
        if a.e.xing = 1 then GM.stop 6 0x09 0 false else pure ({ src := none, fill := a.e.xfill, dst := none } : Move)
      else do pure { src := some (← a.cell c o.asid ix .read), fill := 0, dst := none }
    let ss ← scaleMoves c o.asid a (ms.map (·.src)) (tdScales o.td1)
    pure (ms ++ ss)

/-- The source of an RGLD, for the rows planned. -/
def rgldSide (c : Nat) (o : EngOp) (rows : List (Nat × Nat)) : GM Side := do
  let e := o.snaps.getD 0 {}
  let ixs ← (rows.flatMap fun r => (List.range (tdK o.td1)).map fun i => (r, i)).mapM fun q => rgldIx c o.asid e (q.1.1 - 1) q.1.2 q.2
  mkSide c o.asid e (bits o.imm 3 0) none ixs none .read

/-- The beginning of an RGLD: the list, the record, the plan, every element's place. A list with a reserved bit set, or of no items or more
than 64, ends it with status 3, CAUSE 0x02 and a record (a choice: R289; assumption log, entry 44). -/
def rgldBegin (c : Nat) (o : EngOp) : GM (Option EngOp × Nat) := do
  let e := o.snaps.getD 0 {}
  if !e.valid then GM.stop 3 0x08 (bits o.imm 3 0)
  if !e.rag ∨ e.rdim ≠ 1 ∨ e.rank ≠ (if e.perItem then 3 else 2) then GM.stop 3 0x02 (e.w 0)
  let w0 := leNat (← GM.localRead c o.va 8)
  let n := bits w0 7 0
  if bits w0 31 8 ≠ 0 ∨ n = 0 ∨ 64 < n then GM.stop 3 0x02 w0
  let bs ← GM.localRead c (o.va + 8) (4 * n)
  if !localRange o.vb (4 * (n + 1)) then GM.stop 3 0x05 o.vb
  let items := (List.range n).map fun i => leNat ((bs.drop (4 * i)).take 4)
  let (rows, off, whole) ← rgldPlan c o.asid (tdRows o.td1) e items (w0 / 2 ^ 32) [] [] 0 true
  let a ← rgldSide c o rows
  if a.fixed ∧ a.fmt ≠ tdFmt o.td1 then GM.stop 5 0x07 a.fmt false
  let ms ← (List.range (tdRows o.td1)).mapM fun i => rgldMoves c o a (rows[i]?.map fun r => (r.1 - 1, r.2))
  pure (some { o with begun := true, uops := off, sub := whole, sides := [a], plan := ms.flatten }, 0)

/-- How many leading items lie whole in the rows done so far. -/
def EngOp.rgldDone (o : EngOp) : Nat := ((List.range o.sub).takeWhile fun q => decide (o.uops.getD (q + 1) 0 ≤ o.pos)).length

/-- The next row of an RGLD; after the last, the offsets. -/
def rgldRow (c : Nat) (o : EngOp) : GM (Option EngOp × Nat) := do
  match o.sides with
  | [a] => do
    planRow c o a none true
    if o.pos + 1 = tdRows o.td1 then
      GM.localWrite c o.vb (o.uops.flatMap (natLE 4))
      pure (none, o.sub)
    else pure (some { o with pos := o.pos + 1 }, 0)
  | _ => rgldBegin c o

/-! ### The copy engine (R305) -/

/-- One row, chunk, piece or element of an operation. -/
def copyUnit (c : Nat) (o : EngOp) : GM (Option EngOp × Nat) :=
  if o.opc = 0x80 then copyGo c o
  else if o.opc = 0x7C then bupdChunk c o
  else if o.opc = 0xD0 then (if o.m = 0 then tldRow c o else winRow c o)
  else if o.opc = 0xE3 then rgldRow c o
  else if o.m = 1 then moveElement c o
  else movePiece c o

/-- PROG of an operation that stops where it stands. -/
def EngOp.copyProg (o : EngOp) : Nat := if o.opc = 0xE3 then o.rgldDone else o.pos

/-- The level at which an operation counts. -/
def EngOp.level (o : EngOp) (now : Nat) : Nat := min 3 (o.prio + max (b2n o.aged) ((now - o.since) / 4096))

/-- The oldest operation of the highest level among those that can go on. -/
def chooseOp (now : Nat) (ops : List EngOp) : Option EngOp :=
  (ops.filter fun o => !o.parked && !o.waits).foldl (fun b o => match b with
    | none => some o
    | some x => if x.level now < o.level now then some o else some x) none

/-- Its last row or piece is in flight. A chunk of a BUPD ends at a page, which is not known here. -/
def EngOp.lastUnit (o : EngOp) : Bool :=
  if o.opc = 0xD0 then (o.m = 0 || o.sides != []) && o.pos + 1 == tdRows o.td1
  else if o.opc = 0xE3 then o.sides != [] && o.pos + 1 == tdRows o.td1
  else if o.opc = 0x7E ∨ o.opc = 0x7F then
    if o.m = 1 then o.pos + 1 == o.lanes.getD 0 0 && (o.rest.length == 1 || o.lanes.getD 3 0 == 1)
    else if o.rest = [] then (splitPieces (o.vd + o.pos) (o.ea + o.pos) 2 0 (o.vb - o.pos)).length == 1
    else o.rest.length == 1 && o.pos + o.sub == o.vb
  else false

/-- What the engine goes on with: a COPY's chunk in flight holds it; else the operation that is first in the order of R305, when it has no
unit in flight, behind last units whose slices have not answered (R291). -/
def copyNext (now : Nat) (ops : List EngOp) : Option EngOp :=
  if ops.any fun o => o.live && o.opc == 0x80 then none
  else (chooseOp now (ops.filter fun o => !(o.live && o.lastUnit))).filter fun o => !o.live

/-- A transfer is with this module's own part, which the link leads back to (R216). -/
def Remote.own (x : Remote) (part : Nat) : Bool := part != 0 && x.part == part

/-- The element of an indexed one, or the chunk, to which a piece at local address l and place p belongs: 4 KiB of the destination, since
the engine does not learn the pages at the part (R215, R219; a choice: assumption log, entry 41). -/
def Remote.unit (x : Remote) (l p : Nat) : Nat :=
  if x.indexed then p / ((x.pieces.head?.map (·.2.2)).getD 1) else if x.get then l / 4096 else placeVa x.pieces p / 4096

/-- The least unit of a transfer that has a piece left to move at this module, of which nothing comes before another's (R215, R219,
R369). -/
def Remote.first (x : Remote) (part : Nat) : Nat :=
  ((x.todo.map fun q => x.unit q.1 q.2.1) ++ if x.get || !x.own part then [] else x.data.map fun q => x.unit 0 q.1).min?.getD 0

/-- The pieces that it may move now, as (what, which, place): 0 its first half, a PUT's read here or a GET's read at this module's own
part, 1 its second, a GET's placed here or a PUT's written at this module's own part. Its units go one after another, in ascending order,
and a parked piece does not move. -/
def Remote.steps (x : Remote) (part : Nat) : List (Nat × Nat × Nat × Nat × Nat) :=
  let todo := x.todo.zipIdx
  let go (l : List (Nat × Nat × Nat × Nat × Nat)) : List (Nat × Nat × Nat × Nat × Nat) :=
    l.filter fun q => x.unit q.2.2.1 q.2.2.2.1 == x.first part && !x.parked.contains q.2.2.2.1
  if x.fin.isSome then []
  else if x.own part then
    go (if x.get then todo.map fun p => (b2n (x.data.lookup p.1.2.1).isSome, p.2, p.1)
      else todo.map (fun p => (0, p.2, p.1)) ++ x.data.zipIdx.map fun p => (1, p.2, 0, p.1.1, p.1.2.length))
  else if !x.get then go (todo.map fun p => (0, p.2, p.1))
  else if x.acked then go (todo.map fun p => (1, p.2, p.1))
  else []

/-- The level at which a transfer with another part counts (R305). -/
def Remote.level (x : Remote) (now : Nat) : Nat := min 3 (x.prio + (now - x.served) / 4096)

/-- Of two operations, by level and number, the first goes before the second: the higher level, then the older one (R305). -/
def goesBefore (a b : Nat × Nat) : Bool := decide (b.1 < a.1) || (a.1 == b.1 && decide (a.2 < b.2))

/-- The operation that the copy engine goes on with, unless a transfer with another part goes before it. -/
def Core.copyNext (k : Core) (part now : Nat) : Option EngOp :=
  (Sys2Proof.Machine.copyNext now (k.ops .copy)).filter fun o =>
    !k.eng.remote.any fun x => x.steps part != [] && goesBefore (x.level now, x.id) (o.level now, o.id)

/-- A transfer with another part waits for something else of the copy engine. -/
def Core.remoteWaits (k : Core) (part now : Nat) (x : Remote) : Bool :=
  ((k.ops .copy).any fun o => o.live && o.opc == 0x80) ||
    ((chooseOp now ((k.ops .copy).filter fun o => !(o.live && o.lastUnit))).any fun o => goesBefore (o.level now, o.id) (x.level now, x.id)) ||
    k.eng.remote.any fun y => y.steps part != [] && goesBefore (y.level now, y.id) (x.level now, x.id)

/-- COPY_PIECE: a unit in flight comes to its end, else the engine's next is performed whole, else the completions go that have waited
in the core's engines. An engine that stands still finishes the unit in flight (R418). -/
def execCopyPiece (c : Nat) (s : State) : Out :=
  let k := s.core c
  match ((k.ops .copy).find? fun o => o.live && !o.parked).or (if k.eng.stopped then none else k.copyNext s.fw.part s.cycles) with
  | none => .next (s.endWaiting c)
  | some o =>
    .next (s.runUnit c .copy o o.copyProg (copyUnit c o))

/-- Operation id begins a unit, if the engine begins it next, or performs a piece of the one in flight, n picking among those that
may be next. -/
def State.copyPiece (s : State) (c id n : Nat) : State :=
  let k := s.core c
  match k.findOp .copy id with
  | none => s
  | some o =>
    if o.parked || !(o.live || (!k.eng.stopped && (k.copyNext s.fw.part s.cycles).any fun x => x.id == id)) then s
    else s.runUnit c .copy o o.copyProg (copyUnit c o) (some (if o.live then 1 else 0)) n

/-- COPY_AGING. -/
def execCopyAging (c n : Nat) (s : State) : Out :=
  match ((s.core c).ops .copy)[n]? with
  | some o =>
    .next (if o.since + 4096 ≤ s.cycles then s.modCore c (·.setOp .copy { o with aged := true }) else s)
  | none => .next s

/-! ### Issue -/

/-- The copy engine holds 32 operations. -/
def Core.copyFull (k : Core) : Bool := decide (32 ≤ (k.ops .copy).length + k.eng.remote.length)

/-- The operation enters the copy engine; a full one holds issue. -/
def copyIssue (k : Ctx) (s : State) (r : Ref) (start : State → State) : Out :=
  if s.me.copyFull then .next s else .next ((start (issued s r)).advance k.len)

/-- The operation, issued at u, ends as it issues; where its completion must wait and the engine is full, it does not issue (s). -/
def copyEnds (k : Ctx) (s u : State) (r : Ref) (x : Ending) : Out :=
  .next (((u.endAtIssue .copy u.me.copyFull (k.engOp u r) x).map (·.advance k.len)).getD s)

/-- An operation whose work is none signals at once, unless earlier completions wait. -/
def noWork (k : Ctx) (s : State) (r : Ref) : Out := copyEnds k s (issued s r) r {}

/-- COPY. -/
def opCopy (k : Ctx) (s : State) : Out :=
  run false k s fun s =>
    checkLocal s (k.vA s) 96 32 <| withRef k s fun r =>
      copyIssue k s r fun t => t.startWithSnaps s.cur .copy (k.engOp s r) [bits k.imm 3 0, bits k.imm 7 4]

/-- BUPD. -/
def opBupd (k : Ctx) (s : State) : Out :=
  run false k s fun s =>
    let n := k.vC s
    let z := k.size
    let body : Out := withRef k s fun r =>
      if n = 0 then noWork k s r else copyIssue k s r fun t => t.modMe (·.startOp .copy (k.engOp s r))
    checkGlobal s (k.ea s) z <| if n = 0 then (if k.vB s % z ≠ 0 then trapOut s 0x04 (k.vB s) else body) else checkLocal s (k.vB s) (n * z) z body

/-- The pieces of a GET or PUT as another part's transfer takes them: (local address, address there, length). -/
def remotePieces (k : Ctx) (s : State) (lanes : List Nat) : List (Nat × Nat × Nat) :=
  if k.m = 0 then [(k.vD s, k.ea s, k.vB s)]
  else (List.range (lanes.getD 0 0)).map fun i =>
    (k.vD s + i * lanes.getD 3 0, (k.ea s + s.localN s.cur (lanes.getD 1 0 + 4 * i) 4 * lanes.getD 2 0) % 2 ^ 64, lanes.getD 3 0)

/-- The pieces of those runs at this side, none of which crosses a line on either (R214), the first at place at_ of the transfer. -/
def remoteTodo : Nat → List (Nat × Nat × Nat) → List (Nat × Nat × Nat)
  | _, [] => []
  | at_, (l, g, n) :: ps => (splitPieces l g (n / 32 + 3) 0 n).map (fun e => (l + e.1, at_ + e.1, e.2)) ++ remoteTodo (at_ + n) ps

/-- A transfer with another part as it is issued. -/
def Ctx.remote (k : Ctx) (s : State) (r : Ref) (ps : List (Nat × Nat × Nat)) : Remote :=
  { get := k.op == 0x7E, indexed := k.m == 1, part := k.vC s, pieces := ps, asid := s.me.net.asid, todo := remoteTodo 0 ps
    since := s.cycles, served := s.cycles, prio := s.me.spr.prio.toNat, id := s.me.eng.nextId, epc := s.me.pl.pc
    handle := s.me.pl.handle, ref := r }

/-- GET and PUT once their operands are checked: n bytes or elements, on this module or with another part (R216). The index list of
one with another part is read at issue (a choice: assumption log, entry 41), and may meet an error, as any engine's reads (R355). -/
def opMoveGo (k : Ctx) (s : State) (n : Nat) (lanes : List Nat) : Out :=
  withRef k s fun r =>
    if n = 0 then noWork k s r
    else if k.vC s = 0 then copyIssue k s r fun t => t.modMe (·.startOp .copy { k.engOp s r with lanes := lanes })
    else if s.me.copyFull then .next s
    else match if k.m = 0 then (issued s r, Except.ok []) else (issued s r).engLocal s.cur (lanes.getD 1 0) (4 * lanes.getD 0 0) with
      | (t, .error _) => copyEnds k s t r (badLocal (lanes.getD 1 0))
      | (t, .ok _) => .next ((t.modMe (·.modEng fun e =>
          { e with remote := e.remote ++ [k.remote s r (remotePieces k t lanes)], nextId := e.nextId + 1 })).advance k.len)

/-- GET and PUT. -/
def opMove (k : Ctx) (s : State) : Out :=
  run false k s fun s =>
    let d := k.vB s
    if 2 ^ 16 ≤ k.vC s then trapOut s 0x02 (k.vC s)
    else if k.m = 0 then
      checkGlobal s (k.ea s) 1 <| if d = 0 then opMoveGo k s 0 [] else checkLocal s (k.vD s) d 1 <| opMoveGo k s d []
    else
      checkLocal s d 16 16 <|
        let s := s.localReach s.cur d 16
        if s.localBad s.cur d 16 then withRef k s fun r => copyEnds k s (issued s r) r (badLocal d)
        else
          let w0 := s.localN s.cur d 8
          let w1 := s.localN s.cur (d + 8) 8
          let n := bits w0 47 32
          let z := w1 % 2 ^ 32
          if w0 / 2 ^ 48 ≠ 0 then trapOut s 0x02 w0
          else if z = 0 ∨ 65536 < z then trapOut s 0x02 w1
          else
            let lanes := [n, w0 % 2 ^ 32, w1 / 2 ^ 32, z]
            checkGlobal s (k.ea s) 1 <|
              if n = 0 then opMoveGo k s 0 lanes
              else checkLocal s (w0 % 2 ^ 32) (4 * n) 4 <| checkLocal s (k.vD s) (n * z) 1 <| opMoveGo k s n lanes

/-- TLD. -/
def opTld (k : Ctx) (s : State) : Out :=
  run false k s fun s =>
    let v := (s.me.td k.d).toNat
    let o (r : Ref) : EngOp := { k.engOp s r with td1 := v }
    checkTd s v (tdFmt v ≤ 10) <|
      if k.m = 0 then
        let al := if tdWide v then 4 else 2
        checkGlobal s (k.vA s) al <|
          if k.vB s % al ≠ 0 then trapOut s 0x04 (k.vB s)
          else withRef k s fun r => copyIssue k s r fun t => (t.emptyRows v).modMe (·.startOp .copy (o r))
      else checkLocal s (k.vA s) 96 32 <| withRef k s fun r =>
        copyIssue k s r fun t => (t.emptyRows v).startWithSnaps s.cur .copy (o r) [bits k.imm 3 0]

/-- RGLD. -/
def opRgld (k : Ctx) (s : State) : Out :=
  run false k s fun s =>
    let v := (s.me.td k.d).toNat
    checkTd s v (decide (tdFmt v ≠ 0) && decide (tdFmt v ≤ 10)) <|
      checkLocal s (k.vA s) 8 8 <| checkLocal s (k.vB s) 4 4 <| withRef k s fun r =>
        copyIssue k s r fun t =>
          (t.emptyRows v).startWithSnaps s.cur .copy { k.engOp s r with td1 := v } [bits k.imm 3 0]

/-! ### Other parts (R216) -/

/-- REMOTE_TIMEOUT: the link timeout that firmware sets has passed with no acknowledgement; 1 ms, 4,000,000 core cycles (R6), unless
it set another. None passes while the engines stand still (R418). -/
def execRemoteTimeout (c n : Nat) (s : State) : Out :=
  match (s.core c).eng.remote[n]? with
  | some x =>
    if x.acked || x.fin.isSome || (s.core c).eng.stopped || decide (s.cycles < x.since + s.fw.linkTimeout) then .next s
    else .next (s.endRemote (s.regionOf c) c x 4 0 0 none)
  | none => .next s

/-- Bytes of a whole transfer. -/
def Remote.bytes (x : Remote) : Nat := (x.pieces.map (·.2.2)).sum

/-- What PROG counts of a whole transfer: bytes, or elements of an indexed one. -/
def Remote.prog (x : Remote) : Nat := if x.indexed then x.pieces.length else x.bytes

/-- PROG of a transfer that stops at this module: the elements, or the bytes of the chunks, complete by then (R214, R215); of a PUT with
another part those that have left whole (a choice: assumption log, entry 41). -/
def Remote.progAt (x : Remote) (part : Nat) : Nat :=
  if x.indexed then x.first part
  else match x.pieces with
    | (l, g, _) :: _ => 4096 * x.first part - (if x.get then l else g)
    | [] => 0

/-- A transfer's piece meets an error of the scratchpad (R355). -/
def State.failRemote (s : State) (c : Nat) (x : Remote) (v : Nat) : State :=
  s.endRemote (s.regionOf c) c x 3 0x10 (x.progAt s.fw.part) (some v)

/-- What an access at this module's own part, for the piece of place p, came to: an ending as on this module, a fault that parks it there,
or its turn has not come (R195, R216). -/
def State.remoteErr (s : State) (c : Nat) (x : Remote) (p : Nat) (e : GErr) : State :=
  match e with
  | .abort v => s.endRemote (s.regionOf c) c x 3 0x13 (x.progAt s.fw.part) (some v)
  | .cause cs v => s.endRemote (s.regionOf c) c x 3 cs (x.progAt s.fw.part) (some v)
  | e =>
    match s.parkErr x.asid c x.handle e (.piece c .copy x.id (s.regionOf c) e.va (e.stamp s x.order) []) with
    | some t => t.modCore c (·.setRemote { x with parked := p :: x.parked, order := none })
    | none => s

/-- How its accesses to this module's memory reach their slices. -/
def Remote.via (x : Remote) (c : Nat) : Via := { turn := true, core := c, eng := some .copy, order := x.order }

/-- A step of transfer x of core c, `half` of its piece j at local address l and place p, m bytes long: a PUT's is read, and leaves through
the link; a GET's is placed once it has come, and the last of them ends it (R214). With this module's own part its other half is performed
here too. -/
def State.remoteStep (s : State) (c : Nat) (x : Remote) (half j l p m : Nat) : State :=
  let y := { x with served := s.cycles, order := if half = 0 then x.order else none }
  let rest := { y with todo := y.todo.eraseIdx j }
  let via := x.via c
  let bs := (x.data.lookup p).getD []
  match x.get, half with
  | true, 1 =>
    match s.engPut c l bs with
    | (t, .error _) => t.failRemote c x l
    | (t, .ok ()) =>
      if rest.todo = [] then t.endRemote (t.regionOf c) c x 0 0 x.prog none else t.modCore c (·.setRemote rest)
  | true, _ =>
    match s.gReadPiece x.asid (placeVa x.pieces p) m .read via with
    | (t, .error e) => t.remoteErr c x p e
    | (t, .ok bs) => t.modCore c (·.setRemote { y with data := y.data ++ [(p, bs)] })
  | false, 0 =>
    match s.engLocal c l m with
    | (t, .error _) => t.failRemote c x l
    | (t, .ok bs) => t.modCore c (·.setRemote { rest with data := x.data ++ [(p, bs)] })
  | false, _ =>
    match s.gWritePiece x.asid (placeVa x.pieces p) bs via with
    | (t, .error e) => t.remoteErr c x p e
    | (t, .ok ()) => t.modCore c (·.setRemote { y with data := y.data.eraseIdx j })

/-- One piece of transfer n of core c, i picking among those that may be moved, which nothing orders (R369), when the engine goes on
with that transfer (R305). None is performed while the engines stand still (R418). -/
def State.remotePiece (s : State) (c n i : Nat) : State :=
  let k := s.core c
  match k.eng.remote[n]? with
  | none => s
  | some x =>
    let steps := x.steps s.fw.part
    match steps[i % steps.length]? with
    | none => s
    | some (half, j, l, p, m) =>
      if k.eng.stopped || k.remoteWaits s.fw.part s.cycles x then s else s.remoteStep c x half j l p m

/-- The piece of place p of a transfer that another piece has ended is performed by itself, parked anew, or dropped (R195). -/
def State.remoteAlone (s : State) (c : Nat) (x : Remote) (p : Nat) : State :=
  let via := x.via c
  let va := placeVa x.pieces p
  let r := if x.get then
      let (t, r) := s.gReadPiece x.asid va (((x.todo.find? fun q => q.2.1 == p).map (·.2.2)).getD 0) .read via
      (t, r.map fun _ => ())
    else s.gWritePiece x.asid va ((x.data.lookup p).getD []) via
  match r with
  | (t, .ok ()) => t
  | (t, .error (.fault v r l w need)) => t.remoteErr c x p (.fault v r l w need)
  | (t, .error (.behind v need)) => t.remoteErr c x p (.behind v need)
  | (t, .error _) => t

/-- RESUME for the piece at va of such a transfer, which is performed at once, unless its engine stands still or its weave is swapped out;
one of a transfer that another piece has ended is performed alone (R195, R347). `n` is its number among the parked writes. -/
def State.remoteResume (s : State) (region : Option Nat) (c id va : Nat) (n : Option Nat) : State :=
  match (s.owner region c).bind (·.findRemote id) with
  | none => s
  | some x =>
    let place := x.parkedAt va
    let s := s.unparkRemote region c id va true n
    if s.regionOf c ≠ region then s.settlePiece region c .copy id
    else if x.fin.isSome then
      (match (s.core c).findRemote id, place with
        | some y, some p => s.remoteAlone c { y with order := n } p
        | _, _ => s).settlePiece region c .copy id
    else if (s.core c).eng.stopped then s
    else match (s.core c).findRemote id, place with
      | some y, some p =>
        match (y.steps s.fw.part).find? fun q => q.2.2.2.1 == p with
        | some (half, j, l, p, m) => s.remoteStep c y half j l p m
        | none => s
      | _, _ => s

/-- ABORT for it: the transfer ends as R195 says, unless another piece has ended it. -/
def State.abortRemote (s : State) (region : Option Nat) (c id va : Nat) : State :=
  let s := s.unparkRemote region c id va false none
  match (s.owner region c).bind (·.findRemote id) with
  | none => s
  | some x =>
    if x.fin.isSome then s.settlePiece region c .copy id
    else s.endRemote region c x 3 0x13 (x.progAt s.fw.part) (some va)

/-- Transfer n of core c: those of the weave that it runs, then those of weaves swapped out, by region. -/
def State.remoteAt (s : State) (c n : Nat) : Option (Option Nat × Remote) :=
  let here := (s.core c).eng.remote.map fun x => (s.regionOf c, x)
  let away := s.regions.flatMap fun r => match s.imageOf (some r.1) c with
    | some (_, _, k) => k.eng.remote.map fun x => (some r.1, x)
    | none => []
  (here ++ away)[n]?

/-- REMOTE_ACKNOWLEDGEMENT: the cause of a failure; else cause 0, with as many bytes as a GET asked for, whose pieces are then placed,
or for a PUT all of whose pieces have left, which it ends. A weave that is swapped out receives it too (R418). -/
def execRemoteAcknowledgement (c n : Nat) (cause : BitVec 8) (data : List Byte) (s : State) : Out :=
  match s.remoteAt c n with
  | none => .next s
  | some (region, x) =>
    let ends (code cause prog : Nat) : Out := .next (s.endRemote region c x code cause prog none)
    if x.acked || x.fin.isSome then .next s
    else if cause ≠ 0 then ends 3 cause.toNat 0
    else if x.get then
      if data.length ≠ x.bytes || x.own s.fw.part then .next s
      else .next (s.modOwner region c (·.setRemote
        { x with acked := true, data := x.todo.map fun p => (p.2.1, (data.drop p.2.1).take p.2.2) }))
    else if x.todo ≠ [] ∨ (x.own s.fw.part ∧ x.data ≠ []) then .next s
    else ends 0 0 x.prog

/-- BUPD (R212). -/
def execBupd (o : Ext) (s : State) : Out := opBupd (ctxX 0x7C o) s

/-- GET (R214). -/
def execGet (o : Ext) (s : State) : Out := opMove (ctxX 0x7E o) s

/-- PUT (R214). -/
def execPut (o : Ext) (s : State) : Out := opMove (ctxX 0x7F o) s

/-- COPY (R217). -/
def execCopy (o : Ext) (s : State) : Out := opCopy (ctxX 0x80 o) s

/-- TLD (R265). -/
def execTld (o : Ext) (s : State) : Out := opTld (ctxX 0xD0 o) s

/-- RGLD (R289). -/
def execRgld (o : Ext) (s : State) : Out := opRgld (ctxX 0xE3 o) s

end Sys2Proof.Machine
end

