-- ==== Sys2Proof/Machine/Sha256.lean ====
section
/-! DEFINITION. SHA-256 (FIPS 180-4), which R90 and R92 name; byte strings in, a 256-bit digest out. The standard's
constants are computed from what it says they are: bits of the roots of the first primes. -/

namespace Sys2Proof.Machine

/-- The first 64 primes. -/
def shaPrimes : List Nat :=
  (List.range 312).filter fun n => decide (2 ≤ n) && (List.range 18).all fun d => decide (d < 2) || n == d || n % d != 0

/-- The greatest number whose k-th power is at most n, of 40 bits, from its top bit down. -/
def natRoot (k n : Nat) : Nat :=
  (List.range 40).foldl (fun r i => if (r + 2 ^ (39 - i)) ^ k ≤ n then r + 2 ^ (39 - i) else r) 0

/-- The first 32 bits of the fraction of a prime's k-th root. -/
def rootFraction (k p : Nat) : Word32 := BitVec.ofNat 32 (natRoot k (p * 2 ^ (32 * k)))

/-- The round constants, and the digest that a message begins from. -/
def shaRoundWords : List Word32 := shaPrimes.map (rootFraction 3)
def shaStart : List Word32 := (shaPrimes.take 8).map (rootFraction 2)

/-- The exclusive or of three right turns of a word. -/
def turns3 (w : Word32) (i j k : Nat) : Word32 := w.rotateRight i ^^^ w.rotateRight j ^^^ w.rotateRight k

/-- One round on the eight working words with its constant and its message word: the words move one place on, the first and
the fifth taking what is mixed in. -/
def shaRound (ws : List Word32) (k m : Word32) : List Word32 :=
  let x i := ws.getD i 0
  let choice := x 6 ^^^ (x 4 &&& (x 5 ^^^ x 6))
  let most := (x 0 &&& (x 1 ||| x 2)) ||| (x 1 &&& x 2)
  let mixed := x 7 + k + m + choice + turns3 (x 4) 6 11 25
  (mixed + most + turns3 (x 0) 2 13 22) :: (ws.take 3 ++ (x 3 + mixed) :: (ws.drop 4).take 3)

/-- The message word that follows sixteen, oldest first. -/
def shaNext (ms : List Word32) : Word32 :=
  let small (w : Word32) (i j k : Nat) : Word32 := w.rotateRight i ^^^ w.rotateRight j ^^^ (w >>> k)
  small (ms.getD 14 0) 17 19 10 + ms.getD 9 0 + small (ms.getD 1 0) 7 18 3 + ms.headD 0

/-- Rounds over constants, the window of message words moving on. -/
def shaRounds : List Word32 → List Word32 → List Word32 → List Word32
  | [], _, ws => ws
  | k :: ks, ms, ws => shaRounds ks (ms.drop 1 ++ [shaNext ms]) (shaRound ws k (ms.headD 0))

/-- Big-endian words of a byte string. -/
def shaWords : List Byte → List Word32
  | b0 :: b1 :: b2 :: b3 :: rest => (b0 ++ b1 ++ b2 ++ b3) :: shaWords rest
  | _ => []

/-- n blocks of sixteen words, each added to the digest so far. -/
def shaBlocks : Nat → List Word32 → List Word32 → List Word32
  | 0, _, ws => ws
  | n + 1, ms, ws => shaBlocks n (ms.drop 16) (List.zipWith (· + ·) ws (shaRounds shaRoundWords (ms.take 16) ws))

/-- n bytes of a number, most significant first. -/
def natBE (n x : Nat) : List Byte := (List.range n).map fun i => BitVec.ofNat 8 (x >>> (8 * (n - 1 - i)))

/-- A message filled up to whole blocks: a set bit, zeros, its length in bits. -/
def shaPadded (bs : List Byte) : List Byte :=
  let zeros := (119 - bs.length % 64) % 64
  bs ++ 0x80 :: (List.replicate zeros 0 ++ natBE 8 (8 * bs.length))

/-- The digest of a byte string; byte 0 is its most significant byte. -/
def sha256 (bs : List Byte) : BitVec 256 :=
  let m := shaPadded bs
  BitVec.ofNat 256 ((shaBlocks (m.length / 64) (shaWords m) shaStart).foldl (fun v w => v * 2 ^ 32 + w.toNat) 0)

end Sys2Proof.Machine
end

