-- ==== Sys2Proof/Machine/Elementary.lean ====
section
/-! DEFINITION. The special functions of R248 and R249: the exact cases as the spec gives them; elsewhere the FP32 result
nearest the exact value, computed in fixed point, off by a free number of units within the spec's bound (assumption
log, entry 21). -/

namespace Sys2Proof.Machine

/-! ### Fixed point: a number stands for itself over 2^fxP -/

/-- Fraction bits. -/
def fxP : Nat := 512
def fxOne : Nat := 2 ^ fxP

/-- a × b, a / b. -/
def fxMul (a b : Nat) : Nat := a * b / fxOne
def fxDiv (a b : Nat) : Nat := a * fxOne / b

/-- ln 2 as the sum of 1 / (k 2^k). -/
def fxLn2 : Nat := ((List.range 520).map fun i => fxOne / ((i + 1) * 2 ^ (i + 1))).sum

/-- atan (1 / q): n terms from the i-th on. -/
def fxAtan (q : Nat) : Nat → Nat → Int
  | 0, _ => 0
  | n + 1, i =>
    let t : Int := (fxOne / ((2 * i + 1) * q ^ (2 * i + 1)) : Nat)
    (if i % 2 = 0 then t else -t) + fxAtan q n (i + 1)

/-- π, by Machin's formula. -/
def fxPi : Nat := (16 * fxAtan 5 240 0 - 4 * fxAtan 239 80 0).toNat

/-- The sum of t^i / i! from the term in hand on, each term scaled by the sign of its place: n terms; `step` is 1 for
the exponential, 2 for sine and cosine, whose signs alternate. -/
def fxSeries (t : Nat) (step : Nat) : Nat → Nat → Nat → Bool → Int
  | 0, _, _, _ => 0
  | n + 1, i, term, neg =>
    let next := if step = 1 then fxMul term t / (i + 1) else fxMul (fxMul term t / (i + 1)) t / (i + 2)
    (if neg then -(term : Int) else term) + fxSeries t step n (i + step) next (step == 2 && !neg)

/-- 2^f for 0 ≤ f < 1. -/
def fxExp2 (f : Nat) : Nat := (fxSeries (fxMul f fxLn2) 1 160 0 fxOne false).toNat

/-- 2^u for a fixed-point u of either sign, as a fixed-point number; what is too small is 0. Only for u up to 1024. -/
def fxPow2 (u : Int) : Nat :=
  let n := u / (fxOne : Int)
  let m := fxExp2 (u % (fxOne : Int)).toNat
  if n < -(fxP : Int) then 0 else if n < 0 then m / 2 ^ (-n).toNat else m * 2 ^ (min n 1024).toNat

/-- e^(−u). -/
def fxExpNeg (u : Nat) : Nat := if 1024 * fxOne < u then 0 else fxPow2 (-(fxDiv u fxLn2 : Nat))

/-- The fraction bits of log2 y for 1 ≤ y < 2, n of them, by squaring. -/
def fxLogBits : Nat → Nat → Nat
  | 0, _ => 0
  | n + 1, y =>
    let z := fxMul y y
    if 2 * fxOne ≤ z then 2 ^ n + fxLogBits n (z / 2) else fxLogBits n z

/-- |m × 2^e| in fixed point. -/
def fxOf (m : Nat) (e : Int) : Nat := (splitAt m e (-(fxP : Int))).1

/-- Sine and cosine of a fixed-point angle, reduced to less than a full turn. -/
def fxSin (x : Nat) : Int :=
  let r := x % (2 * fxPi)
  if r < fxPi then fxSeries r 2 110 1 r false else -(fxSeries (2 * fxPi - r) 2 110 1 (2 * fxPi - r) false)
def fxCos (x : Nat) : Int := fxSeries (x % (2 * fxPi)) 2 160 0 fxOne false

/-! ### The functions -/

/-- The value is 2^k for an integer k. -/
def pow2Exp : FV → Option Int
  | .fin false m e => if m ≠ 0 ∧ m = 2 ^ Nat.log2 m then some (e + (Nat.log2 m : Nat)) else none
  | _ => none

/-- The value is an integer. -/
def intOf : FV → Option Int
  | .fin n m e =>
    let (q, rem, _) := splitAt m e 0
    if rem = 0 then some (if n then -(q : Int) else q) else none
  | _ => none

/-- The exact value of a finite operand's function away from the exact cases, as sign, magnitude and exponent. -/
def sfValue (op : Nat) (neg : Bool) (m : Nat) (e : Int) : Bool × Nat × Int :=
  let x := fxOf m e
  let q : Int := -(fxP : Int)
  let ofInt (v : Int) : Bool × Nat × Int := (decide (v < 0), v.natAbs, q)
  match op with
  | 0xB4 =>
    let u : Int := if neg then -(x : Int) else x
    if 1024 * (fxOne : Int) < u then (false, 1, 2048)
    else if u < -(2048 * (fxOne : Int)) then (false, 1, -4096)
    else (false, fxExp2 (u % (fxOne : Int)).toNat, q + u / (fxOne : Int))
  | 0xB5 =>
    let k := e + (Nat.log2 m : Nat)
    let y := fxOf m (-(Nat.log2 m : Nat))
    ofInt (k * (fxOne : Int) + (fxLogBits 250 y * 2 ^ (fxP - 250) : Nat))
  | 0xB6 => (neg, 2 ^ 512 / m, -512 - e)
  | 0xB7 =>
    let sh : Nat := 1024 + (if e % 2 = 0 then 0 else 1)
    (false, isqrt (2 ^ sh / m), (-e - (sh : Int)) / 2)
  | 0xB9 => let v := fxSin x; ofInt (if neg then -v else v)
  | 0xBA => ofInt (fxCos x)
  | 0xBB =>
    let t := fxExpNeg (2 * x)
    (neg, fxDiv (fxOne - t) (fxOne + t), q)
  | _ =>
    let t := fxExpNeg x
    (false, if neg then fxDiv t (fxOne + t) else fxDiv fxOne (fxOne + t), q)

/-- The error bound in units in the last place (R248). -/
def sfBound (op : Nat) : Nat := if op < 0xB8 then 1 else 2

/-- The FP32 result away from the exact cases: one of the FP32 values that lie within the bound of the value, a free choice. The bound
counts FP32 values, so that past a power of two it reaches as many of the next binade's; what an ulp is there the spec does not say
(a choice: R248; assumption log, entry 21). -/
def sfFree (op vt x : Nat) (neg : Bool) (m : Nat) (e : Int) : Nat :=
  let (n, v, q) := sfValue op neg m e
  let near := (roundTo (fmtOf 1) 0 0 n v q).1
  let (c, fl) := roundTo (fmtOf 1) 1 0 n v q
  let b := sfBound op
  let (low, count) : Int × Nat := if fl = 0 then ((c % 2 ^ 31 : Nat) - b, 2 * b + 1) else ((c % 2 ^ 31 : Nat) + 1 - b, 2 * b)
  if near % 2 ^ 31 = 0x7F800000 then near
  else (if n then 2 ^ 31 else 0) +
    (clampInt (low + (Config.specialFn op vt x % count : Nat)) 0 0x7F7FFFFF).toNat

/-- A special function of a lane of type vt, whose format is f (R248, R249): code and flags. -/
def sfLane (f : Fmt) (op vt x : Nat) : Nat × Nat :=
  let v := unpack f x
  let one : Nat := (roundTo f 0 0 false 1 0).1
  let pow (k : Int) : Nat := (roundTo f 0 0 false 1 k).1
  let sgn := 2 ^ (f.eb + f.mb)
  -- the result with its flags once the FP32 code is known
  let fin (c : Nat) : Nat × Nat :=
    let r := roundV f 0 0 (unpack (fmtOf 1) c)
    let mag := r.1 % sgn
    (r.1, (if mag < f.infBits then fINX else fOVF + fINX) ||| (if mag < 2 ^ f.mb then fUNF + fINX else 0))
  let free (neg : Bool) (m : Nat) (e : Int) : Nat × Nat := fin (sfFree op vt x neg m e)
  let exactInt (k : Int) : Nat × Nat := (roundV f 0 0 (.fin (decide (k < 0)) k.natAbs 0))
  match v with
  | .nan s => nanR f s
  | .inf n =>
    match op with
    | 0xB4 => (if n then 0 else f.infBits, 0)
    | 0xB5 => if n then nanR f true else (f.infBits, 0)
    | 0xB6 => (if n then sgn else 0, 0)
    | 0xB7 => if n then nanR f true else (0, 0)
    | 0xBB => (one + (if n then sgn else 0), 0)
    | 0xBC => (if n then 0 else one, 0)
    | _ => nanR f true
  | .fin n 0 _ =>
    match op with
    | 0xB4 => (one, 0)
    | 0xB5 => (infR f true, fDZ)
    | 0xB6 => (infR f n, fDZ)
    | 0xB7 => (infR f n, fDZ)
    | 0xBA => (one, 0)
    | 0xBC => (pow (-1), 0)
    | _ => ((if n then sgn else 0), 0)
  | .fin n m e =>
    match op with
    | 0xB4 =>
      match intOf v with
      | some k =>
        if f.emin ≤ k ∧ k < 2 ^ (f.eb - 1) then (pow k, 0)
        else if 0 < k then (f.infBits, fOVF + fINX) else free n m e
      | none => free n m e
    | 0xB5 =>
      if n then nanR f true
      else match pow2Exp v with
        | some k => exactInt k
        | none => free n m e
    | 0xB6 =>
      match pow2Exp (.fin false m e) with
      | some k => if f.emin + f.mb ≤ -k ∧ -k < 2 ^ (f.eb - 1) then (pow (-k) + (if n then sgn else 0), 0) else free n m e
      | none => free n m e
    | 0xB7 =>
      if n then nanR f true
      else match pow2Exp v with
        | some k => if k % 2 = 0 then (pow (-(k / 2)), 0) else free n m e
        | none => free n m e
    | 0xB9 => if fxOf m e < 2 ^ 18 * fxOne then free n m e else (f.nan + 1, fINV)
    | 0xBA => if fxOf m e < 2 ^ 18 * fxOne then free n m e else (f.nan + 1, fINV)
    | _ => free n m e

end Sys2Proof.Machine
end

