-- ==== Sys2Proof/Machine/Vector.lean ====
section
/-! DEFINITION. The vector instructions in register mode and in stream mode (R232-R255), and the events of streams:
STREAM_GROUP and ENQ_ARRIVAL (R221, R224, R226, R237, R238, R404). -/

namespace Sys2Proof.Machine

/-! ### Lanes (R112, R232, R233) -/

/-- Width in bits of a vector type's element. -/
def vtWidth (vt : Nat) : Nat :=
  match vt with
  | 0 => 32 | 1 => 16 | 2 => 16 | 5 => 32 | 6 => 16
  | _ => 8

/-- Its format code (R236). -/
def vtCode (vt : Nat) : Nat :=
  match vt with
  | 0 => 1 | 1 => 3 | 2 => 2 | 3 => 4 | 4 => 5 | 5 => 9 | 6 => 12
  | _ => 7

def vtFmt (vt : Nat) : Fmt := fmtOf (vtCode vt)
def vtFloat (vt : Nat) : Bool := decide (vt < 5)
def vtLanes (vt : Nat) : Nat := 512 / vtWidth vt

/-- Lane i of width w. -/
def lane (w x i : Nat) : Nat := bits x (w * (i + 1) - 1) (w * i)

/-- Vector register r as a number. -/
def State.vf (s : State) (r : Nat) : Nat := (s.me.readF r).toNat

/-- The lane mask: all ones in the base form, with SR = 1 and with F = 0. -/
def Ctx.mask (k : Ctx) (s : State) : Nat :=
  if !k.isExt || k.x.sr = 1 || k.f = 0 then 2 ^ 64 - 1 else (s.me.readG k.f).toNat

/-- Enabled lanes take their result, disabled ones keep the old value. -/
def mergeLanes (w mask old : Nat) (n : Nat) (f : Nat → Nat) : Nat :=
  packBits w ((List.range n).map fun i => if mask.testBit i then f i else lane w old i)

/-! ### One lane of the element-wise families (R240, R241, R243-R245, R250) -/

/-- A conversion (R245). -/
def vcvtLane (td ts rm rnd x : Nat) : Nat × Nat :=
  let f := vtFmt td
  let w := vtWidth td
  if vtFloat td && vtFloat ts then
    let v := unpack (vtFmt ts) x
    if td = ts then (if v.isSnan then (f.nan, fINV) else (x, 0))
    else if f.top && v.isInf then (f.nan, fINV)
    else roundV f rm rnd v
  else if vtFloat td then roundV f rm rnd (intV (toSigned (vtWidth ts) x))
  else if vtFloat ts then
    let r := toInt rm rnd (-(2 ^ (w - 1) : Nat)) ((2 ^ (w - 1) : Nat) - 1) (unpack (vtFmt ts) x)
    (ofSigned w r.1, r.2)
  else (ofSigned w (satS (toSigned (vtWidth ts) x) w), 0)

/-- A lane of an element-wise instruction: the code and the flags. VSQRT of BF16 and FP16 rounds the exact root to the lane by RM, as
FSQRT does (a choice: R248; assumption log, entry 21). -/
def vecLane (op vt cfield xop rnd a b c : Nat) : Nat × Nat :=
  let f := vtFmt vt
  let w := vtWidth vt
  let rm := xop % 8
  let x := unpack f a
  let y := unpack f b
  let sat (v : Int) : Nat := ofSigned w (if xop % 2 = 1 then satS v w else v)
  match op with
  | 0xA0 => fAdd f rm rnd x y
  | 0xA1 => fAdd f rm rnd x y.neg
  | 0xA2 => fMul f rm rnd x y
  | 0xA3 => fFma f rm rnd x y (unpack f c)
  | 0xA4 => fMinMax f false a b
  | 0xA5 => fMinMax f true a b
  | 0xA6 => (a % 2 ^ (w - 1), 0)
  | 0xA7 => (a ^^^ 2 ^ (w - 1), 0)
  | 0xA9 => (if c = 1 then a else b, 0)
  | 0xAA => (a &&& b, 0)
  | 0xAB => (a ||| b, 0)
  | 0xAC => (a ^^^ b, 0)
  | 0xAD => (a * 2 ^ (b % w) % 2 ^ w, 0)
  | 0xAE => (if xop % 2 = 1 then ofSigned w (toSigned w a / (2 ^ (b % w) : Nat)) else a / 2 ^ (b % w), 0)
  | 0xAF => (sat (toSigned w a + toSigned w b), 0)
  | 0xB0 => (sat (toSigned w a * toSigned w b), 0)
  | 0xB1 => vcvtLane vt cfield rm rnd a
  | 0xB8 => fSqrt f rm rnd x
  | 0xBE => (b % 2 ^ w, 0)
  | 0xBF => (a, 0)
  | _ => sfLane f op vt a

/-- RandBits of a lane, drawn only under RS. -/
def vecRnd (xop seed strm idx : Nat) : Nat := if xop % 8 = 4 then randBits seed strm idx else 0

/-- A lane of VRAND (R253). -/
def vrandLane (vt seed strm idx : Nat) : Nat :=
  let u := randBits seed strm (idx % 2 ^ 64)
  if vt = 5 then u else (roundTo (fmtOf 1) 0 0 false (u / 256) (-24)).1

/-! ### Reductions and scans (R246, R247) -/

/-- Combine of R246 on lane patterns: code and flags. -/
def vecCombine (op vt a b : Nat) : Nat × Nat :=
  let f := vtFmt vt
  let w := vtWidth vt
  if vtFloat vt then
    match op with
    | 0 => fAdd f 0 0 (unpack f a) (unpack f b)
    | 1 => fMinMax f false a b
    | _ => fMinMax f true a b
  else
    match op with
    | 0 => (ofSigned w (toSigned w a + toSigned w b), 0)
    | 1 => (if toSigned w b < toSigned w a then b else a, 0)
    | 2 => (if toSigned w a < toSigned w b then b else a, 0)
    | 3 => (a &&& b, 0)
    | 4 => (a ||| b, 0)
    | _ => (a ^^^ b, 0)

/-- The identity at the lane width. -/
def vecIdentity (op vt : Nat) : Nat :=
  let f := vtFmt vt
  let w := vtWidth vt
  match op with
  | 1 => if vtFloat vt then infR f false else 2 ^ (w - 1) - 1
  | 2 => if vtFloat vt then infR f true else 2 ^ (w - 1)
  | 3 => 2 ^ w - 1
  | _ => 0

/-- One level of the tree: pairs combined in order, an absent one giving way. -/
def treeLevel {α : Type} (f : α → α → α × Nat) : List (Option α) → List (Option α) × Nat
  | [] => ([], 0)
  | [a] => ([a], 0)
  | a :: b :: t =>
    let (r, fl) := treeLevel f t
    match a, b with
    | some x, some y => let p := f x y; (some p.1 :: r, p.2 ||| fl)
    | some x, none => (some x :: r, fl)
    | none, y => (y :: r, fl)

/-- The pairwise tree over at most 2^n places. -/
def tree {α : Type} (f : α → α → α × Nat) : Nat → List (Option α) → Option α × Nat
  | 0, vs => (vs.headD none, 0)
  | n + 1, vs =>
    let (l, fl) := treeLevel f vs
    let (r, fl') := tree f n l
    (r, fl ||| fl')

/-! ### Operands and bindings (R109, R226, R235) -/

/-- Positions (0 D, 1 A, 2 B, 3 C) of the f operands. -/
def vecOperands (op : Nat) : List Nat :=
  if op = 0xA3 then [0, 1, 2, 3]
  else if op ≤ 0xA5 ∨ op = 0xA9 ∨ (0xAA ≤ op ∧ op ≤ 0xB0) ∨ op = 0xBD ∨ op = 0xC6 then [0, 1, 2]
  else if op = 0xA8 then [1, 2]
  else if op = 0xB2 then [1]
  else if op = 0xC2 ∨ op = 0xC3 then [0, 2]
  else if op = 0xBE ∨ op = 0xC0 ∨ op = 0xC1 ∨ op = 0xC4 then [0]
  else [0, 1]

/-- No operand may be bound. -/
def vecUnbound (op : Nat) : Bool :=
  op == 0xA8 || op == 0xB2 || op == 0xBD || (decide (0xC0 ≤ op) && decide (op ≤ 0xC3)) || op == 0xC6

def Ctx.field (k : Ctx) (p : Nat) : Nat := match p with | 0 => k.d | 1 => k.a | 2 => k.b | _ => k.c

/-- The bound operands: position, register, stream. -/
def Ctx.bound (k : Ctx) (s : State) : List (Nat × Nat × Stream) :=
  (vecOperands k.op).filterMap fun p => (s.me.stream (k.field p)).map fun b => (p, k.field p, b)

/-- DIR = 1: a destination. -/
def Stream.dst (b : Stream) : Bool := (b.w 0).testBit 52
def Stream.loc (b : Stream) : Bool := (b.w 0).testBit 53
def Stream.n1 (b : Stream) : Nat := b.w 1 / 2 ^ 32
def Stream.n2 (b : Stream) : Nat := b.w 2 % 2 ^ 32

/-- The format code that an operand's elements must have (R236, R254); none for VMOV, whose destination takes its source's
(R250). -/
def operandCode (op m c p : Nat) : Option Nat :=
  if op = 0xBF then none
  else if op = 0xB1 ∧ p = 1 then some (vtCode c)
  else if op = 0xC5 ∧ p = 0 then some c
  else some (vtCode m)

/-- Elements of a stream, w bits each; none for a channel (R236). -/
def Stream.length (b : Stream) (w : Nat) : Option Nat :=
  match b.kind with
  | 0 => some (b.n0 * b.n1 * b.n2)
  | 1 => some (b.n0 * (64 / w))
  | _ => none

/-- The element width of a bound operand; for VMOV that of its binding. -/
def boundWidth (op m c : Nat) (bs : List (Nat × Nat × Stream)) (p : Nat) : Nat :=
  fmtBits ((operandCode op m c p).getD (((bs.lookup p).map (·.2.fmt)).getD 0))

/-- The least length among bound operands (R236). -/
def streamLength (op m c : Nat) (bs : List (Nat × Nat × Stream)) : Option Nat :=
  bs.foldl (fun n e => match n, e.2.2.length (boundWidth op m c bs e.1) with
    | none, x => x
    | some x, none => some x
    | some x, some y => some (min x y)) none

/-- A stream-mode instruction issues (R235, R236). Lanes hold the mask, gC, and the contents of unbound A, B and C;
td1 the length, td2 the lane count. ETVAL of its cause 0x02 is a register number, the operand's that may not be bound so, or else D's (a
choice: R421; assumption log, entry 45). -/
def streamIssue (k : Ctx) (s : State) (bs : List (Nat × Nat × Stream)) : Out :=
  let bad := bs.find? fun e => vecUnbound k.op || s.me.streamBusy e.2.1 || (e.2.2.dst != (e.1 == 0))
  match bad with
  | some e => trapOut s 0x02 e.2.1
  | none =>
    if (s.me.stream k.d).isNone then trapOut s 0x02 k.d
    else match streamLength k.op k.m k.c bs with
      | none => trapOut s 0x02 k.d
      | some n =>
        let go : Out := withRef k s fun r =>
          let bs := bs.map fun e => (e.1, e.2.1, { e.2.2 with buf := [], mark := e.2.2.used })
          let o := { k.engOp s r with
            streams := bs, td1 := n, td2 := vtLanes k.m
            lanes := [k.mask s, k.vC s, s.vf k.a, s.vf k.b, s.vf k.c]
            seed := if k.op = 0xB3 then vecIdentity (k.xop % 8) k.m else s.me.spr.rngseed.toNat }
          .next (((issued s r).modMe fun c => bs.foldl (fun c e => c.setStream e.2.1 (some e.2.2)) (c.startOp .vector o)).advance k.len)
        if k.op = 0xC5 then checkLocal s (k.vB s) ((n + 31) / 32) 1 go else go

/-- A vector instruction: step 4 of R123, then its bindings (R109, R235), then register mode. -/
def vec (k : Ctx) (s : State) (body : State → Out) : Out :=
  run false k s fun s =>
    match k.bound s with
    | [] => body s
    | bs => if k.isExt then streamIssue k s bs else trapOut s 0x01 k.word

/-! ### Register mode (R234) -/

/-- fD := lanes, with the flags of the enabled ones. -/
def setLanes (k : Ctx) (s : State) (w n : Nat) (f : Nat → Nat × Nat) : Out :=
  let mask := k.mask s
  let rs := (List.range n).map f
  let fl := ((List.range n).filter (mask.testBit ·)).foldl (fun a i => a ||| (rs.getD i (0, 0)).2) 0
  raise k s fl (·.writeF k.d (BitVec.ofNat 512 (mergeLanes w mask (s.vf k.d) n fun i => (rs.getD i (0, 0)).1)))

/-- The element-wise instructions. -/
def opVec (k : Ctx) (s : State) : Out :=
  vec k s fun s =>
    let w := vtWidth k.m
    let a := s.vf k.a
    let b := s.vf k.b
    let c := s.vf k.c
    let seed := s.me.spr.rngseed.toNat
    let strm := s.me.spr.rngstrm.toNat
    setLanes k s w (vtLanes k.m) fun i =>
      vecLane k.op k.m 0 k.xop (vecRnd k.xop seed strm i) (lane w a i) (if k.op = 0xBE then k.vB s else lane w b i)
        (if k.op = 0xA9 then bits (k.vC s) i i else lane w c i)

/-- VCVT: source lanes beyond the converted ones leave zeros. -/
def opVcvt (k : Ctx) (s : State) : Out :=
  vec k s fun s =>
    let n := min (vtLanes k.m) (vtLanes k.c)
    let a := s.vf k.a
    setLanes k s (vtWidth k.m) (vtLanes k.m) fun i =>
      if i < n then
        vecLane k.op k.m k.c k.xop (vecRnd k.xop s.me.spr.rngseed.toNat s.me.spr.rngstrm.toNat i) (lane (vtWidth k.c) a i) 0 0
      else (0, 0)

/-- The code in CMP's column of an integer condition of VCMP (R114). -/
def vcmpCode (x : Nat) : Nat := match x with | 1 => 2 | 2 => 3 | 4 => 1 | 5 => 4 | 6 => 5 | _ => 0

/-- VCMP. -/
def opVcmp (k : Ctx) (s : State) : Out :=
  vec k s fun s =>
    let w := vtWidth k.m
    let f := vtFmt k.m
    let one (i : Nat) : Bool × Nat :=
      let a := lane w (s.vf k.a) i
      let b := lane w (s.vf k.b) i
      if !(k.mask s).testBit i then (false, 0)
      else if vtFloat k.m then fCond k.xop (unpack f a) (unpack f b)
      else (cmpCond (vcmpCode k.xop) w a b, 0)
    let rs := (List.range (vtLanes k.m)).map one
    raise k s (rs.foldl (fun x r => x ||| r.2) 0) (·.writeG k.d (BitVec.ofNat 64 (packBits 1 (rs.map fun r => b2n r.1))))

/-- VRED. -/
def opVred (k : Ctx) (s : State) : Out :=
  vec k s fun s =>
    let w := vtWidth k.m
    let op := k.xop % 8
    let vs := (List.range (vtLanes k.m)).map fun i => if (k.mask s).testBit i then some (lane w (s.vf k.a) i) else none
    if vtFloat k.m then
      let r := tree (vecCombine op k.m) 6 vs
      raise k s r.2 (·.writeG k.d (BitVec.ofNat 64 (r.1.getD (vecIdentity op k.m))))
    else if op = 0 then setG k s (ofSigned 64 ((vs.filterMap id).foldl (fun a x => a + toSigned w x) 0))
    else setG k s (signExtend w ((tree (vecCombine op k.m) 6 vs).1.getD (vecIdentity op k.m)))

/-- The steps of a scan over enabled lanes: what each lane gives, the run, the flags (R247). -/
def scanLanes (xop vt : Nat) : List (Bool × Nat) → Nat → List Nat × Nat × Nat
  | [], r => ([], r, 0)
  | (en, x) :: t, r =>
    if en then
      let p := vecCombine (xop % 8) vt r x
      let q := scanLanes xop vt t p.1
      ((if xop.testBit 3 then r else p.1) :: q.1, q.2.1, p.2 ||| q.2.2)
    else
      let q := scanLanes xop vt t r
      (0 :: q.1, q.2)

/-- VSCAN. -/
def opVscan (k : Ctx) (s : State) : Out :=
  vec k s fun s =>
    let w := vtWidth k.m
    let n := vtLanes k.m
    let mask := k.mask s
    let r := scanLanes k.xop k.m ((List.range n).map fun i => (mask.testBit i, lane w (s.vf k.a) i)) (vecIdentity (k.xop % 8) k.m)
    raise k s r.2.2 (·.writeF k.d (BitVec.ofNat 512 (mergeLanes w mask (s.vf k.d) n fun i => r.1.getD i 0)))

/-- VPERM. -/
def opVperm (k : Ctx) (s : State) : Out :=
  vec k s fun s =>
    let w := vtWidth k.m
    let n := vtLanes k.m
    setLanes k s w n fun i =>
      let j := lane w (s.vf k.b) i
      (if j < n then lane w (s.vf k.a) j else 0, 0)

/-- VRAND. -/
def opVrand (k : Ctx) (s : State) : Out :=
  vec k s fun s =>
    setLanes k s (vtWidth k.m) (vtLanes k.m) fun i =>
      (vrandLane k.m s.me.spr.rngseed.toNat s.me.spr.rngstrm.toNat (k.vA s + i), 0)

/-- The checks of ECC on some local ranges, the first failing. -/
def checkEccAll (s : State) : List (Nat × Nat) → Out → Out
  | [], body => body
  | (a, n) :: t, body => checkEcc s a n (checkEccAll s t body)

/-- VLD. -/
def opVld (k : Ctx) (s : State) : Out :=
  vec k s fun s =>
    let v := k.vA s
    checkLocal s v 64 64 <|
      let mask := k.mask s
      let on := (List.range 16).filter (mask.testBit ·)
      let s := on.foldl (fun s i => s.localReach s.cur (v + 4 * i) 4) s
      checkEccAll s (on.map fun i => (v + 4 * i, 4)) <|
        done k s (·.writeF k.d (BitVec.ofNat 512 (mergeLanes 32 mask (s.vf k.d) 16 fun i => s.localN s.cur (v + 4 * i) 4)))

/-- VST: a word of which one half is disabled merges, and meets the word's error; one of which both lanes are enabled is replaced unread,
whatever the other lanes (a choice: R355; assumption log, entry 46). -/
def opVst (k : Ctx) (s : State) : Out :=
  vec k s fun s =>
    let v := k.vA s
    checkLocal s v 64 64 <|
      let mask := k.mask s
      let d := s.vf k.d
      let half := (List.range 8).filter fun j => mask.testBit (2 * j) != mask.testBit (2 * j + 1)
      let s := half.foldl (fun s j => s.localReach s.cur (v + 8 * j) 8) s
      checkEccAll s (half.map fun j => (v + 8 * j, 8)) <|
        .next (((List.range 8).foldl (fun s j =>
          if mask.testBit (2 * j) && mask.testBit (2 * j + 1) then s.localWrite s.cur (v + 8 * j) (natLE 8 (lane 64 d j))
          else if mask.testBit (2 * j) then s.localWrite s.cur (v + 8 * j) (natLE 4 (lane 32 d (2 * j)))
          else if mask.testBit (2 * j + 1) then s.localWrite s.cur (v + 8 * j + 4) (natLE 4 (lane 32 d (2 * j + 1)))
          else s) s).advance k.len)

/-- The enabled lanes of VGATH and VSCAT with their addresses, checked (R252). -/
def gather (k : Ctx) (s : State) (body : List (Nat × Nat) → Out) : Out :=
  let w := vtWidth k.m
  let e := w / 8
  let v := k.vA s
  let as := ((List.range (vtLanes k.m)).filter ((k.mask s).testBit ·)).map fun i => (i, v + lane w (s.vf k.b) i * e)
  if v % e ≠ 0 then trapOut s 0x04 v
  else match as.find? fun a => !localRange a.2 e with
    | some a => trapOut s 0x05 a.2
    | none => body as

/-- VGATH. -/
def opVgath (k : Ctx) (s : State) : Out :=
  vec k s fun s => gather k s fun as =>
    let w := vtWidth k.m
    let e := w / 8
    let s := as.foldl (fun s a => s.localReach s.cur a.2 e) s
    checkEccAll s (as.map fun a => (a.2, e)) <|
      done k s (·.writeF k.d (BitVec.ofNat 512 (mergeLanes w (k.mask s) (s.vf k.d) (vtLanes k.m) fun i =>
        s.localN s.cur ((as.lookup i).getD 0) e)))

/-- VSCAT. -/
def opVscat (k : Ctx) (s : State) : Out :=
  vec k s fun s => gather k s fun as =>
    let w := vtWidth k.m
    let e := w / 8
    let d := s.vf k.d
    let merges := decide (as.length < vtLanes k.m)
    let s := if merges then as.foldl (fun s a => s.localReach s.cur a.2 e) s else s
    checkEccAll s (if merges then as.map fun a => (a.2, e) else []) <|
      .next ((as.foldl (fun s a => s.localWrite s.cur a.2 (natLE e (lane w d a.1))) s).advance k.len)

/-! ### Block quantisation and dot products (R254, R255) -/

/-- Emax and the largest magnitude of a target format. -/
def qntEmax (fmt : Nat) : Int := match fmt with | 4 => 8 | 5 => 15 | 6 => 2 | _ => 6

/-- Element i of a block divided by 2^e and rounded to a target format, saturated: code and flags. -/
def qntCode (fmt rm rnd : Nat) (e : Int) : FV → Nat × Nat
  | .fin n m q =>
    if fmt = 7 then
      let r := toInt rm rnd (-127) 127 (.fin n m (q - e))
      (ofSigned 8 r.1, if r.2 = 0 then 0 else fINX)
    else
      let f := fmtOf fmt
      let r := roundTo f rm rnd n m (q - e)
      if r.2 &&& fOVF ≠ 0 then ((if n then 2 ^ (f.eb + f.mb) else 0) + f.maxBits, fINX) else r
  | _ => (0, 0)

/-- A block: the exponents' maximum, the scale byte, and for each element its code and its flags. `es` gives, for each element,
whether it is enabled, its value and its draw. -/
def qntElems (fmt rm : Nat) (es : List (Bool × FV × Nat)) : Nat × List (Nat × Nat) :=
  let on := es.filter (·.1)
  if on.any fun e => e.2.1.isNan || e.2.1.isInf then (0xFF, es.map fun _ => (0, fINV))
  else
    let top : Option Int := on.foldl (fun b e => match e.2.1 with
      | .fin _ m q => if m = 0 then b else
        let l := q + (Nat.log2 m : Nat)
        some (match b with | none => l | some x => max x l)
      | _ => b) none
    match top with
    | none => (0x7F, es.map fun _ => (0, 0))
    | some l =>
      let e := clampInt (l - qntEmax fmt) (-127) 127
      ((e + 127).toNat, es.map fun x => if x.1 then qntCode fmt rm x.2.2 e x.2.1 else (0, 0))

/-- A block: the scale byte, the codes and the flags. -/
def qntBlock (fmt rm : Nat) (es : List (Bool × FV × Nat)) : Nat × List Nat × Nat :=
  let r := qntElems fmt rm es
  (r.1, r.2.map (·.1), r.2.foldl (fun a x => a ||| x.2) 0)

/-- VQNT in register mode. -/
def opVqnt (k : Ctx) (s : State) : Out :=
  vec k s fun s =>
    let v := k.vB s
    checkLocal s v 1 1 <|
      let w := vtWidth k.m
      let rm := k.xop % 8
      let r := qntBlock k.c rm ((List.range (vtLanes k.m)).map fun i =>
        ((k.mask s).testBit i, unpack (vtFmt k.m) (lane w (s.vf k.a) i),
          vecRnd k.xop s.me.spr.rngseed.toNat s.me.spr.rngstrm.toNat i))
      let t := s.modMe (·.orFlags r.2.2)
      if t.me.flagTrap r.2.2 then trapOut t 0x0F r.2.2
      else done k (t.localWrite t.cur v [BitVec.ofNat 8 r.1])
        (·.writeF k.d (BitVec.ofNat 512 (packBits (if k.c = 6 then 4 else 8) r.2.1)))

/-- An exact sum of values, a NaN or an undefined sum as NaN with its INV (R255, R270); `zneg` is the sign rule of RNE,
that a zero sum of zeros of one sign keeps it. -/
def sumV (vs : List (FV × Bool)) : FV × Bool :=
  let inv := vs.any fun v => v.2 || v.1.isSnan
  let pos := vs.any fun v => v.1.isInf && !v.1.sign
  let neg := vs.any fun v => v.1.isInf && v.1.sign
  if inv || (vs.any fun v => v.1.isNan) then (.nan false, inv || (pos && neg))
  else if pos && neg then (.nan false, true)
  else if pos then (.inf false, false)
  else if neg then (.inf true, false)
  else (exactSum (!vs.isEmpty && vs.all fun v => v.1.sign) (vs.filterMap fun v => match v.1 with
    | .fin n m e => some (n, m, e)
    | _ => none), false)

/-- VDOT. -/
def opVdot (k : Ctx) (s : State) : Out :=
  vec k s fun s =>
    let w := vtWidth k.m
    let g := if w = 16 then 2 else 4
    let d := s.vf k.d
    setLanes k s 32 16 fun j =>
      let ix := (List.range g).map (g * j + ·)
      if k.m = 7 then
        (ofSigned 32 (ix.foldl (fun a i => a + toSigned w (lane w (s.vf k.a) i) * toSigned w (lane w (s.vf k.b) i))
          (toSigned 32 (lane 32 d j))), 0)
      else
        let f := vtFmt k.m
        let ps := ix.map fun i =>
          let x := unpack f (lane w (s.vf k.a) i)
          let y := unpack f (lane w (s.vf k.b) i)
          ((mulV x y).1, (mulV x y).2)
        finish (fmtOf 1) 0 0 (sumV ((unpack (fmtOf 1) (lane 32 d j), false) :: ps))

/-! ### Stream mode (R226, R236-R238) -/

def EngOp.streamAt (o : EngOp) (p : Nat) : Option (Nat × Stream) := o.streams.lookup p

/-- The element width at a position: of its binding, or of the register in its place. -/
def EngOp.widthAt (o : EngOp) (p : Nat) : Nat :=
  boundWidth o.opc o.m o.c o.streams p

/-- Elements of a group: a block for VQNT. -/
def EngOp.groupLen (o : EngOp) : Nat := min (if o.opc = 0xC5 then 32 else o.td2) (o.td1 - o.pos)

/-- The stream at a position changed, in the operation. -/
def EngOp.modStream (o : EngOp) (p : Nat) (f : Stream → Stream) : EngOp :=
  { o with streams := o.streams.map fun e => if e.1 = p then (e.1, e.2.1, f e.2.2) else e }

/-- Where element k of a memory stream is, w bits wide: its address, its lowest bit there. Elements of 4 bits are packed along
the innermost dimension. -/
def Stream.elemAt (b : Stream) (w k : Nat) : Int × Nat :=
  let i := k % b.n0
  let j := k / b.n0 % b.n1
  let l := k / b.n0 / b.n1
  let st (n : Nat) : Int := toSigned 40 (b.w (3 + n))
  let base : Int := (bits (b.w 0) 47 0 : Nat)
  let outer := base + j * st 1 + l * st 2
  if w < 8 then (outer + (i / 2 : Nat), 4 * (i % 2)) else (outer + i * st 0, 0)

/-- The format of element k of a stream that takes it from the element's page, where nothing else gives it: a packed class of
the page that holds the packed place, else the class of the page that the strides lead to, as `pageFormat` has it. -/
def Stream.pageCode (b : Stream) (c asid k : Nat) (need : Need) : GM Nat := do
  let p := (b.elemAt 4 k).1
  let m ← GM.once false fun s =>
    if p < 0 ∨ (2 ^ 48 : Int) ≤ p then (s, .ok [])
    else match s.pageClass asid p.toNat need with
      | some (f, _) => (s, .ok (if fmtBits f = 4 then [f] else []))
      | none => (s, .ok [])
  match m with
  | [f] => pure f
  | _ =>
    let a := (b.elemAt 8 k).1
    if a < 0 ∨ (2 ^ 48 : Int) ≤ a then GM.stop 3 0x05 (ofSigned 64 a)
    else do pure (leafEfc (← GM.trans c asid a.toNat need).2)

/-- The place of element k of a memory stream and its format, checked (R225, R236); `want` is the format that it must have. -/
def elemCell (c : Nat) (o : EngOp) (b : Stream) (want : Option Nat) (k : Nat) (need : Need) : GM (Cell × Nat) := do
  let f ← if b.fmt ≠ 0 ∨ b.loc then pure b.fmt else match want with
    | some f => pure f
    | none => b.pageCode c o.asid k need
  let w := fmtBits f
  let n := max 1 (w / 8)
  let (a, sh) := b.elemAt w k
  if a % n ≠ 0 then GM.stop 3 0x04 (ofSigned 64 a) false
  if b.loc then
    if a < 0 ∨ !localRange a.toNat n then GM.stop 3 0x05 (ofSigned 64 a)
    if f = 0 then GM.stop 5 0x07 f false
  else
    if a < 0 ∨ (2 ^ 48 : Int) < a + n then GM.stop 3 0x05 (ofSigned 64 a)
    let (_, leaf) ← GM.trans c o.asid a.toNat need
    if leafEfc leaf ≠ f ∧ (leafEfc leaf ≠ 0 ∨ b.fmt = 0) then GM.stop 5 0x07 (leafEfc leaf) false
  if f ≠ want.getD f then GM.stop 5 0x07 f false
  pure ({ addr := a.toNat, sh := sh, w := w }, f)

/-- A queue source's format must be that of its operand (R236). -/
def sourceCheck (o : EngOp) (p : Nat) : GM Unit :=
  match o.streamAt p with
  | none => pure ()
  | some (_, b) =>
    if b.kind = 1 ∧ b.fmt ≠ (operandCode o.opc o.m o.c p).getD b.fmt then GM.stop 5 0x07 b.fmt false else pure ()

/-- Element i of a source, counted from ordinal o.pos, if `en` enables it, and VMOV's with its format. A disabled one is not read from
memory (R233). An unbound register gives its lanes, and no format; a lane that its width does not hold is a value that the spec does
not state. -/
def sourceElem (c : Nat) (o : EngOp) (en : List Bool) (p i : Nat) : GM (Nat × Option Nat) :=
  match o.streamAt p with
  | none => do
    let w := if o.opc = 0xBF then 32 else o.widthAt p
    let l := (o.pos + i) % o.td2
    if w * (l + 1) ≤ 512 then pure (lane w (o.lanes.getD (p + 1) 0) l, none)
    else do pure ((← GM.draw) % 2 ^ w, none)
  | some (_, b) =>
    if b.kind = 1 then
      let w := o.widthAt p
      pure (lane w (b.buf.getD (i / (64 / w)) 0) (i % (64 / w)), some b.fmt)
    else if en.getD i false then do
      let (k, f) ← elemCell c o b (operandCode o.opc o.m o.c p) (o.pos + i) .read
      pure (← GM.getCell c o.asid b.loc k, some f)
    else pure (0, none)

/-- What a group computes: for each element its code and its flags, the run of a scan, the scale byte of a block. The flags of an
element of a scan are those of the run up to it. -/
def groupResult (o : EngOp) (a b c : List Nat) (en : List Bool) : List (Nat × Nat) × Nat × Nat :=
  let n := en.length
  let g (l : List Nat) (i : Nat) : Nat := l.getD i 0
  if o.opc = 0xB3 then
    let scan (k : Nat) := scanLanes o.xop o.m ((List.range k).map fun i => (en.getD i false, g a i)) o.seed
    ((List.range n).map fun i => ((scan n).1.getD i 0, (scan (i + 1)).2.2), (scan n).2.1, 0)
  else if o.opc = 0xC5 then
    let r := qntElems o.c (o.xop % 8) ((List.range n).map fun i =>
      (en.getD i false, unpack (vtFmt o.m) (g a i), vecRnd o.xop o.seed o.strm (o.pos + i)))
    (r.2, o.seed, r.1)
  else if o.opc = 0xC4 then ((List.range n).map fun i => (vrandLane o.m o.seed o.strm (o.va + o.pos + i), 0), o.seed, 0)
  else
    ((List.range n).map fun i =>
      if en.getD i false then
        vecLane o.opc o.m o.c o.xop (vecRnd o.xop o.seed o.strm (o.pos + i)) (g a i) (if o.opc = 0xBE then o.vb else g b i)
          (if o.opc = 0xA9 then bits (o.lanes.getD 1 0) ((o.pos + i) % o.td2) ((o.pos + i) % o.td2) else g c i)
      else (0, 0), o.seed, 0)

/-- Whole units of `per` elements of w bits cut off a list; at the end the rest too, padded with zeros. -/
def cutUnits (w per : Nat) (end_ : Bool) : Nat → List Nat → List Nat × List Nat
  | 0, es => ([], es)
  | f + 1, es =>
    if es = [] ∨ (es.length < per ∧ !end_) then ([], es)
    else
      let r := cutUnits w per end_ f (es.drop per)
      (packBits w (es.take per) :: r.1, r.2)

/-- The format that a destination's element must have: that of the operand's type; for VMOV that of its source, which may be
none (R236, R250). -/
def EngOp.destCode (o : EngOp) (src : Option Nat) : Option Nat := if o.opc = 0xBF then src else operandCode o.opc o.m o.c 0

/-- A destination's format suits the element: VMOV from a register takes any of 32 bits (assumption log, entry 45). -/
def EngOp.destOk (o : EngOp) (src : Option Nat) (f : Nat) : Bool :=
  match o.destCode src with
  | some g => f == g
  | none => fmtBits f == 32

/-- The group's elements go to the destination: memory, in any order, with what else the group writes (`also`), channel lines, queue
entries into the buffer. Codes of VQNT's disabled elements are written too (R254). A disabled element's format is not checked, but for a
queue source's, which is one for all (a choice: R236; assumption log, entry 45). -/
def groupWrite (c : Nat) (o : EngOp) (rs : List (Nat × Nat)) (fs : List (Option Nat)) (en : List Bool) (end_ : Bool)
    (also : List (GM Unit)) : GM EngOp :=
  match o.streamAt 0 with
  | none => do
    let _ ← GM.par also
    pure o
  | some (_, b) => do
    let w := fmtBits b.fmt
    if b.kind = 0 then
      let _ ← GM.par <| also ++ (List.range rs.length).map fun i => do
        if en.getD i false || o.opc == 0xC5 then
          let src := fs.getD i none
          let r := rs.getD i (0, 0)
          let (k, f) ← elemCell c o b (o.destCode src) (o.pos + i) .write
          if !o.destOk src f then GM.stop 5 0x07 f false
          GM.putCell (o.via c .vector) o.asid b.loc k r.1
          GM.wrote r.2
      pure (o.modStream 0 fun b => { b with used := b.used + rs.length })
    else
      if (List.range rs.length).any fun i => en.getD i false && !o.destOk (fs.getD i none) b.fmt then GM.stop 5 0x07 b.fmt false
      let _ ← GM.par also
      let es := o.uops ++ (List.range rs.length).map fun i => if en.getD i false then (rs.getD i (0, 0)).1 else 0
      if b.kind = 1 then
        let (us, rest) := cutUnits w (64 / w) end_ (es.length + 1) es
        pure { o.modStream 0 (fun b => { b with buf := b.buf ++ us }) with uops := rest }
      else
        let (us, rest) := cutUnits w (512 / w) end_ (es.length + 1) es
        let _ ← us.zipIdx.mapM fun u => GM.act fun s => (s.channelLine (s.regionOf c) c b (b.line + u.2) u.1, .ok ())
        pure { o.modStream 0 (fun b => { b with line := b.line + us.length, used := b.used + rs.length }) with uops := rest }

/-- One group of n elements, its reads in any order, then its writes (R236-R238, R369). -/
def streamUnit (c : Nat) (o : EngOp) (n : Nat) : GM (Option EngOp × Nat) := do
  let en := (List.range n).map fun i => (o.lanes.getD 0 0).testBit ((o.pos + i) % o.td2)
  let ps := [1, 2, 3].filter fun p => (vecOperands o.opc).contains p
  ps.forM (sourceCheck o)
  let es ← GM.par (ps.flatMap fun p => (List.range n).map (sourceElem c o en p))
  let source (p : Nat) : List (Nat × Option Nat) := if ps.contains p then (es.drop (n * ps.idxOf p)).take n else []
  let (rs, run_, scale) := groupResult o ((source 1).map (·.1)) ((source 2).map (·.1)) ((source 3).map (·.1)) en
  let end_ := o.last || o.pos + n == o.td1
  let o' ← groupWrite c o rs ((source 1).map (·.2)) en end_
    (if o.opc = 0xC5 ∧ n ≠ 0 then [GM.localWrite c (o.vb + o.pos / 32) [BitVec.ofNat 8 scale]] else [])
  let memory := ((o.streamAt 0).map fun e => e.2.kind == 0).getD false
  let o' := { o' with
    seed := run_, flags := rs.foldl (fun x r => x ||| r.2) o'.flags, sub := 0, pos := o.pos + n
    prog := o.prog + (if memory && o.opc != 0xC5 then (en.filter id).length else n)
    streams := o'.streams.map fun e =>
      if e.1 = 0 then e
      else if e.2.2.kind = 1 then
        (e.1, e.2.1, { e.2.2 with buf := e.2.2.buf.drop ((n + 64 / o.widthAt e.1 - 1) / (64 / o.widthAt e.1)) })
      else (e.1, e.2.1, { e.2.2 with used := e.2.2.used + n }) }
  GM.upd fun s => s.modCore c (·.syncStreams o')
  pure (some o', o'.prog)

/-- Entries that a queue source still wants for a group of n elements. -/
def EngOp.wants (o : EngOp) (n : Nat) (e : Nat × Nat × Stream) : Nat :=
  let per := 64 / o.widthAt e.1
  (n + per - 1) / per - e.2.2.buf.length

/-- Data entries taken from the local queue of a source, at most n; a control entry stays. -/
def State.takeEntries (s : State) (c : Nat) (q : Nat) : Nat → State × List Nat
  | 0 => (s, [])
  | n + 1 =>
    match ((s.core c).lq q).entries with
    | (v, false) :: _ =>
      let (s, vs) := State.takeEntries (s.takeEntry c q) c q n
      (s, v :: vs)
    | _ => (s, [])

/-- Entries gathered for every queue source of an operation: each operand position takes its own, where one register stands at two of
them too (a choice: R236; assumption log, entry 45). -/
def State.gatherEntries (s : State) (c : Nat) (o : EngOp) (n : Nat) : State × EngOp :=
  (o.streams.filter fun e => e.1 != 0 && e.2.2.kind == 1).foldl (fun x e =>
    let (s, vs) := x.1.takeEntries c (bits (e.2.2.w 0) 2 0) (x.2.wants n e)
    (s, x.2.modStream e.1 fun b => { b with buf := b.buf ++ vs, used := b.used + vs.length })) (s, o)

/-- PROG of an operation that ends with status 0: entries consumed after a control entry, else elements written (R226,
R237). The control entry itself is not counted, and of several queue sources it is the one that gave most that counts (a choice:
assumption log, entry 45). -/
def EngOp.streamProg (o : EngOp) : Nat :=
  let src := (o.streams.filter fun e => e.1 != 0 && e.2.2.kind == 1).map fun e => e.2.2.used - e.2.2.mark
  if o.last then src.foldl max 0 else min o.prog (2 ^ 32 - 1)

/-- The next entry of a queue destination is sent. -/
def State.sendEntry (s : State) (c : Nat) (o : EngOp) (b : Stream) (v : Nat) : State :=
  let q := b.w 1
  (s.modCore c (·.setOp .vector { o with waits := true })).send
    { src := .core c, dst := .core (q % 4096), chan := .request, region := s.regionOf (q % 4096)
      outside := s.regionOf (q % 4096) != s.regionOf c
      body := .enq (bits q 14 12) v false true o.ref o.id }

/-- What an operation does when its turn comes, or goes on with a group in flight; none when it can do nothing now. An entry of a
queue destination that was only partly filled when a control entry ended the operation goes out before it ends (R236). -/
def State.streamStep (s : State) (c : Nat) (o : EngOp) (left : Option Nat) (pick : Nat) : Option State :=
  if o.parked || o.waits then none
  else match (o.streamAt 0).bind fun e => if e.2.kind = 1 then e.2.buf.head?.map fun v => (e.2, v) else none with
    | some (b, v) => some (s.sendEntry c o b v)
    | none =>
      if o.td1 ≤ o.pos ∨ (o.last ∧ o.sub = 0 ∧ o.uops = []) then some (s.endOp c .vector o 0 0 o.streamProg none)
      else if o.last then some (s.runUnit c .vector o o.prog (streamUnit c o o.sub) left pick)
      else
        let n := o.groupLen
        let (t, o') := s.gatherEntries c o n
        let qs := o'.streams.filter fun e => e.1 != 0 && e.2.2.kind == 1
        let short := qs.filter fun e => decide (0 < o'.wants n e)
        let t := t.modCore c fun k => (k.setOp .vector o').syncStreams o'
        if short = [] then some (t.runUnit c .vector o' o'.prog (streamUnit c o' n) left pick)
        else
          match short.find? fun e => (((t.core c).lq (bits (e.2.2.w 0) 2 0)).entries.head?.map (·.2)).getD false with
          | some e =>
            let m := qs.foldl (fun m e => min m (e.2.2.buf.length * (64 / o'.widthAt e.1))) n
            let t := t.takeEntry c (bits (e.2.2.w 0) 2 0)
            some (t.modCore c (·.setOp .vector { o' with last := true, sub := m }))
          | none => if t = s then none else some t

/-- The first operation in turn that can act. -/
def State.streamTurn (s : State) (c : Nat) (left : Option Nat) (pick : Nat) : List EngOp → Option (State × Nat)
  | [] => none
  | o :: os =>
    match s.streamStep c o left pick with
    | some t => some (t, o.id)
    | none => s.streamTurn c left pick os

/-- The stream operations of a core as their turns come: in issue order, from behind the one served last (R238). -/
def Core.streamOrder (k : Core) : List EngOp :=
  (k.ops .vector).filter (fun o => decide (k.eng.served < o.id)) ++ (k.ops .vector).filter fun o => decide (o.id ≤ k.eng.served)

/-- The engine goes on with the group in flight, else with the next operation in turn that can act (R238). -/
def State.streamServe (s : State) (c : Nat) (left : Option Nat) (pick : Nat := 0) : State :=
  let ops := (s.core c).streamOrder
  match s.streamTurn c left pick
      (if ops.any (s.inGroup c) then ops.filter (s.inGroup c) else if (s.core c).eng.stopped then [] else ops) with
  | none => s
  | some (t, id) =>
      if ((t.core c).ops .vector).any (t.inGroup c) then t else t.modCore c (·.modEng fun e => { e with served := id })

/-- STREAM_GROUP. -/
def execStreamGroup (c : Nat) (s : State) : Out := .next (s.streamServe c none)

/-! ### ENQ_ARRIVAL (R221, R224, R404) -/

/-- The bound slot's frame takes its decrement (R224). -/
def State.boundSlot (s : State) (c cfg : Nat) : State :=
  if !cfg.testBit 32 then s
  else
    let h := mkHandle c (bits cfg 31 20) (bits cfg 19 12)
    let m : Msg := { src := .core c, dst := .core c, chan := .signal, region := s.regionOf c
                     body := .arrival { handle := h, slot := bits cfg 11 9, n := 1, src := c, chan := .signal, origin := c, region := s.regionOf c } }
    (s.deliver c m).getD (s.send m)

/-- What the sender learns of its entry: an ENQ by its completion, a stream's operation directly. -/
def State.enqDone (s : State) (c : Nat) (stream : Bool) (r : Ref) (id code cause : Nat) : State :=
  if !stream then s.sendArrival (r.completer c) { signalArrival r code cause 0 with refusal := code == 1 }
  else match (s.owner r.region r.origin).bind (·.findOp .vector id) with
    | none => s
    | some o =>
      let sent := ((o.streamAt 0).map fun e => e.2.used - e.2.mark).getD 0
      if code ≠ 0 then s.endOwned r.region r.origin .vector id code cause sent none
      else
        let o' := { o.modStream 0 (fun b => { b with used := b.used + 1, buf := b.buf.drop 1 }) with waits := false }
        s.modOwner r.region r.origin fun k => (k.setOp .vector o').syncStreams o'

def Body.isEnq : Body → Bool
  | .enq .. => true
  | _ => false

/-- An entry at its queue. -/
def State.placeEntry (s : State) (c : Nat) (m : Msg) : Option State :=
  match m.body with
  | .enq q v ctl stream r id =>
    let s := s.modCore c (·.modPl fun p => { p with waiti := false })
    let l := (s.core c).lq q
    if (s.regionOf c).isNone then some (s.enqDone c stream r id 3 0x06)
    else if 16 ≤ l.entries.length then some (s.enqDone c stream r id 1 0)
    else some (((s.modCore c (·.setLq q { l with entries := l.entries ++ [(v, ctl)] })).boundSlot c l.cfg).enqDone c stream r id 0 0)
  | _ => none

/-- The core it is for runs another weave, or none. -/
def State.loseEntry (s : State) (c : Nat) (m : Msg) : State :=
  match m.body with
  | .enq _ _ _ stream r id => s.enqDone c stream r id 3 0x06
  | _ => s

/-- ENQ_ARRIVAL. -/
def execEnqArrival (k : Nat) (s : State) : Out := onCore s k Body.isEnq State.placeEntry State.loseEntry

/-- VADD (R240). -/
def execVadd (o : W0) (s : State) : Out := opVec (ctxB 0xA0 o) s
/-- VADD_EXT (R240). -/
def execVaddExt (o : Ext) (s : State) : Out := opVec (ctxX 0xA0 o) s

/-- VSUB (R240). -/
def execVsub (o : W0) (s : State) : Out := opVec (ctxB 0xA1 o) s
/-- VSUB_EXT (R240). -/
def execVsubExt (o : Ext) (s : State) : Out := opVec (ctxX 0xA1 o) s

/-- VMUL (R240). -/
def execVmul (o : W0) (s : State) : Out := opVec (ctxB 0xA2 o) s
/-- VMUL_EXT (R240). -/
def execVmulExt (o : Ext) (s : State) : Out := opVec (ctxX 0xA2 o) s

/-- VFMA (R240). -/
def execVfma (o : W0) (s : State) : Out := opVec (ctxB 0xA3 o) s
/-- VFMA_EXT (R240). -/
def execVfmaExt (o : Ext) (s : State) : Out := opVec (ctxX 0xA3 o) s

/-- VMIN (R240). -/
def execVmin (o : W0) (s : State) : Out := opVec (ctxB 0xA4 o) s
/-- VMIN_EXT (R240). -/
def execVminExt (o : Ext) (s : State) : Out := opVec (ctxX 0xA4 o) s

/-- VMAX (R240). -/
def execVmax (o : W0) (s : State) : Out := opVec (ctxB 0xA5 o) s
/-- VMAX_EXT (R240). -/
def execVmaxExt (o : Ext) (s : State) : Out := opVec (ctxX 0xA5 o) s

/-- VABS (R240). -/
def execVabs (o : W0) (s : State) : Out := opVec (ctxB 0xA6 o) s
/-- VABS_EXT (R240). -/
def execVabsExt (o : Ext) (s : State) : Out := opVec (ctxX 0xA6 o) s

/-- VNEG (R240). -/
def execVneg (o : W0) (s : State) : Out := opVec (ctxB 0xA7 o) s
/-- VNEG_EXT (R240). -/
def execVnegExt (o : Ext) (s : State) : Out := opVec (ctxX 0xA7 o) s

/-- VCMP (R242). -/
def execVcmp (o : W0) (s : State) : Out := opVcmp (ctxB 0xA8 o) s
/-- VCMP_EXT (R242). -/
def execVcmpExt (o : Ext) (s : State) : Out := opVcmp (ctxX 0xA8 o) s

/-- VSEL (R243). -/
def execVsel (o : W0) (s : State) : Out := opVec (ctxB 0xA9 o) s
/-- VSEL_EXT (R243). -/
def execVselExt (o : Ext) (s : State) : Out := opVec (ctxX 0xA9 o) s

/-- VAND (R241). -/
def execVand (o : W0) (s : State) : Out := opVec (ctxB 0xAA o) s
/-- VAND_EXT (R241). -/
def execVandExt (o : Ext) (s : State) : Out := opVec (ctxX 0xAA o) s

/-- VOR (R241). -/
def execVor (o : W0) (s : State) : Out := opVec (ctxB 0xAB o) s
/-- VOR_EXT (R241). -/
def execVorExt (o : Ext) (s : State) : Out := opVec (ctxX 0xAB o) s

/-- VXOR (R241). -/
def execVxor (o : W0) (s : State) : Out := opVec (ctxB 0xAC o) s
/-- VXOR_EXT (R241). -/
def execVxorExt (o : Ext) (s : State) : Out := opVec (ctxX 0xAC o) s

/-- VSHL (R241). -/
def execVshl (o : W0) (s : State) : Out := opVec (ctxB 0xAD o) s
/-- VSHL_EXT (R241). -/
def execVshlExt (o : Ext) (s : State) : Out := opVec (ctxX 0xAD o) s

/-- VSHR (R241). -/
def execVshr (o : W0) (s : State) : Out := opVec (ctxB 0xAE o) s
/-- VSHR_EXT (R241). -/
def execVshrExt (o : Ext) (s : State) : Out := opVec (ctxX 0xAE o) s

/-- VIADD (R241). -/
def execViadd (o : W0) (s : State) : Out := opVec (ctxB 0xAF o) s
/-- VIADD_EXT (R241). -/
def execViaddExt (o : Ext) (s : State) : Out := opVec (ctxX 0xAF o) s

/-- VIMUL (R241). -/
def execVimul (o : W0) (s : State) : Out := opVec (ctxB 0xB0 o) s
/-- VIMUL_EXT (R241). -/
def execVimulExt (o : Ext) (s : State) : Out := opVec (ctxX 0xB0 o) s

/-- VCVT (R244). -/
def execVcvt (o : Ext) (s : State) : Out := opVcvt (ctxX 0xB1 o) s

/-- VRED (R246). -/
def execVred (o : W0) (s : State) : Out := opVred (ctxB 0xB2 o) s
/-- VRED_EXT (R246). -/
def execVredExt (o : Ext) (s : State) : Out := opVred (ctxX 0xB2 o) s

/-- VSCAN (R247). -/
def execVscan (o : W0) (s : State) : Out := opVscan (ctxB 0xB3 o) s
/-- VSCAN_EXT (R247). -/
def execVscanExt (o : Ext) (s : State) : Out := opVscan (ctxX 0xB3 o) s

/-- VEXP2 (R248). -/
def execVexp2 (o : W0) (s : State) : Out := opVec (ctxB 0xB4 o) s
/-- VEXP2_EXT (R248). -/
def execVexp2Ext (o : Ext) (s : State) : Out := opVec (ctxX 0xB4 o) s

/-- VLOG2 (R248). -/
def execVlog2 (o : W0) (s : State) : Out := opVec (ctxB 0xB5 o) s
/-- VLOG2_EXT (R248). -/
def execVlog2Ext (o : Ext) (s : State) : Out := opVec (ctxX 0xB5 o) s

/-- VRCP (R248). -/
def execVrcp (o : W0) (s : State) : Out := opVec (ctxB 0xB6 o) s
/-- VRCP_EXT (R248). -/
def execVrcpExt (o : Ext) (s : State) : Out := opVec (ctxX 0xB6 o) s

/-- VRSQ (R248). -/
def execVrsq (o : W0) (s : State) : Out := opVec (ctxB 0xB7 o) s
/-- VRSQ_EXT (R248). -/
def execVrsqExt (o : Ext) (s : State) : Out := opVec (ctxX 0xB7 o) s

/-- VSQRT (R248). -/
def execVsqrt (o : W0) (s : State) : Out := opVec (ctxB 0xB8 o) s
/-- VSQRT_EXT (R248). -/
def execVsqrtExt (o : Ext) (s : State) : Out := opVec (ctxX 0xB8 o) s

/-- VSIN (R248). -/
def execVsin (o : W0) (s : State) : Out := opVec (ctxB 0xB9 o) s
/-- VSIN_EXT (R248). -/
def execVsinExt (o : Ext) (s : State) : Out := opVec (ctxX 0xB9 o) s

/-- VCOS (R248). -/
def execVcos (o : W0) (s : State) : Out := opVec (ctxB 0xBA o) s
/-- VCOS_EXT (R248). -/
def execVcosExt (o : Ext) (s : State) : Out := opVec (ctxX 0xBA o) s

/-- VTANH (R248). -/
def execVtanh (o : W0) (s : State) : Out := opVec (ctxB 0xBB o) s
/-- VTANH_EXT (R248). -/
def execVtanhExt (o : Ext) (s : State) : Out := opVec (ctxX 0xBB o) s

/-- VSIGM (R248). -/
def execVsigm (o : W0) (s : State) : Out := opVec (ctxB 0xBC o) s
/-- VSIGM_EXT (R248). -/
def execVsigmExt (o : Ext) (s : State) : Out := opVec (ctxX 0xBC o) s

/-- VPERM (R250). -/
def execVperm (o : W0) (s : State) : Out := opVperm (ctxB 0xBD o) s
/-- VPERM_EXT (R250). -/
def execVpermExt (o : Ext) (s : State) : Out := opVperm (ctxX 0xBD o) s

/-- VBCAST (R250). -/
def execVbcast (o : W0) (s : State) : Out := opVec (ctxB 0xBE o) s
/-- VBCAST_EXT (R250). -/
def execVbcastExt (o : Ext) (s : State) : Out := opVec (ctxX 0xBE o) s

/-- VMOV (R250). -/
def execVmov (o : W0) (s : State) : Out := opVec (ctxB 0xBF o) s
/-- VMOV_EXT (R250). -/
def execVmovExt (o : Ext) (s : State) : Out := opVec (ctxX 0xBF o) s

/-- VLD (R251). -/
def execVld (o : W0) (s : State) : Out := opVld (ctxB 0xC0 o) s
/-- VLD_EXT (R251). -/
def execVldExt (o : Ext) (s : State) : Out := opVld (ctxX 0xC0 o) s

/-- VST (R251). -/
def execVst (o : W0) (s : State) : Out := opVst (ctxB 0xC1 o) s
/-- VST_EXT (R251). -/
def execVstExt (o : Ext) (s : State) : Out := opVst (ctxX 0xC1 o) s

/-- VGATH (R252). -/
def execVgath (o : W0) (s : State) : Out := opVgath (ctxB 0xC2 o) s
/-- VGATH_EXT (R252). -/
def execVgathExt (o : Ext) (s : State) : Out := opVgath (ctxX 0xC2 o) s

/-- VSCAT (R252). -/
def execVscat (o : W0) (s : State) : Out := opVscat (ctxB 0xC3 o) s
/-- VSCAT_EXT (R252). -/
def execVscatExt (o : Ext) (s : State) : Out := opVscat (ctxX 0xC3 o) s

/-- VRAND (R253). -/
def execVrand (o : W0) (s : State) : Out := opVrand (ctxB 0xC4 o) s
/-- VRAND_EXT (R253). -/
def execVrandExt (o : Ext) (s : State) : Out := opVrand (ctxX 0xC4 o) s

/-- VQNT (R254). -/
def execVqnt (o : Ext) (s : State) : Out := opVqnt (ctxX 0xC5 o) s

/-- VDOT (R255). -/
def execVdot (o : W0) (s : State) : Out := opVdot (ctxB 0xC6 o) s
/-- VDOT_EXT (R255). -/
def execVdotExt (o : Ext) (s : State) : Out := opVdot (ctxX 0xC6 o) s

end Sys2Proof.Machine
end

