-- ==== Sys2Proof/Machine/Tensor.lean ====
section
/-! DEFINITION. The tensor engine: accumulators with KIND, EPOCH and segment map, tiles, dense and sparse multiplies,
conversion, segments, reductions, normalisation, softmax and element-wise operations, one row at a time (R256-R284,
R318-R322, R380, R388-R391). -/

namespace Sys2Proof.Machine

/-! ### Accumulators (R261, R279, R318-R321) -/

def Core.accW (k : Core) (a i j : Nat) : Nat := Sparse.get 0 (k.acc a).words (16 * i + j)
def Core.setAccW (k : Core) (a i j v : Nat) : Core :=
  k.setAcc a { k.acc a with words := Sparse.set 0 (k.acc a).words (16 * i + j) (v % 2 ^ 32) }

/-- Element (i, j) is live. -/
def Acc.live (a : Acc) (i j : Nat) : Bool :=
  match a.seg with
  | none => true
  | some m => m.live.testBit (16 * i + j)

/-- AX, and the segments of rows and columns that advance; all live is AX 0 with every row in segment 0. -/
def Acc.map (a : Acc) : SegMap := a.seg.getD { rows := List.replicate 16 (some 0) }

/-- A tri-residue word is valid (R318). -/
def triOk (w : Nat) : Bool := decide (w / 2 ^ 25 = 0) && decide (bits w 15 8 ≠ 255) && decide (bits w 24 16 ≤ 256)
/-- The word that represents an integer. -/
def triOf (x : Int) : Nat := (x % 256).toNat + (x % 255).toNat * 2 ^ 8 + (x % 257).toNat * 2 ^ 16
/-- TriAdd (R319). -/
def triAdd (u v : Nat) : Nat :=
  (u + v) % 256 + (bits u 15 8 + bits v 15 8) % 255 * 2 ^ 8 + (bits u 24 16 + bits v 24 16) % 257 * 2 ^ 16
/-- TriToInt of a valid word (R321). -/
def triToInt (w : Nat) : Int :=
  let x := (w % 256 * 16711425 + bits w 15 8 * 8421376 + bits w 24 16 * 8421120) % 16776960
  if 8388480 ≤ x then (x : Int) - 16776960 else x
/-- An accumulator word as an operand: one that is not valid is read as 0 with INV. -/
def triRead (w : Nat) : Nat × Nat := if triOk w then (w, 0) else (0, fINV)

/-- EPOCH advanced, and RANGE where it is carried above 511 (R320). -/
def epochAdd (a b : Nat) : Nat × Nat := (min 1023 (a + b), if 511 < a + b then fRANGE else 0)

/-- KIND as every rule that asks for agreement sees it: NONE counts as FP32. -/
def AccK.isTri : AccK → Bool
  | .tri => true
  | _ => false

/-- An element raised flags: they join the operation's, and the first in row-major order is kept (R262). -/
def EngOp.note (o : EngOp) (i j fl : Nat) : EngOp :=
  if fl = 0 then o
  else { o with
    flags := o.flags ||| fl
    first := match o.first with
      | none => some (i, j, fl)
      | some (r, c, f) => if i < r ∨ (i = r ∧ j < c) then some (i, j, fl) else if i = r ∧ j = c then some (r, c, f ||| fl) else some (r, c, f) }

/-- RANGE of an operation that carries EPOCH above 511 over rows 0 to m - 1 and columns 0 to n - 1: EPOCH counts for each
element, so the first live one has the flag (R262, R320). -/
def EngOp.noteRange (o : EngOp) (a : Acc) (m n fl : Nat) : EngOp :=
  match (List.range (m * n)).find? fun x => a.live (x / n) (x % n) with
  | some x => o.note (x / n) (x % n) fl
  | none => { o with flags := o.flags ||| fl }

/-- The instructions that write the accumulator they name in D. -/
def writesAcc (op : Nat) : Bool :=
  op == 0xD1 || (decide (0xD3 ≤ op) && decide (op ≤ 0xD6)) || op == 0xDB || op == 0xDC || op == 0xDE || op == 0xDF

/-- The KIND of accumulator a is known at issue (R261). -/
def Core.kindKnown (k : Core) (a : Nat) : Bool := !(k.ops .tensor).any fun o => writesAcc o.opc && o.d == a

/-! ### Rows of tiles (R256, R313) -/

/-- n bytes of row i of a tile, from byte `off` of it. -/
def tileSpan (c v i off n : Nat) : GM Nat := do
  GM.upd fun s => s.reach c (tdRow v i + off) n
  let s ← GM.get
  if (s.core c).scr.isBad (tdRow v i + off) n then GM.stop 3 0x10 (tdRow v i)
  pure (leNat ((s.core c).scr.read (tdRow v i + off) n))

/-- Row i of a tile as a number: its elements, and its scale bytes where the operation reads them (R271, R312). -/
def tileBits (c v i : Nat) (scales : Bool := true) : GM Nat := do
  let x ← tileSpan c v i 0 (tdData v)
  let y ← if scales && tdScales v != 0 then tileSpan c v i 32 (tdScales v) else pure 0
  pure (x + 2 ^ 256 * y)

/-- Element j of a row. -/
def tileElem (v row j : Nat) : Nat := lane (fmtBits (tdFmt v)) row j

/-- The value of an element of a format; a tri-residue word that is not valid is 0 with INV (R277). -/
def elemVal (fmt x : Nat) : FV × Nat :=
  match fmt with
  | 7 => (intV (toSigned 8 x), 0)
  | 8 => (intV (toSigned 4 x), 0)
  | 9 => (intV (toSigned 32 x), 0)
  | 10 => (intV (if triOk x then triToInt x else 0), if triOk x then 0 else fINV)
  | _ => (unpack (fmtOf fmt) x, 0)

/-- The scale byte of element j's block in a row of FMT 6; the scale 1 for every other format. -/
def tileScale (v row j : Nat) : Nat := if tdFmt v = 6 then bits row (8 * (32 + j / 32) + 7) (8 * (32 + j / 32)) else 127

/-- A product of two elements under their scales (R270, R312), and whether it is one that makes its block NaN. -/
def prodV (fa a sa fb b sb : Nat) : FV × Bool :=
  if sa = 255 ∨ sb = 255 then (.nan false, true)
  else
    let p := mulV (elemVal fa a).1 (elemVal fb b).1
    match p.1 with
    | .fin n m e => (.fin n m (e + sa + sb - 254), p.2)
    | r => (r, p.2 || r.isNan)

/-- One K-block of products added to an FP32 word with one RNE rounding. -/
def fpAccumulate (w : Nat) (ps : List (FV × Bool)) : Nat × Nat :=
  let t := sumV ps
  let r := finish (fmtOf 1) 0 0 (addV 0 (unpack (fmtOf 1) w) t.1)
  if t.2 then ((fmtOf 1).nan, fINV ||| r.2) else r

/-- The exact integer that a product of integers stands for. -/
def prodInt (fa a fb b : Nat) : Int := (intOf (elemVal fa a).1).getD 0 * (intOf (elemVal fb b).1).getD 0

/-- The sum of products added to a tri-residue word. -/
def triAccumulate (w : Nat) (x : Int) : Nat × Nat := (triAdd (triRead w).1 (triOf x), (triRead w).2)

/-- Formats that pair under R269. -/
def pairOk (a b : Nat) : Bool :=
  (a == b && (a == 2 || a == 3 || a == 6)) || ((a == 4 || a == 5) && (b == 4 || b == 5)) || ((a == 7 || a == 8) && (b == 7 || b == 8))

/-- Positions of a K-block (R269, R390). -/
def kBlock (fmt : Nat) : Nat :=
  match fmt with
  | 2 => 8 | 3 => 8 | 6 => 32
  | _ => 16

/-! ### The steps of the operations -/

/-- A step: what it makes of the operation, and how it ends, if it does. -/
abbrev Step := GM (EngOp × Option (Nat × Nat × Nat))

/-- Row o.pos of n is done; after the last, status 0 with PROG n. -/
def nextRow (o : EngOp) (n : Nat) : EngOp × Option (Nat × Nat × Nat) :=
  ({ o with pos := o.pos + 1, prog := o.pos + 1 }, if o.pos + 1 = n then some (0, 0, n) else none)

/-- The moving core's state changed. -/
def GM.core (c : Nat) (f : Core → Core) : GM Unit := GM.upd fun s => s.modCore c f
def GM.getCore (c : Nat) : GM Core := do
  let s ← GM.get
  pure (s.core c)

/-- The KIND that an operation needs of accumulator a; NONE becomes it. Else status 5. -/
def needKind (c a : Nat) (tri : Bool) : GM Unit := do
  let k ← GM.getCore c
  let x := k.acc a
  if x.kind ≠ .none ∧ x.kind.isTri ≠ tri then GM.stop 5 0x07 0 false
  GM.core c fun k => k.setAcc a { k.acc a with kind := if tri then .tri else .fp32 }

/-- TACLD (R266). -/
def tacldRow (c : Nat) (o : EngOp) : Step := do
  if o.pos = 0 then GM.core c fun k => k.setAcc o.d { k.acc o.d with kind := .none, epoch := 0, seg := none }
  let bs ← GM.localRead c (o.va + 64 * o.pos) 64
  GM.core c fun k => (List.range 16).foldl (fun k j => k.setAccW o.d o.pos j (leNat ((bs.drop (4 * j)).take 4))) k
  pure (nextRow o 16)

/-- An accumulator's word written to a tile (R267): none for a pairing that is no store. -/
def tacstElem (kind : AccK) (fmt rm rnd w : Nat) : Option (Nat × Nat) :=
  if kind.isTri then (if fmt = 10 then some (w, 0) else none)
  else
    match fmt with
    | 1 => some (vcvtLane 0 0 rm rnd w)
    | 2 => some (vcvtLane 2 0 rm rnd w)
    | 3 => some (vcvtLane 1 0 rm rnd w)
    | 4 => some (vcvtLane 3 0 rm rnd w)
    | 5 => some (vcvtLane 4 0 rm rnd w)
    | 7 => some (vcvtLane 7 0 rm rnd w)
    | 9 => some (vcvtLane 5 0 rm rnd w)
    | _ => none

/-- Elements of row i of a tile written, of a format that packs none, as (position, code): whole 64-bit words where every element of
one is given (R355). -/
def GM.putElems (c v i : Nat) (es : List (Nat × Nat)) : GM Unit := do
  let n := fmtBits (tdFmt v) / 8
  let per := 8 / n
  let _ ← ((es.map fun e => e.1 / per).dedup).mapM fun q => do
    let here := (List.range per).filterMap fun j => es.lookup (per * q + j)
    if here.length = per then GM.localWrite c (tdRow v i + 8 * q) (here.flatMap (natLE n))
    else
      let _ ← (es.filter fun e => e.1 / per == q).mapM fun e => GM.localWrite c (tdRow v i + n * e.1) (natLE n e.2)

/-- Elements of a row written where they are given, the rest of the row kept; then its line full. -/
def GM.tileElems (c v i : Nat) (es : List (Option Nat)) (scales : List Nat) : GM Unit := do
  if es.all (·.isSome) then
    GM.tileRow c v i (natLE (tdData v) (packBits (fmtBits (tdFmt v)) (es.map (·.getD 0)))) (scales.map (BitVec.ofNat 8))
  else
    GM.putElems c v i (es.zipIdx.filterMap fun e => e.1.map fun x => (e.2, x))
    GM.fillRow c v i

/-- TACST (R267). Of several run-time checks that fail, the entry's comes first, then the crossing, then KIND (a choice: R267; assumption
log, entry 47). -/
def tacstRow (c : Nat) (o : EngOp) : Step := do
  let v := o.td1
  let k ← GM.getCore c
  let a := k.acc o.a
  if o.pos = 0 then
    if o.m = 1 then
      let e := o.snaps.getD 0 {}
      if !e.valid then GM.stop 3 0x08 (bits o.imm 3 0)
      if e.xing = 1 ∧ (List.range (tdRows v)).any fun i => (List.range (tdK v)).any fun j => !a.live i j then GM.stop 6 0x09 0 false
    if (tacstElem a.kind (tdFmt v) 0 0 0).isNone then GM.stop 5 0x07 0 false
  let one (j : Nat) : Option Nat × Nat :=
    if o.m = 1 && !a.live o.pos j then (none, 0)
    else match tacstElem a.kind (tdFmt v) (o.xop % 8) (vecRnd o.xop o.seed o.strm (16 * o.pos + j)) (k.accW o.a o.pos j) with
      | some r => (some r.1, r.2)
      | none => (none, 0)
  let es := (List.range (tdK v)).map one
  GM.tileElems c v o.pos (es.map (·.1)) []
  let o := es.zipIdx.foldl (fun o e => o.note o.pos e.2 e.1.2) o
  pure (nextRow o (tdRows v))

/-- TACZ (R268). -/
def taczStep (c : Nat) (o : EngOp) : Step := do
  GM.core c fun k => k.setAcc o.d {}
  pure (o, some (0, 0, 0))

/-- Positions of row j of B that are present: all of them, or those of its mask (R271). -/
def EngOp.present (o : EngOp) (j k : Nat) : Bool := o.opc != 0xD5 || (o.lanes.getD j 0).testBit k

/-- A row of TMMA and of TMMAS (R269-R271), whose masks, where they could not be read, end it (R355). The scales of a row are read where
one of its blocks forms a product (R271, R312). Of one INT8 and one INT4 tile, which
differ in K, the products are those of the smaller, and EPOCH counts K of A (a choice: R269; assumption log, entry 47). -/
def tmmaRow (c : Nat) (o : EngOp) : Step := do
  if o.opc = 0xD5 ∧ o.lanes = [] then GM.stop 3 0x10 o.vc
  let va := o.td1
  let vb := o.td2
  let fa := tdFmt va
  let fb := tdFmt vb
  let tri := decide (7 ≤ fb)
  let kk := tdK va
  if o.pos = 0 then needKind c o.d tri
  let map := (← GM.getCore c).acc o.d
  let forms (j : Nat) : Bool := map.live o.pos j && (List.range kk).any (o.present j)
  let a ← tileBits c va o.pos ((List.range (tdRows vb)).any forms)
  let bs ← (List.range (tdRows vb)).mapM fun j => tileBits c vb j (forms j)
  let k ← GM.getCore c
  let blk := kBlock fa
  let one (o : EngOp) (kj : Core) (j b : Nat) : EngOp × Core :=
    if !(k.acc o.d).live o.pos j then (o, kj)
    else
      let word := kj.accW o.d o.pos j
      if tri then
        let n := min (tdK va) (tdK vb)
        let on := (List.range n).filter (o.present j)
        if on = [] then (o, kj)
        else
          let x := on.foldl (fun x p => x + prodInt fa (tileElem va a p) fb (tileElem vb b p)) (0 : Int)
          let r := triAccumulate word x
          (o.note o.pos j r.2, kj.setAccW o.d o.pos j r.1)
      else
        let r := (List.range ((kk + blk - 1) / blk)).foldl (fun (r : Nat × Nat) q =>
          let on := ((List.range blk).map (blk * q + ·)).filter fun p => decide (p < kk) && o.present j p
          if on = [] then r
          else
            let t := fpAccumulate r.1 (on.map fun p =>
              prodV fa (tileElem va a p) (tileScale va a p) fb (tileElem vb b p) (tileScale vb b p))
            (t.1, r.2 ||| t.2)) (word, 0)
        (o.note o.pos j r.2, kj.setAccW o.d o.pos j r.1)
  let (o', k') := (bs.zipIdx).foldl (fun x b => one x.1 x.2 b.2 b.1) (o, k)
  GM.core c fun _ => k'
  if o.pos + 1 = tdRows va ∧ tri then
    let e := epochAdd (k'.acc o.d).epoch kk
    GM.core c fun k => k.setAcc o.d { k.acc o.d with epoch := e.1 }
    pure (nextRow (o'.noteRange (k'.acc o.d) (tdRows va) (tdRows vb) e.2) (tdRows va))
  else pure (nextRow o' (tdRows va))

/-! ### Sparse records and micro-programs (R384-R391) -/

def spNnz (h : Nat) : Nat := bits h 47 32
def spCols (h : Nat) : Nat := bits h 21 16 + 1
def spRows (h : Nat) : Nat := bits h 13 8 + 1
def spFmt (h : Nat) : Nat := bits h 7 4
/-- Where the values begin. -/
def spValues (h : Nat) : Nat := roundUp (8 + 8 * spRows h) 64
/-- Where the scales begin. -/
def spScales (h : Nat) : Nat := roundUp (spValues h + (spNnz h * fmtBits (spFmt h) + 7) / 8) 16
/-- Bytes of the whole record. -/
def spSize (h : Nat) : Nat :=
  if spFmt h = 6 then spScales h + spRows h * ((spCols h + 31) / 32) else spValues h + (spNnz h * fmtBits (spFmt h) + 7) / 8

/-- The header's own checks in the first row of R385. -/
def spHeaderOk (h : Nat) : Bool :=
  bits h 63 48 == 0 && bits h 31 22 == 0 && bits h 15 14 == 0 && bits h 3 0 == 1 && decide (2 ≤ spFmt h) && decide (spFmt h ≤ 8)

/-- The lines of a record read so far, and those that n bytes of it still need, each read once (R273). -/
def spMore (rd : Nat → Nat → GM (List Byte)) (va : Nat) (got : List Byte) (n : Nat) : GM (List Byte) := do
  let ls ← GM.par ((List.range ((n + 63) / 64 - got.length / 64)).map fun i => rd (va + got.length + 64 * i) 64)
  pure (got ++ ls.flatten)

/-- A record read by `rd`, for core c, line by line, and checked in the first two rows of R385, in their order, so that its bitmap is
read even where it runs past the page; `kk` is K of tdA, where one is named. Its header and its bytes. -/
def spRead (rd : Nat → Nat → GM (List Byte)) (c asid va : Nat) (kk : Option Nat) : GM (Nat × List Byte) := do
  let (_, leaf) ← GM.trans c asid va .read
  let room := let p := leafPage va leaf; p.1 + p.2 - va
  let got ← spMore rd va [] 8
  let h := leNat (got.take 8)
  if !spHeaderOk h then GM.stop 3 0x02 h
  if 2 ^ 48 < va + 8 + 8 * spRows h then GM.stop 3 0x0A 0 false
  let got ← spMore rd va got (8 + 8 * spRows h)
  let row (j : Nat) : Nat := leNat ((got.drop (8 + 8 * j)).take 8)
  if (List.range (spRows h)).any fun j => decide (2 ^ spCols h ≤ row j) then GM.stop 3 0x02 h
  if ((List.range (spRows h)).map fun j => popcount 64 (row j)).sum ≠ spNnz h then GM.stop 3 0x02 h
  if 16 < spRows h ∨ (kk.getD (spCols h)) ≠ spCols h ∨ room < spSize h then GM.stop 3 0x0A 0 false
  let got ← spMore rd va got (spSize h)
  pure (h, got.take (spSize h))

/-- The micro-program of a record (R389, R390). -/
def spCompile (h : Nat) (bs : List Byte) : List Nat :=
  let w := fmtBits (spFmt h)
  let blk := kBlock (spFmt h)
  let row (j : Nat) : Nat := leNat ((bs.drop (8 + 8 * j)).take 8)
  let value (n : Nat) : Nat := lane w (leNat ((bs.drop (spValues h)).take ((spNnz h * w + 7) / 8))) n
  let scale (j k : Nat) : Nat :=
    if spFmt h = 6 then (bs.getD (spScales h + j * ((spCols h + 31) / 32) + k / 32) 0).toNat else 0
  let one (st : List Nat × Nat) (j q : Nat) : List Nat × Nat :=
    let on := ((List.range blk).map (blk * q + ·)).filter fun k => decide (k < spCols h) && (row j).testBit k
    if on = [] then st
    else
      (st.1 ++ on.zipIdx.map (fun e => 2 ^ 60 + e.1 * 2 ^ 54 + j * 2 ^ 50 + scale j e.1 * 2 ^ 32 + value (st.2 + e.2)) ++
        [2 * 2 ^ 60 + j * 2 ^ 50 + q * 2 ^ 44], st.2 + on.length)
  let st := (List.range (spRows h)).foldl (fun st j => (List.range ((spCols h + blk - 1) / blk)).foldl (fun st q => one st j q) st) ([], 0)
  st.1 ++ [3 * 2 ^ 60 + st.1.length + 1]

/-- A micro-program run for one row of A (R391): the products formed since the last BLKADD, then the operation and the
core as the BLKADDs left them. -/
def runUops (fb va a : Nat) : List Nat → List Nat → EngOp × Core → EngOp × Core
  | [], _, x => x
  | u :: us, ms, (o, k) =>
    match bits u 63 60 with
    | 1 => runUops fb va a us (ms ++ [u]) (o, k)
    | 2 =>
      let j := bits u 53 50
      if !(k.acc o.d).live o.pos j then runUops fb va a us [] (o, k)
      else
        let fa := tdFmt va
        let word := k.accW o.d o.pos j
        let r :=
          if 7 ≤ fb then
            triAccumulate word (ms.foldl (fun x m => x + prodInt fa (tileElem va a (bits m 59 54)) fb (bits m 15 0)) 0)
          else fpAccumulate word (ms.map fun m =>
            prodV fa (tileElem va a (bits m 59 54)) (tileScale va a (bits m 59 54)) fb (bits m 15 0)
              (if fb = 6 then bits m 39 32 else 127))
        runUops fb va a us [] (o.note o.pos j r.2, k.setAccW o.d o.pos j r.1)
    | _ => (o, k)

/-- A row of TMMSP (R272, R391). `prism` 2 runs the micro-program in uops, 3 reads the record first, 4 has nothing to
add; lanes hold the record's header and the generation of the entry. The record is read and checked before a row of A is waited
for (R385). -/
def tmmspRow (c : Nat) (o : EngOp) : Step := do
  let va := o.td1
  if o.prism = 3 ∧ o.uops = [] then
    let (h, bs) ← spRead (GM.read c o.asid) c o.asid o.vb (some (tdK va))
    if !pairOk (tdFmt va) (spFmt h) then GM.stop 5 0x07 0 false
    needKind c o.d (decide (7 ≤ spFmt h))
    pure ({ o with uops := spCompile h bs, lanes := h :: o.lanes.drop 1 }, none)
  else
    let fb := spFmt (o.lanes.getD 0 0)
    let tri := decide (7 ≤ fb)
    if o.pos = 0 then needKind c o.d tri
    let map := (← GM.getCore c).acc o.d
    let a ← tileBits c va o.pos (o.uops.any fun u => bits u 63 60 == 2 && map.live o.pos (bits u 53 50))
    let k ← GM.getCore c
    let (o', k') := runUops fb va a o.uops [] (o, k)
    GM.core c fun _ => k'
    if o.pos + 1 = tdRows va ∧ tri then
      let e := epochAdd (k'.acc o.d).epoch (tdK va)
      GM.core c fun k => k.setAcc o.d { k.acc o.d with epoch := e.1 }
      pure (nextRow (o'.noteRange (k'.acc o.d) (tdRows va) (spRows (o.lanes.getD 0 0)) e.2) (tdRows va))
    else pure (nextRow o' (tdRows va))

/-! ### TCVT (R276, R277) -/

/-- The pairing of a source format (1 for an FP32 word, 10 for a tri-residue word) with a destination's. -/
def tcvtPairs (scale : Bool) (src dst : Nat) : Bool :=
  src != 0 && (if dst = 10 then src == 10 && !scale else decide (1 ≤ dst) && decide (dst ≤ 9) && dst != 8)

/-- The value of element j of a row of a tile, its block's scale with it, and its flags. -/
def tileValue (v row j : Nat) : FV × Nat :=
  let s := tileScale v row j
  match elemVal (tdFmt v) (tileElem v row j) with
  | (.fin n m e, fl) => (if s = 255 then .nan false else .fin n m (e + s - 127), fl)
  | (r, fl) => (if s = 255 then .nan false else r, fl)

/-- v × s rounded to a format that is no block format: code and flags. `x` is the source's pattern: a copy without a factor
keeps a quiet NaN's payload (R245). -/
def tcvtElem (src dst rm rnd x : Nat) (v : FV × Nat) (sc : Option Nat) : Nat × Nat :=
  if dst = 10 then (x, 0)
  else
    let p := match sc with
      | some s => mulV v.1 (unpack (fmtOf 1) s)
      | none => (v.1, v.1.isSnan)
    let f := fmtOf dst
    let r : Nat × Nat :=
      if dst = 7 ∨ dst = 9 then
        let w := if dst = 7 then 8 else 32
        let r := toInt rm rnd (-(2 ^ (w - 1) : Nat)) ((2 ^ (w - 1) : Nat) - 1) p.1
        (ofSigned w r.1, r.2)
      else if sc.isNone ∧ src = dst ∧ !v.1.isSnan then (x, 0)
      else if p.2 then nanR f true
      else if f.top ∧ p.1.isInf then (f.nan, fINV)
      else roundV f rm rnd p.1
    (r.1, r.2 ||| v.2 ||| (if p.2 then fINV else 0))

/-- A block of 32 elements, as values with their flags and draws, quantised to FMT 6: the scale byte, and for each element its
code and flags. -/
def tcvtBlock (rm : Nat) (sc : Option Nat) (xs : List ((FV × Nat) × Nat)) : Nat × List (Nat × Nat) :=
  let vs := xs.map fun x =>
    let p := match sc with
      | some s => mulV x.1.1 (unpack (fmtOf 1) s)
      | none => (x.1.1, false)
    (p.1, x.2, x.1.2)
  let q := qntBlock 6 rm (vs.map fun v => (true, v.1, v.2.1))
  if q.1 = 0xFF then
    let at_ := (vs.findIdx? fun v => v.1.isNan || v.1.isInf).getD 0
    (0xFF, vs.zipIdx.map fun v => (0, v.1.2.2 ||| (if v.2 = at_ then fINV else 0)))
  else
    let e : Int := (q.1 : Int) - 127
    (q.1, (q.2.1.zip vs).map fun r => (r.1, r.2.2.2 ||| (if q.2.2 = 0 then 0 else (qntCode 6 rm r.2.2.1 e r.2.1).2)))

/-- TCVT. td1 is the destination, td2 the source tile. -/
def tcvtRow (c : Nat) (o : EngOp) : Step := do
  let v := o.td1
  let tile := o.m.testBit 0
  let sc := if o.m.testBit 1 then some (o.vb % 2 ^ 32) else none
  let k ← GM.getCore c
  let src := if tile then tdFmt o.td2 else if (k.acc o.a).kind.isTri then 10 else 1
  if !tcvtPairs sc.isSome src (tdFmt v) then GM.stop 5 0x07 0 false
  let row ← if tile then tileBits c o.td2 o.pos else pure 0
  let rnd (j : Nat) : Nat := vecRnd o.xop o.seed o.strm (64 * o.pos + j)
  let x (j : Nat) : Nat := if tile then tileElem o.td2 row j else k.accW o.a o.pos j
  let val (j : Nat) : FV × Nat := if tile then tileValue o.td2 row j else elemVal src (x j)
  let kk := tdK v
  if tdFmt v = 6 then
    let bs := (List.range (tdScales v)).map fun b =>
      tcvtBlock (o.xop % 8) sc (((List.range 32).map (32 * b + ·)).filter (· < kk) |>.map fun j => (val j, rnd j))
    let es := bs.flatMap (·.2)
    GM.tileElems c v o.pos (es.map fun e => some e.1) (bs.map (·.1))
    pure (nextRow (es.zipIdx.foldl (fun o e => o.note o.pos e.2 e.1.2) o) (tdRows v))
  else
    let es := (List.range kk).map fun j => tcvtElem src (tdFmt v) (o.xop % 8) (rnd j) (x j) (val j) sc
    GM.tileElems c v o.pos (es.map fun e => some e.1) []
    pure (nextRow (es.zipIdx.foldl (fun o e => o.note o.pos e.2 e.1.2) o) (tdRows v))

/-! ### Segments (R278-R282) -/

/-- The segment of a position along the ragged dimension; none outside (R279, R378). -/
def positionSeg (c asid : Nat) (e : ShapeEnt) (p item : Nat) : GM (Option Nat) :=
  if e.dim e.rdim ≤ p then pure none
  else if e.perItem then do
    if item < e.count then
      let l ← bound c asid e item
      pure (if p < l then some item else none)
    else pure none
  else if e.count < 2 then pure none
  else do
    let lo ← bound c asid e 0
    segScan c asid e p (e.count - 1) 0 lo

/-- TMASK (R283, R378). A reserved field of the origin words is found before an RDIM, or RDIM + 1, at or above RANK (a choice: R378;
assumption log, entry 47). -/
def tmaskStep (c : Nat) (o : EngOp) : Step := do
  let n := bits o.imm 3 0
  let e := o.snaps.getD 0 {}
  if !e.valid then GM.stop 3 0x08 n
  if !e.rag then GM.stop 3 0x02 (e.w 0)
  let bs ← GM.localRead c o.va 16
  let w0 := leNat (bs.take 8)
  let w1 := leNat (bs.drop 8)
  let ax := w1 % 4
  if bits w1 31 2 ≠ 0 ∨ ax = 3 then GM.stop 3 0x02 w1
  if e.rank ≤ e.rdim + (if e.perItem then 1 else 0) then GM.stop 3 0x08 n
  let seg (on : Bool) (org i : Nat) : GM (Option Nat) :=
    if on then positionSeg c o.asid e (org + i) (w1 / 2 ^ 32) else pure (some 0)
  let rows ← (List.range 16).mapM (seg (ax != 1) (w0 % 2 ^ 32))
  let cols ← (List.range 16).mapM (seg (ax != 0) (w0 / 2 ^ 32))
  if e.xing = 1 ∧ (rows.contains none ∨ cols.contains none) then GM.stop 6 0x09 0 false
  let live (i j : Nat) : Bool :=
    let r := rows.getD i none
    let q := cols.getD j none
    r.isSome && q.isSome && (ax != 2 || r == q)
  let bitsOf := packBits 1 ((List.range 256).map fun x => b2n (live (x / 16) (x % 16)))
  let map : SegMap := {
    ax := ax, rowOrg := w0 % 2 ^ 32, colOrg := w0 / 2 ^ 32, live := bitsOf
    rows := if ax = 1 then [] else rows, cols := if ax = 0 then [] else cols }
  GM.core c fun k =>
    let k := (List.range 256).foldl (fun k x => if live (x / 16) (x % 16) then k else k.setAccW o.d (x / 16) (x % 16) e.xfill) k
    let a := k.acc o.d
    k.setAcc o.d { a with kind := if a.kind = .none then .fp32 else a.kind, seg := some map }
  pure (o, some (0, 0, 16))

/-- FP32 arithmetic of a step, rounded by RNE. -/
def f32 (f : Fmt → Nat → Nat → FV → FV → Nat × Nat) (a b : Nat) : Nat × Nat :=
  f (fmtOf 1) 0 0 (unpack (fmtOf 1) a) (unpack (fmtOf 1) b)

/-- The tree of R246 over 16 places, by FP32 sums. -/
def sumTree (vs : List (Option Nat)) : Option Nat × Nat := tree (f32 fAdd) 4 vs

/-- The groups of a line of TRED: result index t and the positions that it combines (R280). -/
def redGroups (a : Acc) (cols seg : Bool) (line : Nat) : List (Nat × List Nat) :=
  let live (q : Nat) : Bool := if cols then a.live q line else a.live line q
  let m := a.map
  let axis := if cols then m.rows else m.cols
  let ids := axis.filterMap id
  if !seg then [(0, List.range 16)]
  else if axis = [] then [(0, (List.range 16).filter live)]
  else match ids with
    | [] => [(0, [])]
    | s :: ss =>
      let lo := ss.foldl min s
      let hi := ss.foldl max s
      (List.range (hi + 1 - lo)).map fun t => (t, (List.range 16).filter fun q => axis.getD q none == some (lo + t) && live q)

/-- A result of TRED in the tile's format; for a group with nothing live, the empty-sequence fill (R379). -/
def redResult (k : Core) (o : EngOp) (cols : Bool) (line efill : Nat) (qs : List Nat) : Nat × Nat :=
  let x (q : Nat) : Nat := if cols then k.accW o.a q line else k.accW o.a line q
  let out (w : Nat) : Nat × Nat := roundV (fmtOf (tdFmt o.td1)) 0 0 (unpack (fmtOf 1) w)
  if qs = [] then (if tdFmt o.td1 = 1 then (efill, 0) else out efill)
  else
    let comb (a b : Nat) : Nat × Nat :=
      match o.xop with
      | 1 => fMinMax (fmtOf 1) true a b
      | 2 => fMinMax (fmtOf 1) false a b
      | _ => f32 fAdd a b
    let vs := (List.range 16).map fun q =>
      if qs.contains q then some (if o.xop = 3 then f32 fMul (x q) (x q) else (x q, 0)) else none
    let fl := vs.foldl (fun a v => a ||| (v.map (·.2)).getD 0) 0
    let t := tree comb 4 (vs.map (·.map (·.1)))
    let r := out (t.1.getD 0)
    (r.1, r.2 ||| t.2 ||| fl)

/-- A line of TRED. The entry is checked before KIND (a choice: R280; assumption log, entry 47). -/
def tredLine (c : Nat) (o : EngOp) : Step := do
  let v := o.td1
  let seg := o.imm.testBit 4
  let cols := o.m == 1
  let e := o.snaps.getD 0 {}
  let k ← GM.getCore c
  if o.pos = 0 then
    if seg && !e.valid then GM.stop 3 0x08 (bits o.imm 3 0)
    if (k.acc o.a).kind.isTri then GM.stop 5 0x07 0 false
  let rs := (redGroups (k.acc o.a) cols seg o.pos).filterMap fun g =>
    let p := if !seg then (0, o.pos) else if cols then (g.1, o.pos) else (o.pos, g.1)
    if p.1 < tdRows v ∧ p.2 < tdK v then some (p, redResult k o cols o.pos e.efill g.2) else none
  let _ ← ((rs.map fun r => r.1.1).dedup).mapM fun i =>
    GM.putElems c v i ((rs.filter fun r => r.1.1 == i).map fun r => (r.1.2, r.2.1))
  let o1 : EngOp := rs.foldl (fun (o : EngOp) r => o.note r.1.1 r.1.2 r.2.2) o
  let o : EngOp := { o1 with pos := o1.pos + 1, prog := o1.prog + rs.length }
  if o.pos = 16 then
    if tdFe v then GM.core c fun k => (List.range (tdRows v)).foldl (fun k i => k.setEmpty (tdRow v i) false) k
    pure (o, some (0, 0, o.prog))
  else pure (o, none)

/-- The groups of a row of TNORM (R281). -/
def normGroups (a : Acc) (seg : Bool) (w i : Nat) : List (List Nat) :=
  let js := (List.range w).filter (a.live i)
  let m := a.map
  if !seg then [List.range w]
  else if m.ax = 0 then [js]
  else (js.filterMap fun j => m.cols.getD j none).eraseDups.map fun s => js.filter fun j => m.cols.getD j none == some s

/-- A group of TNORM: for each element its result and flags. The flags of the steps that a group shares are each element's, and so are
logged at its first (a choice: R281; assumption log, entry 47). -/
def normGroup (layer : Bool) (x : Nat → Nat) (gain : Nat → FV) (eps : Nat) (js : List Nat) : List (Nat × Nat × Nat) :=
  let n := (roundTo (fmtOf 1) 0 0 false js.length 0).1
  let total (f : Nat → Nat × Nat) : Nat × Nat :=
    let vs := (List.range 16).map fun j => if js.contains j then some (f j) else none
    let t := sumTree (vs.map (·.map (·.1)))
    (t.1.getD 0, vs.foldl (fun a v => a ||| (v.map (·.2)).getD 0) t.2)
  let sub (a b : Nat) : Nat × Nat := f32 (fun f m r p q => fAdd f m r p q.neg) a b
  let mu := if layer then total fun j => f32 fDiv (x j) n else (0, 0)
  let d (j : Nat) : Nat × Nat := if layer then sub (x j) mu.1 else (x j, 0)
  let q := total fun j =>
    let y := f32 fMul (d j).1 (d j).1
    let z := f32 fDiv y.1 n
    (z.1, (d j).2 ||| y.2 ||| z.2)
  let u := f32 fAdd q.1 eps
  let s := fSqrt (fmtOf 1) 0 0 (unpack (fmtOf 1) u.1)
  let fl := mu.2 ||| q.2 ||| u.2 ||| s.2
  js.map fun j =>
    let y := f32 fDiv (d j).1 s.1
    let z := fMul (fmtOf 1) 0 0 (unpack (fmtOf 1) y.1) (gain j)
    (j, z.1, fl ||| y.2 ||| z.2)

/-- A row of TNORM. td1 is the gain tile. The entry is checked before KIND (a choice: R281; assumption log, entry 47). -/
def tnormRow (c : Nat) (o : EngOp) : Step := do
  let v := o.td1
  let seg := o.imm.testBit 4
  if o.pos = 0 then
    if !(o.snaps.getD 0 {}).valid then GM.stop 3 0x08 (bits o.imm 3 0)
    needKind c o.d false
  let row ← tileBits c v 0 false
  let gain (j : Nat) : FV := (elemVal (tdFmt v) (tileElem v row j)).1
  let k ← GM.getCore c
  let rs := (normGroups (k.acc o.d) seg (tdK v) o.pos).flatMap fun js =>
    normGroup (o.m == 1) (fun j => k.accW o.d o.pos j) gain (o.vb % 2 ^ 32) js
  GM.core c fun k => rs.foldl (fun k r => k.setAccW o.d o.pos r.1 r.2.1) k
  pure (nextRow (rs.foldl (fun o r => o.note o.pos r.1 r.2.2) o) 16)

/-- A row of TSMAX (R282). The entry is checked before KIND (a choice: R282; assumption log, entry 47). -/
def tsmaxRow (c : Nat) (o : EngOp) : Step := do
  let e := o.snaps.getD 0 {}
  if o.pos = 0 then
    if !e.valid then GM.stop 3 0x08 (bits o.imm 3 0)
    needKind c o.d false
  let k ← GM.getCore c
  let a := k.acc o.d
  let m := a.map
  let i := o.pos
  let allowed (j : Nat) : Bool := (o.m == 1 || a.live i j) && (o.m == 0 || decide (m.colOrg + j ≤ m.rowOrg + i))
  let js := (List.range 16).filter allowed
  let f := fmtOf 1
  let z (j : Nat) : Nat × Nat := f32 fMul (o.vb % 2 ^ 32) (k.accW o.d i j)
  let rs : List (Nat × Nat) :=
    if js = [] then (List.range 16).map fun _ => (e.efill, 0)
    else if js.any fun j => (unpack f (z j).1).isNan then
      (List.range 16).map fun j => if allowed j then (f.nan, fINV ||| (z j).2) else (0, 0)
    else
      let mx := js.foldl (fun b j => if (unpack f b).lt (unpack f (z j).1) then (z j).1 else b) (z (js.headD 0)).1
      let ex (j : Nat) : Nat × Nat :=
        let d := addV 0 (unpack f (z j).1) (unpack f mx).neg
        let p := mulV d.1 (unpack f 0x3FB8AA3B)
        let r := finish f 0 0 (p.1, d.2 || p.2)
        let q := sfLane f 0xB4 0 r.1
        (q.1, r.2 ||| q.2 ||| (z j).2)
      let t := sumTree ((List.range 16).map fun j => if allowed j then some (ex j).1 else none)
      (List.range 16).map fun j =>
        if allowed j then
          let y := f32 fDiv (ex j).1 (t.1.getD 0)
          (y.1, y.2 ||| (ex j).2 ||| t.2)
        else (0, 0)
  GM.core c fun k => rs.zipIdx.foldl (fun k r => k.setAccW o.d i r.2 r.1.1) k
  pure (nextRow (rs.zipIdx.foldl (fun o r => o.note i r.2 r.1.2) o) 16)

/-! ### TTRN and TADD (R283, R284) -/

/-- A row of the destination of TTRN. -/
def ttrnRow (c : Nat) (o : EngOp) : Step := do
  let v := o.td1
  let rows ← (List.range (tdRows o.td2)).mapM fun i => tileBits c o.td2 i false
  GM.tileElems c v o.pos (rows.map fun r => some (tileElem o.td2 r o.pos)) []
  pure (nextRow o (tdRows v))

/-- A row of TADD. -/
def taddRow (c : Nat) (o : EngOp) : Step := do
  let k ← GM.getCore c
  let a := k.acc o.a
  let tri := a.kind.isTri
  if o.pos = 0 then
    if o.m ≠ 2 ∧ (k.acc o.b).kind.isTri ≠ tri then GM.stop 5 0x07 0 false
    if o.m ≠ 0 ∧ tri then GM.stop 5 0x07 0 false
  let i := o.pos
  let one (j : Nat) : Nat × Nat :=
    let x := k.accW o.a i j
    let y := if o.m = 2 then o.vb % 2 ^ 32 else k.accW o.b i j
    if tri then (triAdd (triRead x).1 (triRead y).1, (triRead x).2 ||| (triRead y).2)
    else if o.m = 0 then f32 fAdd x y
    else f32 fMul x y
  let js := (List.range 16).filter ((k.acc o.d).live i)
  let o' := js.foldl (fun o j => o.note i j (one j).2) o
  let e := epochAdd a.epoch (k.acc o.b).epoch
  let last := i == 15
  GM.core c fun k =>
    let k := js.foldl (fun k j => k.setAccW o.d i j (one j).1) k
    if last then k.setAcc o.d { k.acc o.d with kind := if tri then .tri else .fp32, epoch := if tri then e.1 else (k.acc o.d).epoch }
    else k
  pure (nextRow (if last && tri then o'.noteRange (k.acc o.d) 16 16 e.2 else o') 16)

/-! ### The engine (R259, R260, R263) -/

/-- One row of the operation. -/
def tensorStep (c : Nat) (o : EngOp) : Step :=
  match o.opc with
  | 0xD1 => tacldRow c o
  | 0xD2 => tacstRow c o
  | 0xD3 => taczStep c o
  | 0xD4 => tmmaRow c o
  | 0xD5 => tmmaRow c o
  | 0xD6 => tmmspRow c o
  | 0xD9 => tcvtRow c o
  | 0xDA => tredLine c o
  | 0xDB => tnormRow c o
  | 0xDC => tsmaxRow c o
  | 0xDD => ttrnRow c o
  | 0xDE => tmaskStep c o
  | _ => taddRow c o

/-- The rows that the next row of an operation reads are full. -/
def Core.tensorReady (k : Core) (o : EngOp) : Bool :=
  let all (v : Nat) : Bool := (List.range (tdRows v)).all (k.rowFull v)
  match o.opc with
  | 0xD4 => k.rowFull o.td1 o.pos && (o.pos != 0 || all o.td2)
  | 0xD5 => k.rowFull o.td1 o.pos && (o.pos != 0 || all o.td2)
  | 0xD6 => k.rowFull o.td1 o.pos
  | 0xD9 => !o.m.testBit 0 || k.rowFull o.td2 o.pos
  | 0xDB => o.pos != 0 || k.rowFull o.td1 0
  | 0xDD => o.pos != 0 || all o.td2
  | _ => true

/-- The progress word (R263); no pass along K is ever taken but the first (R390). -/
def Core.progress (k : Core) : Nat :=
  match k.ops .tensor with
  | o :: _ => if o.begun then o.opc * 2 ^ 56 + o.d % 8 * 2 ^ 53 + min o.pos 16 * 2 ^ 48 else 0
  | [] => 0

/-- A TMMSP that the dense path serves has still to read its record (R272). -/
def EngOp.reads (o : EngOp) : Bool := o.opc == 0xD6 && o.prism == 3 && o.uops == []

/-- The engine goes on with its first operation. A TMMSP asks Prism first, and has not begun while it waits there (R272, R394).
`left` bounds the pieces of the reading of a record; a row is never divided (R263). -/
def State.tensorServe (s : State) (c : Nat) (left : Option Nat) (pick : Nat := 0) : State :=
  let k := s.core c
  match k.ops .tensor with
  | [] => s
  | o :: _ =>
    if (k.eng.stopped && !o.live) || o.parked || o.waits then s
    else if o.opc = 0xD6 ∧ o.prism < 2 then
      if o.prism = 1 then s
      else (s.modCore c (·.setOp .tensor { o with prism := 1 })).send
        { src := .core c, dst := .prism (clusterOf c), chan := .request
          body := .prism { core := c, op := o.id, asid := o.asid, va := o.vb, epc := o.epc, handle := o.handle, ref := o.ref } }
    else
      let o := if o.begun then o else { o with begun := true, since := s.cycles }
      if o.reads then s.runPiece c .tensor o o.prog (tensorStep c o) left pick
      else if !k.tensorReady o then s.modCore c (·.setOp .tensor o)
      else if o.opc = 0xD3 then s.modCore c fun k => (k.setAcc o.d {}).dropOp .tensor o.id
      else s.runPiece c .tensor o o.prog (tensorStep c o)

/-- The unit of an operation, for what its accesses do. -/
def opUnit (c : Nat) (g : Engine) (o : EngOp) : GM Unit :=
  match g with
  | .copy => do let _ ← copyUnit c o
  | .vector => do let _ ← streamUnit c o (if o.last then o.sub else o.groupLen)
  | .tensor => do let _ ← tensorStep c o
  | _ => pure ()

/-- A piece of an operation that another piece has ended: it is performed by itself, parked anew, or dropped (R195). -/
def State.pieceAlone (s : State) (c : Nat) (g : Engine) (o : EngOp) (memo : List (List Nat)) : State :=
  match (ExceptT.run (opUnit c g o)) { s := s, todo := memo, left := some 1 } with
  | (.error (.mem e), t) =>
    (t.s.parkErr o.asid c o.handle e (.piece c g o.id (t.s.regionOf c) e.va (e.stamp t.s o.order) memo)).getD t.s
  | (_, t) => t.s

/-- Another piece of the unit at which an operation is parked faults on a page of its own, and is parked too, or ends the operation, which
then waits for the parked ones (R195, R369); n picks which may be next. The pieces before it in its order are yet to be performed. -/
def State.parkMore (s : State) (c : Nat) (g : Engine) (o : EngOp) (n : Nat) : State :=
  let ends (code cause : Nat) (recd : Option Nat) : State :=
    s.endOp c g { o with flags := o.flags ||| o.partFlags } code cause (min (o.prog + o.part) (2 ^ 32 - 1)) recd
  if o.fin.isSome || !s.pieceParked (s.regionOf c) c g o.id then s
  else match (ExceptT.run (opUnit c g o)) { s := s, pick := n } with
    | (.error (.mem (.fault va r l x need)), t) =>
      (s.parkErr o.asid c o.handle (.fault va r l x need)
        (.piece c g o.id (s.regionOf c) va ((GErr.fault va r l x need).stamp s none) t.done.reverse)).getD s
    | (.error (.fin code cause v recd), _) => ends code cause (if recd then some v else none)
    | (.error (.mem (.cause cs v)), _) => ends 3 cs (some v)
    | (.error (.mem (.abort va)), _) => ends 3 0x13 (some va)
    | _ => s

/-- TENSOR_ROW. -/
def execTensorRow (c : Nat) (s : State) : Out := .next (s.tensorServe c none)

/-- A piece of operation id, n picking among those that may be next. -/
def State.piece (s : State) (c id n : Nat) : State :=
  let parked (g : Engine) : Option (Engine × EngOp) := (((s.core c).findOp g id).filter (·.parked)).map fun o => (g, o)
  match ((parked .copy).or (parked .vector)).or (parked .tensor) with
  | some (g, o) => s.parkMore c g o n
  | none =>
  if ((s.core c).findOp .vector id).isSome then s.streamServe c (some 1) n
  else if ((s.core c).findOp .tensor id).isSome then s.tensorServe c (some 1) n
  else s.copyPiece c id n

/-- ROW_WAIT_TIMEOUT: 2^26 core cycles for one row (R259), those apart in which the engine stood still (R263). -/
def execRowWaitTimeout (c n : Nat) (s : State) : Out :=
  let k := s.core c
  match n, k.ops .tensor with
  | 0, o :: _ =>
    if k.eng.stopped || !o.begun || o.parked || o.waits || o.reads || k.tensorReady o || decide (s.cycles < o.since + 2 ^ 26)
    then .next s
    else .next (s.endOp c .tensor o 4 0 o.prog none)
  | _, _ => .next s

/-! ### Issue -/

/-- The operation enters the queue of 16; a full one holds issue (R260). -/
def tensorIssue (k : Ctx) (s : State) (r : Ref) (start : State → State) : Out :=
  if 16 ≤ (s.me.ops .tensor).length then .next s else .next ((start (issued s r)).advance k.len)

/-- It enters with a snapshot of the shape entry it names, or without one. -/
def tensorStart (s : State) (o : EngOp) (entry : Option Nat) : State :=
  match entry with
  | some n => s.startWithSnaps s.cur .tensor o [n]
  | none => s.modMe (·.startOp .tensor o)

/-- The byte ranges of two tiles meet. -/
def tilesMeet (a b : Nat) : Bool :=
  decide (tdAddr a < tdRow b (tdRows b - 1) + tdSpan b) && decide (tdAddr b < tdRow a (tdRows a - 1) + tdSpan a)

def State.tdv (s : State) (r : Nat) : Nat := (s.me.td r).toNat

/-- TACLD. -/
def opTacld (k : Ctx) (s : State) : Out :=
  run false k s fun s =>
    checkLocal s (k.vA s) 1024 64 <| withRef k s fun r => tensorIssue k s r fun t => tensorStart t (k.engOp s r) none

/-- TACST. -/
def opTacst (k : Ctx) (s : State) : Out :=
  run false k s fun s =>
    let v := s.tdv k.d
    let f := tdFmt v
    let known := s.me.kindKnown k.a
    let ok := decide (f ≤ 10) && (!known || (tacstElem (s.me.acc k.a).kind f 0 0 0).isSome)
    checkTd s v ok <|
      if 16 < tdK v then trapOut s 0x02 v
      else withRef k s fun r => tensorIssue k s r fun t =>
        tensorStart (t.emptyRows v) { k.engOp s r with td1 := v } (if k.m = 1 then some (bits k.imm 3 0) else none)

/-- TACZ. -/
def opTacz (k : Ctx) (s : State) : Out :=
  run false k s fun s =>
    if 16 ≤ (s.me.ops .tensor).length then .next s
    else .next ((s.modMe (·.startOp .tensor (k.engOp s {}))).advance k.len)

/-- TMMA and TMMAS up to the shape rule: descriptors A and B, formats that pair, one K. -/
def tmmaChecks (k : Ctx) (s : State) (body : Out) : Out :=
  let a := s.tdv k.a
  let b := s.tdv k.b
  let ok (f : Nat) : Bool := decide (2 ≤ f) && decide (f ≤ 8)
  checkTd s a (ok (tdFmt a)) <| checkTd s b (ok (tdFmt b) && pairOk (tdFmt a) (tdFmt b)) <|
    if tdCols a ≠ tdCols b then trapOut s 0x02 b else body

/-- TMMA. -/
def opTmma (k : Ctx) (s : State) : Out :=
  run false k s fun s => tmmaChecks k s <| withRef k s fun r => tensorIssue k s r fun t =>
    tensorStart t { k.engOp s r with td1 := s.tdv k.a, td2 := s.tdv k.b } none

/-- TMMAS: the masks are read at issue; with an uncorrectable error among them there are none, and the operation ends so when its turn
comes (R355; assumption log, entry 38). -/
def opTmmas (k : Ctx) (s : State) : Out :=
  run false k s fun s => tmmaChecks k s <|
    let v := k.vC s
    let n := tdRows (s.tdv k.b)
    checkLocal s v (8 * n) 8 <|
      let s := s.localReach s.cur v (8 * n)
      withRef k s fun r => tensorIssue k s r fun t =>
        tensorStart t { k.engOp s r with
          td1 := s.tdv k.a, td2 := s.tdv k.b
          lanes := if s.localBad s.cur v (8 * n) then [] else (List.range n).map fun j => s.localN s.cur (v + 8 * j) 8 } none

/-- TMMSP. -/
def opTmmsp (k : Ctx) (s : State) : Out :=
  run false k s fun s =>
    let a := s.tdv k.a
    checkTd s a (decide (2 ≤ tdFmt a) && decide (tdFmt a ≤ 8)) <| checkGlobal s (k.vB s) 64 <| withRef k s fun r =>
      tensorIssue k s r fun t => tensorStart t { k.engOp s r with td1 := a } none

/-- TCVT. -/
def opTcvt (k : Ctx) (s : State) : Out :=
  run false k s fun s =>
    let v := s.tdv k.d
    let f := tdFmt v
    let sc := k.m.testBit 1
    if k.m.testBit 0 then
      let a := s.tdv k.a
      checkTd s v (decide (1 ≤ f) && decide (f ≤ 10) && f != 8 && tcvtPairs sc (tdFmt a) f) <|
        checkTd s a (decide (1 ≤ tdFmt a) && decide (tdFmt a ≤ 10)) <|
          if tdRows v ≠ tdRows a ∨ tdK v ≠ tdK a ∨ tilesMeet v a then trapOut s 0x02 v
          else withRef k s fun r => tensorIssue k s r fun t =>
            tensorStart (t.emptyRows v) { k.engOp s r with td1 := v, td2 := a } none
    else
      let src := if (s.me.acc k.a).kind.isTri then 10 else 1
      let ok := decide (f ≤ 10) && (!s.me.kindKnown k.a || tcvtPairs sc src f)
      checkTd s v ok <|
        if 16 < tdK v then trapOut s 0x02 v
        else withRef k s fun r => tensorIssue k s r fun t => tensorStart (t.emptyRows v) { k.engOp s r with td1 := v } none

/-- TRED. -/
def opTred (k : Ctx) (s : State) : Out :=
  run false k s fun s =>
    let v := s.tdv k.d
    checkTd s v (decide (1 ≤ tdFmt v) && decide (tdFmt v ≤ 3)) <| withRef k s fun r => tensorIssue k s r fun t =>
      tensorStart (t.emptyRows v) { k.engOp s r with td1 := v } (if k.imm.testBit 4 then some (bits k.imm 3 0) else none)

/-- TNORM. -/
def opTnorm (k : Ctx) (s : State) : Out :=
  run false k s fun s =>
    let v := s.tdv k.a
    checkTd s v (decide (1 ≤ tdFmt v) && decide (tdFmt v ≤ 3)) <| withRef k s fun r => tensorIssue k s r fun t =>
      tensorStart t { k.engOp s r with td1 := v } (some (bits k.imm 3 0))

/-- TSMAX. -/
def opTsmax (k : Ctx) (s : State) : Out :=
  run false k s fun s => withRef k s fun r => tensorIssue k s r fun t =>
    tensorStart t (k.engOp s r) (some (bits k.imm 3 0))

/-- TTRN. -/
def opTtrn (k : Ctx) (s : State) : Out :=
  run false k s fun s =>
    let v := s.tdv k.d
    let a := s.tdv k.a
    let ok (f : Nat) : Bool := [1, 2, 3, 9, 10].contains f
    checkTd s v (ok (tdFmt v)) <| checkTd s a (ok (tdFmt a) && tdFmt a == tdFmt v) <|
      if tdRows v ≠ tdK a ∨ tdK v ≠ tdRows a ∨ tilesMeet v a then trapOut s 0x02 v
      else withRef k s fun r => tensorIssue k s r fun t =>
        tensorStart (t.emptyRows v) { k.engOp s r with td1 := v, td2 := a } none

/-- TMASK. -/
def opTmask (k : Ctx) (s : State) : Out :=
  run false k s fun s =>
    checkLocal s (k.vA s) 16 16 <| withRef k s fun r => tensorIssue k s r fun t =>
      tensorStart t (k.engOp s r) (some (bits k.imm 3 0))

/-- TADD. -/
def opTadd (k : Ctx) (s : State) : Out :=
  run false k s fun s => withRef k s fun r => tensorIssue k s r fun t => tensorStart t (k.engOp s r) none

/-- TEXLOG (R264). -/
def opTexlog (k : Ctx) (s : State) : Out :=
  run false k s fun s =>
    done k s fun c =>
      let v := Sparse.get 0 c.eng.tlog k.a
      (if k.m = 1 then c.modEng fun e => { e with tlog := Sparse.set 0 e.tlog k.a 0 } else c).writeG k.d v

/-- TACLD (R266). -/
def execTacld (o : Ext) (s : State) : Out := opTacld (ctxX 0xD1 o) s

/-- TACST (R267). -/
def execTacst (o : Ext) (s : State) : Out := opTacst (ctxX 0xD2 o) s

/-- TACZ (R268). -/
def execTacz (o : W0) (s : State) : Out := opTacz (ctxB 0xD3 o) s

/-- TMMA (R269). -/
def execTmma (o : Ext) (s : State) : Out := opTmma (ctxX 0xD4 o) s

/-- TMMAS (R271). -/
def execTmmas (o : Ext) (s : State) : Out := opTmmas (ctxX 0xD5 o) s

/-- TMMSP (R272). -/
def execTmmsp (o : Ext) (s : State) : Out := opTmmsp (ctxX 0xD6 o) s

/-- TCVT (R276). -/
def execTcvt (o : Ext) (s : State) : Out := opTcvt (ctxX 0xD9 o) s

/-- TRED (R280). -/
def execTred (o : Ext) (s : State) : Out := opTred (ctxX 0xDA o) s

/-- TNORM (R281). -/
def execTnorm (o : Ext) (s : State) : Out := opTnorm (ctxX 0xDB o) s

/-- TSMAX (R282). -/
def execTsmax (o : Ext) (s : State) : Out := opTsmax (ctxX 0xDC o) s

/-- TTRN (R283). -/
def execTtrn (o : Ext) (s : State) : Out := opTtrn (ctxX 0xDD o) s

/-- TMASK (R278). -/
def execTmask (o : Ext) (s : State) : Out := opTmask (ctxX 0xDE o) s

/-- TADD (R284). -/
def execTadd (o : Ext) (s : State) : Out := opTadd (ctxX 0xDF o) s

/-- TEXLOG (R264). -/
def execTexlog (o : W0) (s : State) : Out := opTexlog (ctxB 0xE4 o) s

end Sys2Proof.Machine
end

