-- ==== Sys2Proof/Machine/Prism.lean ====
section
/-! DEFINITION. Prism: lookups and compiles, its directory and store, SPCOMP and SPINV (R272-R275, R384-R396). -/

namespace Sys2Proof.Machine

/-! ### Operations at Prism -/

/-- The tensor operation that waits on Prism, as its core or the image of its core holds it. -/
def State.prismOp (s : State) (p : PrismOp) : Option EngOp :=
  ((s.owner p.ref.region p.core).bind (·.findOp .tensor p.op)).filter (·.prism == 1)

/-- An operation ends at Prism: its record, then its status (R262, R385, R393). -/
def State.prismEnd (s : State) (cl : Nat) (p : PrismOp) (code cause value : Nat) (recd : Bool) : State :=
  let note (s : State) : State :=
    if recd then
      s.postFor p.ref.region p.core (cause == 0x13) cause Engine.prism.src 0 p.epc p.handle value (statusWord code cause 0)
    else s
  if p.spcomp then (note s).signal (.prism cl) p.ref code cause 0
  else if (s.prismOp p).isSome then (note s).endOwned p.ref.region p.core .tensor p.op code cause 0 none
  else s

/-- An operation is served: by a micro-program (kind 1), by the dense path (2) from the micro-operations given or, if
none are given, from its own reading, or by an empty entry (3); `entry` is when the directory entry was made that serves it, 0 with
none. A TMMSP makes the checks of R385 against tdA; with no
header it makes them when it reads the record. -/
def State.prismGive (s : State) (cl : Nat) (p : PrismOp) (head entry kind size : Nat) (uops : List Nat) (resumed : Bool) :
    State :=
  let resumed := resumed || p.resumed
  if p.spcomp then s.signal (.prism cl) p.ref (if resumed then 2 else 0) (if resumed then 0x13 else 0) size
  else match s.prismOp p with
    | none => s
    | some o =>
      if head ≠ 0 ∧ spCols head ≠ tdK o.td1 then s.prismEnd cl p 3 0x0A 0 false
      else if head != 0 && !pairOk (tdFmt o.td1) (spFmt head) then s.prismEnd cl p 5 0x07 0 false
      else s.modOwner p.ref.region p.core (·.setOp .tensor { o with
        prism := kind + 1, uops := uops, lanes := if head = 0 then [] else [head, entry]
        resumed := o.resumed || resumed, since := s.cycles })

/-! ### Directory and store (R395, R396) -/

/-- The entry serves a TMMSP of the cluster. -/
def State.prismServing (s : State) (cl : Nat) (e : PEnt) : Bool :=
  (coresOf cl).any fun c => ((s.core c).ops .tensor).any fun o =>
    o.opc == 0xD6 && decide (2 ≤ o.prism) && e.kind != 0 && e.made != 0 && o.lanes.getD 1 0 == e.made

/-- BUSY of R396. -/
def State.prismBusy (s : State) (cl : Nat) (e : PEnt) : Bool := e.busy || s.prismServing cl e

/-- SUPER of R396: the directory holds an entry of a newer generation, or the compile of one. -/
def superseded (dir : Sparse PEnt) (e : PEnt) : Bool :=
  e.kind != 0 && dir.any fun x => (x.2.kind != 0 || x.2.busy) && x.2.asid == e.asid && x.2.va == e.va && decide (e.gen < x.2.gen)

/-- The entry that goes next: superseded ones first, then the least recently used; never a busy one. -/
def State.prismVictim (s : State) (cl : Nat) : Option Nat :=
  let dir := (s.cluster cl).dir
  let key (e : PEnt) : Nat × Nat := (if superseded dir e then 0 else 1, e.used)
  ((dir.filter fun e => !s.prismBusy cl e.2).foldl (fun b e =>
    match b with
    | none => some (e.1, key e.2)
    | some (i, k) =>
      let q := key e.2
      if q.1 < k.1 ∨ (q.1 = k.1 ∧ q.2 < k.2) then some (e.1, q) else some (i, k)) none).map (·.1)

/-- The lowest place of n micro-operations in the store that no entry holds: at 0 or behind an entry. -/
def storePlace (dir : Sparse PEnt) (n : Nat) : Option Nat :=
  let runs := (dir.filter fun e => e.2.kind == 1).map fun e => (e.2.offset, e.2.size)
  ((0 :: runs.map fun r => r.1 + r.2).filter fun a =>
    decide (a + n ≤ 65536) && runs.all fun r => decide (a + n ≤ r.1) || decide (r.1 + r.2 ≤ a)).min?

/-- Entries are discarded until `ok` of the directory answers; f bounds how many. -/
def State.prismRoom (s : State) (cl : Nat) (ok : Sparse PEnt → Bool) : Nat → State
  | 0 => s
  | f + 1 =>
    let k := s.cluster cl
    if ok k.dir then s
    else match s.prismVictim cl with
      | none => s
      | some i => State.prismRoom (s.setCluster cl { k with dir := Sparse.set {} k.dir i {} }) cl ok f

/-- The store with micro-operations written from a place on. -/
def storeWrite (m : Sparse Word) (a : Nat) : List Nat → Sparse Word
  | [] => m
  | u :: us => storeWrite (Sparse.set 0 m a (BitVec.ofNat 64 u)) (a + 1) us

/-! ### Compiles (R392-R394) -/

/-- The first compile of the queue changed by f. -/
def State.modCompile (s : State) (cl : Nat) (f : Compile → Compile) : State :=
  let k := s.cluster cl
  s.setCluster cl { k with compiles := k.compiles.modify 0 f }

/-- The first compile is over: its directory entry goes unless it has become an entry that is kept. -/
def State.compileOver (s : State) (cl : Nat) : State :=
  let k := s.cluster cl
  s.setCluster cl { k with
    compiles := k.compiles.drop 1
    dir := Sparse.mapV {} (fun _ e => if e.kind = 0 then {} else e) k.dir }

/-- Every operation that waits on the first compile ends with a status. -/
def State.compileEnds (s : State) (cl : Nat) (ops : List PrismOp) (code cause value : Nat) (recd : Bool) : State :=
  ops.foldl (fun s p => s.prismEnd cl p code cause value recd) (s.compileOver cl)

/-- The Prism of a cluster as a viewer of memory: a place of the cluster that no core has. -/
def prismCore (cl : Nat) : Nat := coreOf cl 31

/-- n bytes at a VA, read by the Prism of a cluster at their home slices, line by line (R393). -/
def GM.fetch (cl asid va n : Nat) : GM (List Byte) := do
  let ps ← (linePieces (n / 64 + 2) va n).mapM fun e =>
    GM.bytes fun s => s.gReadPiece asid e.1 e.2 .read { turn := true, core := prismCore cl }
  pure ps.flatten

/-- A record read by the Prism of a cluster. -/
def spFetch (cl asid va : Nat) : GM (Nat × List Byte) := spRead (GM.fetch cl asid) (prismCore cl) asid va none

/-- What an operation on a page with watch = 0 meets: a TMMSP takes the dense path; for an SPCOMP Prism reads and checks the
record (R272, R274, R392), and waits where a read faults (R393). None when nothing can be done now. -/
def State.prismUnwatched (s : State) (cl : Nat) (p : PrismOp) : Option State :=
  if !p.spcomp then some (s.prismGive cl p 0 0 2 0 [] false)
  else match (spFetch cl p.asid p.va).whole s with
    | (.ok _, s) => some (s.prismGive cl p 0 0 2 0 [] false)
    | (.error (.fin code cause v recd), s) => some (s.prismEnd cl p code cause v recd)
    | (.error (.mem (.cause c v)), s) => some (s.prismEnd cl p 3 c v true)
    | (.error (.mem (.abort v)), s) => some (s.prismEnd cl p 3 0x13 v true)
    | (.error (.mem e), s) => s.parkErr p.asid p.core p.handle e (.spcomp cl p e.va)
    | (.error .more, _) => none

/-- An operation reaches its Prism once more. -/
def State.prismAgain (s : State) (cl : Nat) (p : PrismOp) : State :=
  s.send { src := .prism cl, dst := .prism cl, chan := .request, region := p.ref.region, body := .prism p }

/-- An entry of the directory serves operations, in the order of their arrival. -/
def State.entryServes (s : State) (cl i : Nat) (e : PEnt) (ops : List PrismOp) (resumed : Bool) : State :=
  let k := s.cluster cl
  let s := s.setCluster cl { k with clock := k.clock + 1, dir := Sparse.set {} k.dir i { e with used := k.clock } }
  let us := if e.kind = 1 then (List.range e.size).map fun n => (Sparse.get 0 k.store (e.offset + n)).toNat
            else if e.kind = 3 then [3 * 2 ^ 60 + 1] else []
  ops.foldl (fun s p => s.prismGive cl p e.head e.made e.kind e.size us resumed) s

/-- The entry of an identity (R272). -/
def Cluster.entryOf (k : Cluster) (asid va gen : Nat) : Option (Nat × PEnt) :=
  k.dir.find? fun e => e.2.kind != 0 && e.2.asid == asid && e.2.va == va && e.2.gen == gen

/-- The compiles of an identity that wait to begin find its entry made: it serves what waits on them (R387). -/
def State.serveQueued (s : State) (cl asid va gen : Nat) : State :=
  let k := s.cluster cl
  match k.entryOf asid va gen with
  | none => s
  | some (i, e) =>
    let mine (q : Compile) : Bool := q.slot.isNone && q.asid == asid && q.va == va && q.ident == some gen
    if k.compiles.any mine then
      (s.setCluster cl { k with compiles := k.compiles.filter (!mine ·) }).entryServes cl i e
        ((k.compiles.filter mine).flatMap (·.waiting)) false
    else s

/-- The entry of a record that passed its checks, made under the second reading of the generation unless SPINV or a
page discard struck meanwhile; then the waiting operations are served from it (R275, R386, R387, R392, R395). -/
def State.compileMakes (s : State) (cl : Nat) (q : Compile) (gen head : Nat) (bs : List Byte) : State :=
  let nnz := spNnz head
  let kind := if nnz = 0 then 3 else if 3 * spRows head * spCols head < 8 * nnz then 2 else 1
  let us := if kind = 1 then spCompile head bs else []
  let s := s.prismRoom cl (fun d => us = [] || (storePlace d us.length).isSome) 2048
  let k := s.cluster cl
  let at_ := if us = [] then 0 else (storePlace k.dir us.length).getD 0
  let e : PEnt := { asid := q.asid, va := q.va, gen := gen, kind := kind, size := us.length, offset := at_, head := head
                    made := k.clock + 1, used := k.clock }
  let s := s.setCluster cl { k with
    clock := k.clock + 1
    store := storeWrite k.store at_ us
    dir := match q.slot, q.dropped with
      | some i, false => Sparse.set {} k.dir i e
      | _, _ => k.dir }
  let uops := if kind = 3 then [3 * 2 ^ 60 + 1] else us
  let kept := if q.slot.isSome && !q.dropped then e.made else 0
  (q.waiting.foldl (fun s p => s.prismGive cl p head kept kind us.length uops q.resumed) (s.compileOver cl)).serveQueued
    cl q.asid q.va gen

/-- The four readings differed: the waiting operations take the dense path from one further reading (R273). -/
def State.compileDense (s : State) (cl : Nat) (q : Compile) (head : Nat) (bs : List Byte) : State :=
  q.waiting.foldl (fun s p => s.prismGive cl p head 0 2 0 (spCompile head bs) q.resumed) (s.compileOver cl)

/-- A memory access of the first compile was not performed: it waits under the fault path, or every waiting operation
ends (R393). None when nothing can be done now. -/
def State.compileErr (s : State) (cl : Nat) (q : Compile) (e : GErr) : Option State :=
  match e with
  | .abort va => some (s.compileEnds cl q.waiting 3 0x13 va true)
  | .cause c v => some (s.compileEnds cl q.waiting 3 c v true)
  | e =>
    (s.parkErr q.asid q.first.core q.first.handle e (.compile cl e.va)).map (·.modCompile cl fun k => { k with parked := true })

/-- The compile has its directory entry, of KIND 0 and busy, from its beginning (R396). -/
def State.compileSlot (s : State) (cl : Nat) (q : Compile) : State × Nat :=
  match q.slot with
  | some i => (s, i)
  | none =>
    let s := s.prismRoom cl (fun d => decide (d.length < 2048)) 2048
    let k := s.cluster cl
    let i := (firstFree (k.dir.map (·.1)) 2048 0).getD 0
    let e : PEnt := { asid := q.asid, va := q.va, gen := q.gen.getD 0, busy := true, used := k.clock }
    ((s.setCluster cl { k with clock := k.clock + 1, dir := Sparse.set {} k.dir i e }).modCompile cl fun k => { k with slot := some i }, i)

/-- An operation placed among others in the order of their arrival. -/
def insertTurn (p : PrismOp) : List PrismOp → List PrismOp
  | [] => [p]
  | x :: xs => if p.turn < x.turn then p :: x :: xs else x :: insertTurn p xs

/-- No lookup could read the identity of this compile of a record. -/
def Compile.unread (q : Compile) (asid va : Nat) : Bool := q.ident.isNone && q.asid == asid && q.va == va

/-- Of the compiles of a record, in the order of their first operations, the one of generation g and the one whose identity no lookup could
read are one, and what waits on either waits on it, in the order of arrival: no second compile of that identity begins (R387). -/
def uniteCompiles (asid va g : Nat) : List Compile → List Compile
  | [] => []
  | q :: qs =>
    let same (x : Compile) : Bool := x.asid == asid && x.va == va && (x.ident == none || x.ident == some g)
    if same q then
      { q with ident := some g, waiting := ((qs.filter same).flatMap (·.waiting)).foldl (fun ps p => insertTurn p ps) q.waiting } ::
        qs.filter (!same ·)
    else q :: uniteCompiles asid va g qs

/-- The first compile, if no lookup could read its identity, is one of generation g. -/
def State.compileTakes (s : State) (cl : Nat) (q : Compile) (g : Nat) : State × Compile :=
  if q.ident.isSome then (s, q)
  else
    let qs := uniteCompiles q.asid q.va g (s.cluster cl).compiles
    (s.setCluster cl { s.cluster cl with compiles := qs }, qs.headD q)

/-- A compile is taken from the queue, with its directory entry if it has begun. -/
def State.compileOut (s : State) (cl : Nat) (q : Compile) : State :=
  let k := s.cluster cl
  s.setCluster cl { k with
    compiles := k.compiles.filter (· != q)
    dir := if q.slot.isSome then Sparse.mapV {} (fun _ e => if e.kind = 0 then {} else e) k.dir else k.dir }

/-- PA and leaf of a record, for the Prism of a cluster; not before the writes to its page that come first for it are counted. -/
def State.prismTrans (s : State) (cl asid va : Nat) : State × Except GErr (Nat × Nat) :=
  if s.watchWaits asid va { core := prismCore cl } then (s, .error .busy)
  else s.gTransVia { turn := true, core := prismCore cl } asid va .read

/-- One reading of the generation and the record; the fourth restart goes on to the dense path. -/
def State.compileRecord (s : State) (cl : Nat) (q : Compile) : Option State :=
  let (s, i) := s.compileSlot cl q
  match s.prismTrans cl q.asid q.va with
  | (s, .error e) => s.compileErr cl q e
  | (s, .ok (_, leaf)) =>
    if !leafWatch leaf then
      some (q.waiting.foldl (fun s p =>
        let p := { p with resumed := p.resumed || q.resumed }
        (s.prismUnwatched cl p).getD (s.prismAgain cl p)) (s.compileOver cl))
    else
      let pg := leafPage q.va leaf
      let (s, g) := s.watchGen q.asid pg.1 pg.2
      let (s, q) := s.compileTakes cl q g
      let k := s.cluster cl
      let s := s.setCluster cl { k with dir := Sparse.set {} k.dir i { Sparse.get {} k.dir i with gen := g } }
      match (spFetch cl q.asid q.va).whole s with
      | (.ok (h, bs), s) =>
        if 4 ≤ q.tries then some (s.compileDense cl q h bs)
        else some (s.modCompile cl fun k => { k with gen := some g, got := some (h, bs), fail := none })
      | (.error (.fin code cause v recd), s) =>
        if 4 ≤ q.tries then some (s.compileEnds cl q.waiting code cause v recd)
        else some (s.modCompile cl fun k => { k with gen := some g, got := some (0, []), fail := some (cause, v, recd) })
      | (.error (.mem e), s) => s.compileErr cl q e
      | (.error .more, _) => none

/-- A compile whose identity no lookup could read, because the page did not translate, takes it from the first reading that can; the
entry may exist by then, and serves (R387, R392). -/
def State.compileFound (s : State) (cl : Nat) (q : Compile) : Option State :=
  if q.ident.isSome then none
  else match s.prismTrans cl q.asid q.va with
    | (s, .ok (_, leaf)) =>
      if !leafWatch leaf then none
      else
        let pg := leafPage q.va leaf
        let (s, g) := s.watchGen q.asid pg.1 pg.2
        ((s.cluster cl).entryOf q.asid q.va g).map fun e => (s.compileOver cl).entryServes cl e.1 e.2 q.waiting q.resumed
    | _ => none

/-- The first compile reads its record, unless the entry of its identity exists. -/
def State.compileReads (s : State) (cl : Nat) (q : Compile) : Option State :=
  (s.compileFound cl q).or (s.compileRecord cl q)

/-- The second reading of the generation, and what follows from it. -/
def State.compileChecks (s : State) (cl : Nat) (q : Compile) (h : Nat) (bs : List Byte) : Option State :=
  match s.prismTrans cl q.asid q.va with
  | (s, .error e) => s.compileErr cl q e
  | (s, .ok (_, leaf)) =>
    let pg := leafPage q.va leaf
    let (s, g) := s.watchGen q.asid pg.1 pg.2
    if !leafWatch leaf || q.gen != some g then
      some (s.modCompile cl fun k => { k with tries := k.tries + 1, gen := some g, got := none, fail := none })
    else match q.fail with
      | some (cause, v, recd) => some (s.compileEnds cl q.waiting 3 cause v recd)
      | none => some (s.compileMakes cl q g h bs)

/-- The first compile reads its record, or, once it has, reads the generation again and makes the entry or begins again (R273,
R392). -/
def State.compileStep (s : State) (cl : Nat) : State :=
  match (s.cluster cl).compiles with
  | [] => s
  | q :: _ =>
    if q.parked then s
    else match q.got with
      | none => (s.compileReads cl q).getD s
      | some (h, bs) => (s.compileChecks cl q h bs).getD s

/-- PRISM_COMPILE. -/
def execPrismCompile (cl : Nat) (s : State) : Out := .next (s.compileStep cl)

/-- An operation waits on a compile of its identity, which begins if none is under way (R387, R392). -/
def State.prismWait (s : State) (cl : Nat) (p : PrismOp) (gen : Option Nat) : State :=
  let k := s.cluster cl
  let p := { p with turn := k.clock }
  s.setCluster cl { k with
    clock := k.clock + 1
    compiles := match k.compiles.findIdx? fun q => q.asid == p.asid && q.va == p.va && q.ident == gen with
      | some n => k.compiles.modify n fun q => { q with waiting := q.waiting ++ [p] }
      | none => k.compiles ++ [{ asid := p.asid, va := p.va, ident := gen, gen := gen, first := p, waiting := [p] }] }

/-- A lookup has read generation g of a record, or that its page is not watched: so has every lookup before it that could not, and
what these brought is served first, or waits where operations of g wait (R387, R392). -/
def State.unreadFirst (s : State) (cl asid va : Nat) (gen : Option Nat) : State :=
  let k := s.cluster cl
  match k.compiles.find? (·.unread asid va), gen with
  | none, _ => s
  | some q, none =>
    q.waiting.foldl (fun s p => (s.prismUnwatched cl { p with resumed := p.resumed || q.resumed }).getD (s.prismAgain cl p)) (s.compileOut cl q)
  | some q, some g =>
    match k.entryOf asid va g with
    | some (i, e) => (s.compileOut cl q).entryServes cl i e q.waiting q.resumed
    | none => s.setCluster cl { k with compiles := uniteCompiles asid va g k.compiles }

/-- A lookup (R392). A page that does not translate yet is read by a compile, which waits under the fault path. None when the
lookup's turn at the slice has not come. -/
def State.prismServe (s : State) (cl : Nat) (p : PrismOp) : Option State :=
  match s.prismTrans cl p.asid p.va with
  | (s, .error (.fault ..)) => some (s.prismWait cl p none)
  | (s, .error (.behind ..)) => some (s.prismWait cl p none)
  | (_, .error .busy) => none
  | (s, .error (.abort v)) => some (s.prismEnd cl p 3 0x13 v true)
  | (s, .error (.cause c v)) => some (s.prismEnd cl p 3 c v true)
  | (s, .ok (_, leaf)) =>
    if !leafWatch leaf then (s.unreadFirst cl p.asid p.va none).prismUnwatched cl p
    else
      let pg := leafPage p.va leaf
      let (s, g) := s.watchGen p.asid pg.1 pg.2
      let s := s.unreadFirst cl p.asid p.va (some g)
      match (s.cluster cl).entryOf p.asid p.va g with
      | none => some (s.prismWait cl p (some g))
      | some (i, e) => some (s.entryServes cl i e [p] false)

/-- PRISM_SERVE: a TMMSP or an SPCOMP reaches its cluster's Prism. -/
def execPrismServe (k : Nat) (s : State) : Out :=
  match s.deliverable k with
  | some { dst := .prism cl, body := .prism p, .. } => .next (((s.dropMsg k).prismServe cl p).getD s)
  | _ => .next s

/-! ### Replies of the fault service (R393) -/

/-- RESUME: the compile goes on, with the access that was parked. -/
def State.compileResume (s : State) (cl : Nat) : State :=
  match (s.cluster cl).compiles with
  | q :: _ =>
    if q.parked then (s.modCompile cl fun q => { q with parked := false, resumed := true }).compileStep cl else s
  | [] => s

/-- RESUME for an SPCOMP whose record Prism reads. -/
def State.spcompResume (s : State) (cl : Nat) (p : PrismOp) : State :=
  let p := { p with resumed := true }
  (s.prismServe cl p).getD (s.prismAgain cl p)

/-- ABORT: every waiting operation ends with status 3 and the recorded trap 0x13. -/
def State.compileAbort (s : State) (cl va : Nat) : State :=
  match (s.cluster cl).compiles with
  | q :: _ => if q.parked then s.compileEnds cl q.waiting 3 0x13 va true else s
  | [] => s

/-! ### SPCOMP and SPINV -/

/-- SPCOMP (R274). -/
def opSpcomp (k : Ctx) (s : State) : Out :=
  run false k s fun s => checkGlobal s (k.vA s) 64 <| withRef k s fun r =>
    .next (((issued s r).send { src := .core s.cur, dst := .prism (clusterOf s.cur), chan := .request
                                body := .prism { core := s.cur, spcomp := true, asid := s.me.net.asid, va := k.vA s
                                                 epc := s.me.pl.pc, handle := s.me.pl.handle, ref := r } }).advance k.len)

/-- SPINV (R275). -/
def opSpinv (k : Ctx) (s : State) : Out :=
  run (k.m == 1) k s fun s =>
    let cl := clusterOf s.cur
    let hit (asid va : Nat) : Bool := k.m == 1 || (asid == s.me.net.asid && va == k.vA s)
    let c := s.cluster cl
    .next ((s.setCluster cl { c with
      dir := Sparse.mapV {} (fun _ e => if e.kind ≠ 0 ∧ hit e.asid e.va then {} else e) c.dir
      compiles := c.compiles.map fun q => if q.slot.isSome ∧ hit q.asid q.va then { q with dropped := true } else q }).advance k.len)

/-- SPCOMP (R274). -/
def execSpcomp (o : Ext) (s : State) : Out := opSpcomp (ctxX 0xD7 o) s

/-- SPINV (R275). -/
def execSpinv (o : W0) (s : State) : Out := opSpinv (ctxB 0xD8 o) s

end Sys2Proof.Machine
end

