-- ==== Sys2Proof/Machine/FrontEnd.lean ====
section
/-! DEFINITION. The front ends and their leader: acceptance (R13-R16, R447), which packet begins (R17, R74, R75), rejection,
failure and completion (R71-R73), NOPC, GATES, ARRIVE, WAITQ, SIGNAL, STAMP, FENCEC and CANCEL (R19, R20, R76-R83), the lease
(R87, R88), the host's accesses (R62, R63). -/

namespace Sys2Proof.Machine

/-! ### Packets (R13, R14, R19, R76) -/

def Packet.w (p : Packet) (i : Nat) : Nat := p.words.getD i 0
def Packet.seq (p : Packet) : Nat := bits (p.w 0) 15 0
def Packet.cmd (p : Packet) : Nat := bits (p.w 0) 23 16
def Packet.job (p : Packet) : Nat := bits (p.w 0) 63 48
/-- The image VA of a LOADW or a SWAP. -/
def Packet.image (p : Packet) : Nat := bits (p.w 1) 47 0
/-- A SWAP that restores. -/
def Packet.restores (p : Packet) : Bool := p.cmd == 6 && p.w 1 == 0 && p.w 6 != 0
/-- The region that a LOADW, GATES, ARRIVE or CANCEL names. -/
def Packet.regionId (p : Packet) : Nat := if p.cmd = 1 then bits (p.w 4) 7 0 else bits (p.w 1) 7 0
/-- The regions whose state the packet changes, 0xFF apart (R75). -/
def Packet.changes (p : Packet) : List Nat :=
  if p.cmd = 1 ∨ p.cmd = 2 ∨ p.cmd = 7 then [p.regionId].filter (· < 96)
  else if p.cmd = 6 then [bits (p.w 2) 15 8, bits (p.w 2) 7 0].filter (· < 96)
  else []

/-- The bits that words 1 to 7 may have set. -/
def Packet.masks (p : Packet) : List Nat :=
  match p.cmd with
  | 1 => if p.image = 0 then [ones 48, 0, 0, ones 8] else [ones 48, ones 64, ones 64, ones 8, ones 16]
  | 2 => [ones 9]
  | 3 => [ones 22, ones 64, ones 64, ones 64, ones 64]
  | 4 => [ones 12, ones 64]
  | 5 => [ones 48, ones 64]
  | 6 => [ones 48, ones 16, if p.restores then 0 else ones 16, ones 48, ones 40, ones 48]
  | 7 => [2 ^ 32 + ones 16 * 2 ^ 16 + ones 8]
  | 8 => [ones 3]
  | 9 => [ones 48]
  | _ => []

/-- A reserved bit or a reserved word is nonzero. -/
def Packet.reserved (p : Packet) : Bool :=
  bits (p.w 0) 47 24 != 0 || (List.range 7).any fun i => p.w (i + 1) != p.w (i + 1) &&& p.masks.getD i 0

/-! ### The leader (R86, R87) -/

/-- A leader acts on the queues: the module has started, and the firmware core that holds the lease runs and carries its
EPOCH. -/
def State.leads (s : State) : Bool :=
  let d := s.die s.fw.holder.toNat
  s.fw.ready && d.fwAlive && d.boot == 1 && d.fwEpoch == s.fw.epoch

/-- CAUSE of a read of the ring that was not performed: a translation fault ends as ABORT (R72, R345). -/
def GErr.frontCause : GErr → Nat
  | .cause c _ => c
  | _ => 0x13

/-! ### Acceptance (R15, R16, R447) -/

/-- QERR (R71). -/
def qerr (seq code phase core cause : Nat) : Word :=
  BitVec.ofNat 64 (seq * 2 ^ 48 + code * 2 ^ 40 + phase * 2 ^ 32 + core * 2 ^ 8 + cause)

/-- Packets accepted and not completed. -/
def HQueue.outstanding (h : HQueue) : Nat := h.accepted.length + (if h.exec.isSome then 1 else 0)
/-- The sequence number of the oldest of them; QSEQ when there is none. -/
def HQueue.oldest (h : HQueue) : Nat := (h.seq.toNat + 2 ^ 16 - h.outstanding) % 2 ^ 16
/-- The halt of R447, CODE 0x06 at PHASE 0: no packet was accepted. -/
def HQueue.unread (h : HQueue) : Bool := h.halt && bits h.err.toNat 47 32 == 0x600
/-- The VA of the ring slot of a sequence number. -/
def HQueue.slotVa (h : HQueue) (seq : Nat) : Nat := h.ring.toNat + 64 * (seq % h.size.toNat)

/-- The eight words of a packet. -/
def wordsOf (bs : List Byte) : List Nat := (List.range (bs.length / 8)).map fun i => leNat ((bs.drop (8 * i)).take 8)

/-- A header written into an occupied slot early (R18): what the queue's registers hold and which of its accepted packets are
left is undefined. The registers that the front end writes take free values and no accepted packet is left; the packet that
executes goes on; nothing outside the queue changes (a choice: assumption log, entry 19). -/
def State.spoilQueue (s : State) (q : Nat) : State :=
  let h := s.queue q
  let v (n : Nat) : Word := Config.freeValue (s.draws + n)
  { s with draws := s.draws + 4 }.setQueue q
    { h with seq := (v 0).setWidth 16, cmpl := v 1, err := v 2, halt := (v 3).getLsbD 0, accepted := [] }

/-- The queue executes a WAITQ that is blocked (R84). -/
def HQueue.waits (h : HQueue) : Bool :=
  match h.exec with
  | some x => x.pkt.cmd == 4 && !x.done
  | none => false

/-! ### Prefetch behind a blocked packet (R84) -/

/-- Bytes into the staging area of a die, 8 MiB, as whole words; nothing when they do not fit, and nothing after that. Where
they lie in it is a choice: the images one behind the other, in the leader's die (assumption log, entry 62). -/
def Die.stage (d : Die) (bs : List Byte) : Die :=
  let ws := wordsOf (bs ++ List.replicate 7 0)
  if d.staged + ws.length ≤ 2 ^ 20 then
    { d with
      staging := (ws.foldl (fun (m : Sparse Word × Nat) w => (Sparse.set 0 m.1 m.2 (BitVec.ofNat 64 w), m.2 + 1))
        (d.staging, d.staged)).1
      staged := d.staged + ws.length }
  else { d with staged := 2 ^ 20 }

/-- The image and ASID that a packet names for loading. -/
def Packet.names (p : Packet) : Option (Nat × Nat) :=
  if p.cmd = 1 ∧ p.image ≠ 0 then some (p.image, bits (p.w 5) 15 0)
  else if p.cmd = 6 ∧ p.image ≠ 0 then some (p.image, bits (p.w 3) 15 0)
  else none

/-- The regions that a SWAP names: its victim, 0xFF for none, and the incoming one. -/
def Packet.victim (p : Packet) : Nat := bits (p.w 2) 7 0
def Packet.incoming (p : Packet) : Nat := bits (p.w 2) 15 8

/-- The clusters that a LOADW names. -/
def Packet.clusters (p : Packet) : Nat := p.w 2 + 2 ^ 64 * bits (p.w 3) 31 0

/-- The clusters that a packet under way, a LOADW of an image or a SWAP that restores without a victim, holds before its region is loaded:
regions are disjoint (R22), so that a later packet meets them as it meets a loaded region's (a choice: R77, R79; assumption log, entry
86). -/
def State.claims (s : State) (e : Exec) : Nat :=
  if e.done then 0
  else if e.pkt.cmd = 1 ∧ e.pkt.image ≠ 0 then e.pkt.clusters
  else if e.pkt.restores ∧ e.pkt.victim = 0xFF then (s.region e.pkt.incoming).clusters
  else 0

/-- A cluster of a set lies in a loaded region, or in one that is being loaded. -/
def State.taken (s : State) (clusters : Nat) : Bool :=
  (s.regions.any fun r => r.2.state == 1 && (r.2.clusters &&& clusters) != 0) ||
    s.queues.any fun q => q.2.exec.any fun e => s.claims e &&& clusters != 0

/-- The whole lines of bytes at a VA, n of them at most, by line number. -/
def wholeLines (va n : Nat) (bs : List Byte) : Sparse (Option Line) :=
  let skip := (64 - va % 64) % 64
  (List.range (min n ((bs.length - skip) / 64))).map fun i =>
    ((va + skip) / 64 + i, some (lineOf ((bs.drop (skip + 64 * i)).take 64)))

/-- Code and constants, each with its VA, go into the caches of the clusters that a packet of queue q names, as far as the
caches hold them, if no weave is loaded there. -/
def State.pushImage (s : State) (q : Nat) (p : Packet) (code consts : Nat × List Byte) : State :=
  if p.cmd ≠ 1 ∨ s.taken p.clusters then s
  else
    let ic := wholeLines code.1 1024 code.2
    let cc := wholeLines consts.1 256 consts.2
    ((setBits 96 p.clusters).flatMap coresOf).foldl (fun s c =>
      s.modCore c (·.modPl fun l => { l with icache := ic, ccache := cc, pushed := some (q, p.seq) })) s

/-- The caches hold nothing any more for the packet of queue q with that sequence number. -/
def State.unpush (s : State) (q seq : Nat) : State :=
  { s with cores := Sparse.mapV {} (fun _ k =>
      if k.pl.pushed = some (q, seq) then k.modPl fun l => { l with icache := [], ccache := [], pushed := none } else k) s.cores }

/-- A section of an image, if it can be read; its bytes are staged. -/
def State.stageSection (s : State) (asid va n : Nat) : State × List Byte :=
  match s.peekRead asid va n with
  | some bs => (s.setDie s.fw.holder.toNat ((s.die s.fw.holder.toNat).stage bs), bs)
  | none => (s, [])

/-- Code and constants of the image that a packet of queue q names go to the leader's staging area, and into the caches of
its clusters. The reads change nothing. -/
def State.stageImage (s : State) (q : Nat) (p : Packet) : State :=
  match p.names with
  | none => s
  | some (va, asid) =>
    match s.peekRead asid va 64 with
    | none => s
    | some bs =>
      let ws := wordsOf bs
      let at_ (i : Nat) : Nat × Nat := (va + bits (ws.getD i 0) 31 0, bits (ws.getD i 0) 63 32)
      if bits (ws.getD 0 0) 31 0 ≠ 0x56414557 ∨ 2 ^ 20 ≤ (s.die s.fw.holder.toNat).staged then s
      else
        let (s, code) := s.stageSection asid (at_ 1).1 (at_ 1).2
        let (s, consts) := s.stageSection asid (at_ 4).1 (at_ 4).2
        s.pushImage q p ((at_ 1).1, code) ((at_ 4).1, consts)

/-- PACKET_ACCEPT: the ring slot that QSEQ names is examined, when its line's turn has come (R332). All eight words are
taken now, so a body rewritten later is never seen (a choice: R16; assumption log, entry 63). A slot that cannot be read halts the queue whether or not it is halted
already, and QERR then names the slot (a choice: R447; assumption log, entry 64). A header found in a slot whose packet has not
completed was written early (R18). -/
def execPacketAccept (q : Nat) (s : State) : Out :=
  let h := s.queue q
  if !(s.leads && h.en) || h.unread then .next s
  else match s.gRead h.asid.toNat (h.slotVa h.seq.toNat) 64 { turn := true, front := true, own := true } with
    | (_, .error .busy) => .next s
    | (s, .error e) => .next (s.setQueue q { h with halt := true, err := qerr h.seq.toNat 0x06 0 0 e.frontCause })
    | (s, .ok bs) =>
      let p : Packet := { words := wordsOf bs, since := s.cycles }
      if p.seq ≠ h.seq.toNat then .next s
      else if h.size.toNat ≤ h.outstanding then .next (s.spoilQueue q)
      else
        let s := (s.unpush q p.seq).setQueue q { h with accepted := h.accepted ++ [p], seq := h.seq + 1 }
        .next (if h.waits && decide (h.accepted.length < 8) then s.stageImage q p else s)

/-! ### Which packet begins (R17, R74, R75) -/

/-- An ARRIVE for region i is on its way to the region's ingress, where it has not come yet; one whose spill waits for room does not
count for a restore. -/
def State.arriveOnWay (s : State) (i : Nat) (restore : Bool) : Bool :=
  s.msgs.any fun m => m.src == .frontEnd && m.region == some i && m.body.isArrival && !m.landed &&
    !(restore && match (s.region i).save, m.dst with
      | some v, .core c => decide (8192 ≤ (v.msgs.filter fun e => match e.dst with
          | .core d => clusterOf d == clusterOf c
          | _ => false).length)
      | _, _ => false)

/-- The packet must wait: for a command that changes the state of its region, for free blocks (R48, R75), or for one of the 256
places. -/
def State.blocked (s : State) (p : Packet) : Bool :=
  (if p.cmd = 3 then decide (p.regionId < 96) && ((s.region p.regionId).busy.isSome || (s.region p.regionId).throttle != [])
   else p.changes.any fun i => (s.region i).busy.isSome) ||
  (p.cmd != 4 &&
    decide (256 ≤ (s.queues.filter fun e => match e.2.exec with | some x => x.pkt.cmd != 4 | none => false).length))

/-- The command, which has begun, must wait to take effect: for ARRIVEs that began before it (R75). -/
def State.behindArrive (s : State) (p : Packet) : Bool := p.changes.any fun i => s.arriveOnWay i p.restores

/-- The next packet of a queue, if it may begin. -/
def State.ready (s : State) (h : HQueue) : Option Packet :=
  match h.exec, h.halt, h.accepted with
  | none, false, p :: _ => if s.blocked p then none else some p
  | _, _, _ => none

/-- The priority at which it begins. -/
def HQueue.level (h : HQueue) (p : Packet) : Nat := if p.urgent then 3 else h.prio.toNat

/-- The queue that the leader serves next: the highest priority, round-robin within it. -/
def State.pick (s : State) : Option (Nat × Packet) :=
  let rs := s.queues.filterMap fun e => (s.ready e.2).map fun p => (e.1, e.2.level p, p)
  let top := rs.foldl (fun m e => max m e.2.1) 0
  let ts := rs.filter fun e => e.2.1 == top
  let last := Sparse.get 4095 s.fw.rr top
  ((ts.find? fun e => decide (last < e.1)).or ts.head?).map fun e => (e.1, e.2.2)

/-- The packet of queue q that begins now. -/
def State.beginning (s : State) (q : Nat) : Option Packet :=
  if !s.leads then none
  else match s.pick with
    | some (x, p) => if x = q then some p else none
    | none => none

/-- PACKET_AGING: 200 µs, or 800,000 core cycles, of waiting make a packet urgent (R74). -/
def execPacketAging (q : Nat) (s : State) : Out :=
  let h := s.queue q
  match h.exec, h.accepted with
  | none, p :: ps =>
    if s.cycles < p.since + 800000 then .next s
    else .next (s.setQueue q { h with accepted := { p with urgent := true } :: ps })
  | _, _ => .next s

/-! ### Beginning, halting and completing (R71, R72) -/

def State.modExec (s : State) (q : Nat) (f : Exec → Exec) : State :=
  let h := s.queue q
  s.setQueue q { h with exec := h.exec.map f }

/-- No region is held by queue q any more. -/
def State.unbusy (s : State) (q : Nat) : State :=
  { s with regions := Sparse.mapV {} (fun _ r => if r.busy = some q then { r with busy := none } else r) s.regions }

/-- The packet leaves the queue and executes; the regions whose state it changes are held. -/
def State.start (s : State) (q : Nat) (p : Packet) : State :=
  let h := s.queue q
  let s := s.setQueue q { h with accepted := h.accepted.drop 1, exec := some { pkt := p } }
  let s := { s with fw := { s.fw with rr := Sparse.set 4095 s.fw.rr (h.level p) q } }
  p.changes.foldl (fun s i => s.setRegion i { s.region i with busy := some q }) s

/-- The queue halts on a packet that has not begun. -/
def State.reject (s : State) (q : Nat) (p : Packet) (code : Nat) : State :=
  s.setQueue q { s.queue q with halt := true, err := qerr p.seq code 0 0 0 }

/-- The packet that executes fails: the queue halts, the packet is its next again. -/
def State.failPacket (s : State) (q code phase core cause : Nat) : State :=
  let h := s.queue q
  match h.exec with
  | none => s
  | some e =>
    (s.setQueue q { h with
      halt := true, exec := none, accepted := { e.pkt with urgent := false } :: h.accepted
      err := qerr e.pkt.seq code phase core cause }).unbusy q

/-- The packet that executes completes; the wait of the next one begins. -/
def State.completePacket (s : State) (q : Nat) : State :=
  let h := s.queue q
  (s.setQueue q { h with
    exec := none, cmpl := h.cmpl + 1
    accepted := match h.accepted with
      | p :: ps => { p with since := s.cycles } :: ps
      | [] => [] }).unbusy q

/-- The first rejection rule that applies, in the order of R72. -/
def Packet.refused (p : Packet) (check : Option Nat) : Option Nat :=
  if 9 < p.cmd then some 0x02 else if p.reserved then some 0x01 else check

/-- A command event: the packet of queue q begins, if it has the command's form and its turn has come, and acts, unless ARRIVEs
that began before it are on their way; a packet that has to act anew does so: one that has waited (R75, R345), one that a new
leader begins again (R88). -/
def command (q : Nat) (form : Packet → Bool) (check : State → Nat → Packet → Option Nat)
    (act : State → Nat → Packet → State) (s : State) : Out :=
  match (s.queue q).exec with
  | some e =>
    if s.leads && e.again && !e.parked && form e.pkt && !s.behindArrive e.pkt then
      .next (act (s.modExec q fun e => { e with again := false }) q e.pkt)
    else .next s
  | none =>
    match s.beginning q with
    | none => .next s
    | some p =>
      if !form p then .next s
      else match p.refused (check s q p) with
        | some code => .next (s.reject q p code)
        | none =>
          .next (if s.behindArrive p then (s.start q p).modExec q fun e => { e with again := true } else act (s.start q p) q p)

/-! ### Accesses that a packet makes (R72, R345) -/

/-- The packet that executes fails at the PHASE it has come to, CODE 0x06. -/
def State.failAt (s : State) (q cause : Nat) : State :=
  s.failPacket q 0x06 (((s.queue q).exec.map (·.phase)).getD 0) 0 cause

/-- What stopped an access of the packet of queue q: a translation fault parks it, with CORE 0xFFF and HANDLE 0 in its record (a
choice for CORE: assumption log, entry 26); without room or its turn it waits; anything else does what `fail` says of its CAUSE.
When it goes on, the packet acts anew where `anew` says so. -/
def State.packetErr (s : State) (q asid : Nat) (e : GErr) (anew : Bool) (fail : State → Nat → State) : State :=
  match e with
  | .abort _ => fail s 0x13
  | .cause c _ => fail s c
  | .busy => s.modExec q fun x => { x with again := anew }
  | .fault va .. | .behind va _ =>
    let seq := (((s.queue q).exec.map (·.pkt.seq)).getD 0)
    match s.parkErr asid 0xFFF 0 e (.packet q seq va (e.stamp s ((s.queue q).exec.bind (·.order)))) with
    | some s => s.modExec q fun x => { x with again := anew, parked := true, order := none }
    | none => s.modExec q fun x => { x with again := anew }

/-- The packet that queue q executes has this sequence number and an access of it is parked. -/
def State.isParked (s : State) (q seq : Nat) : Bool :=
  match (s.queue q).exec with
  | some e => e.parked && e.pkt.seq == seq
  | none => false

/-- A piece of an access of the packet of queue q, unless it is performed already: it is made once (R347). -/
def State.packetPiece (s : State) (q va : Nat) (f : State → State × Except GErr (List Byte)) : State × Except GErr (List Byte) :=
  match ((s.queue q).exec.map (·.got)).bind (·.lookup va) with
  | some bs => (s, .ok bs)
  | none =>
    match f s with
    | (s, .error e) => (s, .error e)
    | (s, .ok bs) => (s.modExec q fun e => { e with got := (va, bs) :: e.got }, .ok bs)

/-- The pieces of a read of a packet, each in its turn at the slices. -/
def State.packetPieces (s : State) (q asid : Nat) : List (Nat × Nat) → State × Except GErr (List Byte)
  | [] => (s, .ok [])
  | (va, n) :: ps =>
    match s.packetPiece q va fun s => s.gReadPiece asid va n .read { turn := true, front := true } with
    | (s, .error e) => (s, .error e)
    | (s, .ok bs) =>
      match State.packetPieces s q asid ps with
      | (s, .error e) => (s, .error e)
      | (s, .ok more) => (s, .ok (bs ++ more))

/-- n bytes at a VA read for the packet of queue q. -/
def State.packetRead (s : State) (q asid va n : Nat) : State × Except GErr (List Byte) :=
  s.packetPieces q asid (linePieces (n / 64 + 2) va n)

/-- A piece written for the packet of queue q. -/
def State.packetStore (s : State) (q asid va : Nat) (bs : List Byte) : State × Except GErr (List Byte) :=
  let via : Via := { turn := true, front := true, order := (s.queue q).exec.bind (·.order) }
  s.packetPiece q va fun s => match s.gWritePiece asid va bs via with
    | (s, .error e) => (s, .error e)
    | (s, .ok ()) => (s.modExec q fun e => { e with order := none }, .ok [])

/-! ### NOPC, WAITQ, SIGNAL, STAMP, FENCEC -/

/-- NOPC. -/
def execNopc (q : Nat) (s : State) : Out :=
  command q (fun p => p.cmd == 0) (fun _ _ _ => none) (fun s q _ => s.packetDone q) s

/-- Bytes written at a VA that a packet names, line by line; PHASE tells whether some were (R71). -/
def State.packetWrite (s : State) (q : Nat) (bs : List Byte) : List (Nat × Nat) → State
  | [] => s.packetDone q
  | (a, n) :: ps =>
    let asid := (s.queue q).asid.toNat
    match s.packetStore q asid a (bs.take n) with
    | (s, .error e) => s.packetErr q asid e true fun s c => s.failAt q c
    | (s, .ok _) => State.packetWrite (s.modExec q fun e => { e with phase := 2 }) q (bs.drop n) ps

/-- A word written at a VA that a packet names. -/
def State.packetWord (s : State) (q va v : Nat) : State :=
  (s.modExec q fun e => { e with phase := max e.phase 1 }).packetWrite q (natLE 8 v) (linePieces 3 va 8)

/-- What a SIGNAL does. -/
def State.signalAct (s : State) (q : Nat) (p : Packet) : State := s.packetWord q (p.w 1) (p.w 2)

/-- What a STAMP does: it writes FETIME of the leader's front end as it stood when the packet began. -/
def State.stampAct (s : State) (q : Nat) (p : Packet) : State :=
  let s := s.modExec q fun e => if e.phase = 0 then { e with stamp := s.fetime s.fw.holder.toNat % 2 ^ 64, phase := 1 } else e
  s.packetWord q (p.w 1) (((s.queue q).exec.map (·.stamp)).getD 0)

/-- SIGNAL. -/
def execSignal (q : Nat) (s : State) : Out :=
  command q (fun p => p.cmd == 5) (fun _ _ _ => none) State.signalAct s

/-- STAMP. -/
def execStamp (q : Nat) (s : State) : Out :=
  command q (fun p => p.cmd == 9) (fun _ _ p => if p.w 1 % 8 = 0 then none else some 0x03) State.stampAct s

/-- The cores that hold journals: those with a weave, and those in saves, each with a key of its own. -/
def State.journals (s : State) : List (Nat × Core) :=
  (s.cores.map fun e => (4096 * (e.2.net.region.getD 127) + e.1, e.2)) ++
    s.regions.flatMap fun r => match r.2.save with
      | some v => v.cores.map fun e => (4096 * r.1 + e.1, e.2)
      | none => []

/-- The mark that a FENCEC sets on the bank operations it waits for: no core has such a number. -/
def fenceMark (q seq : Nat) : Nat × Nat := (8192 + q, seq)

/-- The write of a piece or of a packet is parked. -/
def Parked.isWrite : Parked → Bool
  | .piece _ _ _ _ _ w _ => w.isSome
  | .packet _ _ _ w => w.isSome
  | _ => false

/-- What is parked, whenever it was, and whatever its unit has read before it. -/
def Parked.bare : Parked → Parked
  | .piece c g id r va w _ => .piece c g id r va (w.map fun _ => 0) []
  | .packet q seq va w => .packet q seq va (w.map fun _ => 0)
  | p => p

/-- Every write that is parked at a slice, but for accesses of threadlets. -/
def State.parkedWrites (s : State) : List Parked :=
  s.slices.flatMap fun e => e.2.faults.flatMap fun f => (f.parked.filter (·.isWrite)).map (·.bare)

/-- FENCEC: what was issued by now is what it waits for: the posted stores, by their journals; bank operations, by their marks; the shape
cache's writes, by their operations' numbers; parked pieces. What else the front ends and the engines write is performed as they write
it. -/
def execFencec (q : Nat) (s : State) : Out :=
  command q (fun p => p.cmd == 8) (fun _ _ p => if p.w 1 = 5 ∨ p.w 1 = 6 then none else some 0x03)
    (fun s q p => (s.mapAccess fun a => if a.kind.isBank then { a with marks := a.marks ++ [fenceMark q p.seq] } else a).modExec q
      fun e => { e with fence := s.journals.map fun k => (k.1, k.2.net.ord, k.2.eng.nextId), fenceParked := s.parkedWrites }) s

/-- Every write that the FENCEC of queue q covers has been performed at its scope; STN is excluded. -/
def State.fenceDone (s : State) (q : Nat) (e : Exec) : Bool :=
  (s.journals.all fun k =>
    match e.fence.lookup k.1 with
    | none => true
    | some (ord, id) => (k.2.net.journal.all fun j => !j.2.leads ord (e.pkt.w 1)) &&
      k.2.eng.shape.all fun o => !(o.opc == 0xE2 && decide (o.id < id))) &&
  (!s.anyAccess fun a => a.marks.contains (fenceMark q e.pkt.seq)) && s.parkedWrites.all fun p => !e.fenceParked.contains p

/-! ### WAITQ (R84) -/

/-- WAITQ: what is behind a packet that blocks is prefetched. -/
def execWaitq (q : Nat) (s : State) : Out :=
  command q (fun p => p.cmd == 4)
    (fun s q p => if p.w 1 = q ∧ (s.queue q).cmpl.toNat < p.w 2 then some 0x03 else none)
    (fun s q p =>
      if p.w 2 ≤ (s.queue (p.w 1)).cmpl.toNat then s.packetDone q
      else ((s.queue q).accepted.take 8).foldl (fun s p => s.stageImage q p) s) s

/-- The staging area is empty again once no WAITQ is blocked (a choice: assumption log, entry 62). -/
def State.unstage (s : State) : State :=
  if s.queues.any fun e => match e.2.exec with | some x => x.pkt.cmd == 4 | none => false then s
  else
    let die := s.fw.holder.toNat
    s.setDie die { s.die die with staging := [], staged := 0 }

/-! ### GATES and ARRIVE -/

/-- Region i is loaded. -/
def State.loaded (s : State) (i : Nat) : Bool := decide (i < 96) && (s.region i).state == 1

/-- The messages of an ingress buffer are delivered in their order, up to one that its core cannot take now. -/
def State.openIngress (s : State) : List Msg → State × List Msg
  | [] => (s, [])
  | m :: ms =>
    let c := m.core.getD 0
    match (match m.body with | .enq .. => s.placeEntry c m | _ => s.deliver c m) with
    | some s => State.openIngress s ms
    | none => (s, m :: ms)

/-- The ingress buffer of a cluster delivers what it can, if the gates of the region that holds the cluster are open. What it
cannot deliver yet stays ahead of every later message for the cluster (R55). -/
def State.drainIngress (s : State) (cl : Nat) : State :=
  let k := s.cluster cl
  if k.ingress.all fun m => m.region.any fun i => (s.region i).gates then
    let (s, rest) := (s.setCluster cl { k with ingress := [] }).openIngress k.ingress
    s.setCluster cl { s.cluster cl with ingress := rest }
  else s

/-- The gates of region i open (R20, R55). -/
def State.openGates (s : State) (i : Nat) : State :=
  let r := s.region i
  r.clusterList.foldl State.drainIngress (s.setRegion i { r with gates := true })

def gatesCheck (s : State) (_ : Nat) (p : Packet) : Option Nat := if s.loaded p.regionId then none else some 0x04

/-- GATES, open. -/
def execGatesOpen (q : Nat) (s : State) : Out :=
  command q (fun p => p.cmd == 2 && (p.w 1).testBit 8) gatesCheck
    (fun s q p => (s.openGates p.regionId).packetDone q) s

/-- GATES, close. -/
def execGatesClose (q : Nat) (s : State) : Out :=
  command q (fun p => p.cmd == 2 && !(p.w 1).testBit 8) gatesCheck
    (fun s q p => (s.setRegion p.regionId { s.region p.regionId with gates := false }).packetDone q) s

/-- The handle of a root; in a swapped-out region, that which it will have when the cancels recorded there have been applied
(R82, R83). -/
def Region.root (r : Region) (n : Nat) : Nat :=
  let h := r.roots.getD n 0
  match if r.state = 2 then r.save else none with
  | none => h
  | some v =>
    match v.cores.find? fun e => e.1 == handleCore h with
    | none => h
    | some (_, k) =>
      let e := k.frame (handleFix h)
      if v.cancels.contains (handleCore h, e.job) then mkHandle (handleCore h) (handleFix h) (if e.gen = 255 then 1 else e.gen + 1) else h

/-- ARRIVE. PHASE is 2 from the moment its message is sent (a choice: R71; assumption log, entry 65). -/
def execArrive (q : Nat) (s : State) : Out :=
  command q (fun p => p.cmd == 3)
    (fun s _ p =>
      let r := s.region p.regionId
      let n := bits (p.w 1) 18 16
      let free := decide (96 ≤ p.regionId) || r.state == 0
      if 4 < n ∨ ((List.range 4).any fun i => decide (n ≤ i) && p.w (2 + i) != 0) ∨
          (!free && decide (r.roots.length ≤ bits (p.w 1) 15 8)) then some 0x03
      else if free then some 0x04
      else none)
    (fun s q p =>
      let i := p.regionId
      let r := s.region i
      if p.job ≠ 0 ∧ r.cjobs.contains p.job then s.packetDone q
      else
        let h := r.root (bits (p.w 1) 15 8)
        (s.modExec q fun e => { e with phase := 2 }).send
          { src := .frontEnd, dst := .core (handleCore h), chan := .signal, region := some i, outside := true
            body := .arrival {
              handle := h, slot := bits (p.w 1) 21 19, n := 1
              deposits := (List.range (bits (p.w 1) 18 16)).map fun n => (32 + 8 * n, p.w (2 + n))
              region := some i, queue := some q, job := p.job } }) s

/-! ### CANCEL (R82) -/

def cancelJob (p : Packet) : Nat := bits (p.w 1) 31 16

def cancelCheck (s : State) (_ : Nat) (p : Packet) : Option Nat :=
  let r := s.region p.regionId
  if cancelJob p = 0 ∨ 96 ≤ p.regionId then some 0x03
  else if r.state = 0 then some 0x04
  else if !(p.w 1).testBit 32 && r.cancelFull (cancelJob p) then some 0x08
  else none

/-- CANCEL with CLR = 0. -/
def execCancel (q : Nat) (s : State) : Out :=
  command q (fun p => p.cmd == 7 && !(p.w 1).testBit 32) cancelCheck
    (fun s q p =>
      let i := p.regionId
      let r := s.region i
      let job := cancelJob p
      if r.cancelFull job then s.failPacket q 0x08 0 0 0
      else match if r.state = 2 then r.save else none with
      | none => ((s.modExec q fun e => { e with phase := 2 }).startCancel i job none (some q)).1
      | some v =>
        (s.setRegion i { r with
          cjobs := if r.cjobs.contains job then r.cjobs else r.cjobs ++ [job]
          save := some { v with cancels := v.cancels ++ r.cores.map fun c => (c, job) } }).packetDone q) s

/-- The cores no longer refuse the job: a later cancel of it has to be acknowledged anew. -/
def FrameEng.allow (f : FrameEng) (job : Nat) : FrameEng := { f with cancelled := f.cancelled.filter (· != job) }

/-- CANCEL with CLR = 1. The job that leaves the set is cancelled no more, and no core refuses it any more (a choice:
assumption log, entry 59). -/
def execCancelClr (q : Nat) (s : State) : Out :=
  command q (fun p => p.cmd == 7 && (p.w 1).testBit 32) cancelCheck
    (fun s q p =>
      let r := s.region p.regionId
      let job := cancelJob p
      let s := s.setRegion p.regionId { r with
        cjobs := r.cjobs.filter (· != job)
        save := r.save.map fun v => { v with cores := v.cores.map fun e => (e.1, e.2.modFe (·.allow job)) } }
      (((r.cores.filter fun c => s.regionOf c = some p.regionId).foldl (fun s c => s.modCore c (·.modFe (·.allow job)))
        s).packetDone q)) s

/-! ### The lease (R87, R88) -/

/-- FETIME[47:0] of a die has reached x, modulo 2^48. -/
def State.reached (s : State) (die x : Nat) : Bool := decide ((s.fetime die + 2 ^ 48 - x % 2 ^ 48) % 2 ^ 48 < 2 ^ 47)

/-- The firmware core of a die runs verified firmware. -/
def State.fwRuns (s : State) (die : Nat) : Bool := (s.die die).fwAlive && (s.die die).boot == 1

def State.setExpiry (s : State) (die : Nat) : State :=
  { s with fw := { s.fw with expiry := BitVec.ofNat 48 (s.fetime die + 4000000) } }

/-- LEASE_RENEW: 1,000,000 front-end cycles after the last renewal. -/
def execLeaseRenew (die : Nat) (s : State) : Out :=
  if s.fw.ready ∧ s.fw.holder.toNat = die ∧ s.fwRuns die ∧ s.reached die (s.fw.expiry.toNat + 2 ^ 48 - 3000000) then
    .next (s.setExpiry die)
  else .next s

/-- The effect of queue q's packet is reported to it no more. -/
def Msg.detach (q : Nat) (m : Msg) : Msg :=
  match m.body with
  | .arrival a => if a.queue = some q then { m with body := .arrival { a with queue := none } } else m
  | _ => m

def FrameEng.detach (q : Nat) (f : FrameEng) : FrameEng :=
  { f with pending := f.pending.map (·.detach q), held := f.held.map (·.detach q), released := f.released.map (·.detach q) }

/-- Whatever queue q's packet has set going goes on without it. -/
def State.detach (s : State) (q : Nat) : State :=
  { s with
    msgs := s.msgs.map (·.detach q)
    cores := Sparse.mapV {} (fun _ k => k.modFe (·.detach q)) s.cores
    clusters := Sparse.mapV {} (fun _ k => { k with ingress := k.ingress.map (·.detach q) }) s.clusters
    regions := Sparse.mapV {} (fun _ r => { r with
      cancels := r.cancels.map fun o => if o.queue = some q then { o with queue := none } else o
      save := r.save.map fun v => { v with
        msgs := v.msgs.map (·.detach q), cores := v.cores.map fun e => (e.1, e.2.modFe (·.detach q)) } }) s.regions }

/-- What a new leader does with the packet of one queue that the former one had begun. -/
def State.takeOver (s : State) (q : Nat) : State :=
  match (s.queue q).exec with
  | none => s
  | some e =>
    if [0, 2, 4, 5, 8, 9].contains e.pkt.cmd then s.modExec q fun e => { e with again := true, done := false, parked := false, got := [] }
    else (s.detach q).failPacket q 0x09 e.phase 0 0

/-- Start-up has come to the election (R89). -/
def State.startedUp (s : State) : Bool :=
  decide (s.fw.powered = 96) && decide (s.fw.trained = 12) && (List.range 4).all fun i => (s.die i).boot != 0

/-- LEASE_CHECK: a follower that finds the lease lapsed takes it. The first leader resets the queue table and the module is
ready (R89). -/
def execLeaseCheck (die : Nat) (s : State) : Out :=
  if !s.fwRuns die || !s.reached die s.fw.expiry.toNat || !s.startedUp || (s.fw.ready && s.fw.holder.toNat == die) then .next s
  else
    let first := !s.fw.ready
    let s := { s with fw := { s.fw with holder := BitVec.ofNat 2 die, epoch := s.fw.epoch + 1, ready := true } }.setExpiry die
    let s := s.setDie die { s.die die with fwEpoch := s.fw.epoch }
    if first then .next { s with queues := [] }
    else .next ((s.queues.map (·.1)).foldl State.takeOver s)

/-! ### The host's accesses (R62, R63, R18) -/

/-- A write of the host that puts a header into the ring slot of a packet that is accepted and has not completed: the header of
the packet that is to follow it there (R18). Judged when the host issues it, through the queue's own ASID and ring, while EN = 1; an
early header that comes otherwise has what R15 says (a choice: assumption log, entry 19). -/
def HQueue.early (h : HQueue) (asid va : Nat) (bs : List Byte) : Bool :=
  h.en && h.asid.toNat == asid &&
    (List.range h.size.toNat).any fun n =>
      let at_ := h.ring.toNat + 64 * n
      decide (va ≤ at_) && decide (at_ + 2 ≤ va + bs.length) &&
        (let w := leNat ((bs.drop (at_ - va)).take 2)
         decide (w % h.size.toNat = n) && decide ((w + 2 ^ 16 - h.size.toNat + 2 ^ 16 - h.oldest) % 2 ^ 16 < h.outstanding))

/-- One piece of an access of the host, within one line. -/
def State.hostPiece (s : State) (write : Bool) (addr : Nat) (bs : List Byte) : State :=
  match findWindow s.port.inWin (fun w => bits w.w0.toNat 63 12 * 4096) addr with
  | none => if write then s.logError 1 addr else (s.logError 1 addr).hostAnswer (List.replicate bs.length 0xFF)
  | some w =>
    let va := bits w.w1.toNat 47 0 + addr % winSize w
    let asid := bits w.w2.toNat 15 0
    let spoilt := if write then s.queues.filter (fun e => e.2.early asid va bs) else []
    let s := { s with port := { s.port with issued := s.port.issued + 1 } }.send
      { src := .host, dst := .slice (homeSlice va), chan := .request
        body := .access {
          kind := if write then .hostWrite else .hostRead
          core := 0xFFF, va := va, size := bs.length, asid := asid, data := if write then bs else []
          tag := s.port.issued } }
    spoilt.foldl (fun s e => s.spoilQueue e.1) s

/-- An access of the host, line by line: each line is an access of its own, with an event of its own when it lies outside every window
or ends as ABORT, and a read is answered by a list of bytes for each (a choice: R62, R67; assumption log, entry 79). -/
def State.hostPieces (s : State) (write : Bool) (bs : List Byte) : List (Nat × Nat) → State
  | [] => s
  | (a, n) :: ps => State.hostPieces (s.hostPiece write a (bs.take n)) write (bs.drop n) ps

/-- HOST_WINDOW_ACCESS: a read gives as many bytes as `bytes` has. -/
def execHostWindowAccess (write : Bool) (addr : Nat) (bytes : List Byte) (s : State) : Out :=
  .next (s.hostPieces write bytes (linePieces (bytes.length / 64 + 2) addr bytes.length))

end Sys2Proof.Machine
end

