-- ==== Sys2Proof/Machine/Loading.lean ====
section
/-! DEFINITION. Weave images (R21-R25, R131, R132), LOADW and what it leaves of a core (R20, R26, R27, R77), unloading and
discarding a region (R77). -/

namespace Sys2Proof.Machine

/-! ### Images -/

/-- Why an image does not load: a read was not performed; malformed, with CORE of QERR. -/
inductive ImageErr where
  | unread (e : GErr)
  | malformed (core : Nat)
  deriving DecidableEq, Repr

/-- Sections (offset, size in bytes) lie in order behind the header, each aligned, within the image (R131). -/
def sectionsOk (imgsz : Nat) : Nat → List (Nat × Nat) → Bool
  | _, [] => true
  | pos, (off, n) :: rest =>
    aligned off 64 && decide (pos ≤ off) && decide (off + n ≤ imgsz) && sectionsOk imgsz (off + n) rest

/-- The five sections that a header names: code, table, templates, constants, placement map. -/
def imageSections (h : List Nat) : List (Nat × Nat) :=
  let at_ (i : Nat) := bits (h.getD i 0) 31 0
  let n (i : Nat) := bits (h.getD i 0) 63 32
  [(at_ 1, n 1), (at_ 2, 8 * n 2), (at_ 3, 256 * n 3), (at_ 4, n 4), (at_ 5, n 5)]

/-- A header that R131 accepts. -/
def headerOk (h : List Nat) : Bool :=
  let w (i : Nat) := h.getD i 0
  w 0 == 2 ^ 32 + 0x56414557 && aligned (bits (w 1) 63 32) 4 && decide (1 ≤ bits (w 2) 63 32) &&
    decide (bits (w 2) 63 32 ≤ 4096) && decide (bits (w 3) 63 32 ≤ 256) && bits (w 6) 63 32 == 0 && w 7 == 0 &&
    sectionsOk (bits (w 6) 31 0) 64 (imageSections h)

/-- A threadlet entry that R24 accepts. -/
def entryOk (codesz tplcnt e : Nat) : Bool :=
  let d := bits e 47 40
  bits e 63 48 == 0 && bits e 39 34 == 0 && aligned (bits e 31 0) 4 && decide (bits e 31 0 < codesz) &&
    (decide (d < tplcnt) || (tplcnt == 0 && d == 0))

/-- A template that R25 accepts. -/
def templateOk (tlcnt : Nat) (t : List Byte) : Bool :=
  (List.range 8).all fun n =>
    let w := leNat ((t.drop (4 * n)).take 4)
    !w.testBit 31 && ((slotCount w == 0 && !slotAuto w) || decide (slotTix w < tlcnt))

/-- A core record, n-th in order, that R132 and R42 accept: the pool within scratchpad and apart from the deque, values
that their registers can hold. -/
def recordAt (n : Nat) (w : List Nat) : Bool :=
  let x (i : Nat) := w.getD i 0
  x 0 == n / 24 * 32 + n % 24 && x 7 == 0 && poolOk (x 1) (x 2) && decide (x 2 ≤ 0x100000) &&
    decide (x 3 < 2 ^ 20) && decide (x 4 < 2 ^ 21) && decide (x 5 < 2 ^ 48) && decide (x 6 < 2 ^ 48) &&
    !(decide (x 3 < x 4) && decide (x 3 < x 2) && decide (x 1 < x 4))

/-- The core of relative cluster rel; 0 when the cluster does not exist. -/
def relCore (clusters : List Nat) (rel core : Nat) : Nat :=
  match clusters[rel]? with
  | some p => coreOf p core
  | none => 0

/-- The roots, in order, that a map places; the first that R132 refuses. -/
def placeRoots (clusters : List Nat) (tplcnt : Nat) (records : List (List Nat)) :
    List Nat → List (Nat × Nat) → Except ImageErr (List (Nat × Nat))
  | [], done => .ok done
  | e :: es, done =>
    let rel := bits e 19 13
    let core := bits e 12 8
    let c := relCore clusters rel core
    let x := records.getD (24 * rel + core) []
    if tplcnt ≤ bits e 7 0 ∨ e / 2 ^ 20 ≠ 0 then .error (.malformed (relCore clusters 0 0))
    else if clusters.length ≤ rel then .error (.malformed 0)
    else if 23 < core then .error (.malformed c)
    else if (x.getD 2 0 - x.getD 1 0) / 256 ≤ (done.filter fun r => r.1 == c).length then .error (.malformed c)
    else placeRoots clusters tplcnt records es (done ++ [(c, bits e 7 0)])

/-- A placement map for the region's clusters (R132): records by core, then roots. -/
def parsePlacement (clusters : List Nat) (tplcnt : Nat) (bs : List Byte) :
    Except ImageErr (List (Nat × List Nat) × List (Nat × Nat)) :=
  let ws := wordsOf bs
  let h := ws.getD 0 0
  let ncl := bits h 7 0
  let nroot := bits h 16 8
  let bad : ImageErr := .malformed (relCore clusters 0 0)
  if bs.length < 16 ∨ h / 2 ^ 17 ≠ 0 ∨ ws.getD 1 0 ≠ 0 ∨ ncl = 0 ∨ 96 < ncl ∨ 256 < nroot ∨ ncl ≠ clusters.length ∨
      bs.length < 16 + 1536 * ncl + 8 * nroot then .error bad
  else
    let records := (List.range (24 * ncl)).map fun n => (ws.drop (2 + 8 * n)).take 8
    match (List.range (24 * ncl)).find? fun n => !recordAt n (records.getD n []) with
    | some n => .error (.malformed (relCore clusters (n / 24) (n % 24)))
    | none =>
      match placeRoots clusters tplcnt records ((ws.drop (2 + 192 * ncl)).take nroot) [] with
      | .error e => .error e
      | .ok roots =>
        .ok ((List.range (24 * ncl)).map fun n => (relCore clusters (n / 24) (n % 24), ((records.getD n []).drop 1).take 6), roots)

/-- The sections of an image as they are read, in image order. -/
def State.readSections (s : State) (q asid va : Nat) : List (Nat × Nat) → State × Except GErr (List (List Byte))
  | [] => (s, .ok [])
  | (off, n) :: rest =>
    match s.packetRead q asid (va + off) n with
    | (s, .error e) => (s, .error e)
    | (s, .ok bs) =>
      match State.readSections s q asid va rest with
      | (s, .error e) => (s, .error e)
      | (s, .ok more) => (s, .ok (bs :: more))

/-- The weave that five sections make up. -/
def parseSections (clusters : List Nat) (va : Nat) (h : List Nat) (ss : List (List Byte)) : Except ImageErr Weave :=
  let sec (i : Nat) := ss.getD i []
  let table := wordsOf (sec 1)
  let templates := (List.range ((sec 2).length / 256)).map fun i => ((sec 2).drop (256 * i)).take 256
  let codesz := (sec 0).length
  if !table.all (entryOk codesz templates.length) || !templates.all (templateOk table.length) then
    .error (.malformed (relCore clusters 0 0))
  else match parsePlacement clusters templates.length (sec 4) with
    | .error e => .error e
    | .ok (places, roots) =>
      .ok { va := va, codesz := codesz, table := table, templates := templates, conoff := bits (h.getD 4 0) 31 0
            consz := (sec 3).length, codeoff := bits (h.getD 1 0) 31 0, places := places, roots := roots
            bytes := ss.flatten }

/-- An image read and checked for the clusters it is to run on. -/
def State.readImage (s : State) (q asid va : Nat) (clusters : List Nat) : State × Except ImageErr Weave :=
  match s.packetRead q asid va 64 with
  | (s, .error e) => (s, .error (.unread e))
  | (s, .ok bs) =>
    let h := wordsOf bs
    if !headerOk h then (s, .error (.malformed (relCore clusters 0 0)))
    else match s.readSections q asid va (imageSections h) with
      | (s, .error e) => (s, .error (.unread e))
      | (s, .ok ss) => (s, parseSections clusters va h ss)

/-- The end, or the wait, of a packet whose image does not load (R72, R80, R345). -/
def State.failImage (s : State) (q asid : Nat) : ImageErr → State
  | .unread e => s.packetErr q asid e true fun s c => s.failPacket q 0x06 1 0 c
  | .malformed core => s.failPacket q 0x05 1 core 0

/-! ### Loading a core (R26, R27) -/

/-- The state of a core as a load leaves it, before root frames (R27, R306, R425, R429); `x` holds FBASE to UMLIM. -/
def Core.loaded (k : Core) (i asid : Nat) (x : List Nat) : Core :=
  let b := (x.getD 1 0 - x.getD 0 0) / 256
  let hi := min 16 b
  { k.kept with
    spr := { fbase := BitVec.ofNat 20 (x.getD 0 0), flim := BitVec.ofNat 21 (x.getD 1 0)
             dqbase := BitVec.ofNat 20 (x.getD 2 0), dqlim := BitVec.ofNat 21 (x.getD 3 0)
             umbase := BitVec.ofNat 48 (x.getD 4 0), umlim := BitVec.ofNat 48 (x.getD 5 0)
             fwhi := BitVec.ofNat 12 hi, fwlo := BitVec.ofNat 12 (min 8 (hi - 1)) }
    sup := { k.kept.sup with saveptr := 0xFF000, faultq := 0xFFA00 }
    net := { region := some i, asid := asid } }

/-- Core c is loaded for region i; LOADW clears its whole scratchpad, a fresh SWAP only what it claims, or all where no weave swapped out has
left blocks there (R27, R420). The caches keep
what was pushed into them for this packet, `pre` (R84). Where the deque window holds no entry there is no room for a header, and
none is written (a choice: R154; assumption log, entry 66). -/
def State.loadCore (s : State) (c i asid : Nat) (x : List Nat) (fresh : Bool) (pre : Option (Nat × Nat)) : State :=
  let s := if fresh then s else (List.range 256).foldl (fun s b => s.claimBlock c b) s
  let s := s.modCore c fun k =>
    if pre.isSome && k.pl.pushed == pre then
      (k.loaded i asid x).modPl fun p => { p with icache := k.pl.icache, ccache := k.pl.ccache }
    else k.loaded i asid x
  let alone := !s.regions.any fun r => r.2.save.any fun v => v.cores.any fun e => e.1 == c
  let s := s.modCore c (·.modScr fun m => { m with whole := !fresh || alone })
  let s := s.scrWrite c 0xFFA00 (List.replicate 64 0)
  if (s.core c).dqCap = 0 then s else s.scrWrite c (s.core c).spr.dqbase.toNat (List.replicate 64 0)

/-- Root frames, in map order; their handles in root order. -/
def State.allocRoots (s : State) (w : Weave) : List (Nat × Nat) → State × List Nat
  | [] => (s, [])
  | (c, t) :: rest =>
    let (s, h) := match s.allocFrame c (w.templates.getD t []) t 0 with
      | some (s, fix) => (s, mkHandle c fix ((s.core c).frame fix).gen)
      | none => (s, 0)
    let (s, hs) := State.allocRoots s w rest
    (s, h :: hs)

/-- No block of a core counts as written since its load (R435). -/
def State.untouch (s : State) (c : Nat) : State := s.modCore c (·.modScr fun m => { m with touched := [] })

/-- The cores of region i are loaded with a weave, its roots allocated; its gates are closed. What a follower's firmware core does on its
die at the leader's request is done whether or not that core runs (a choice: R86; assumption log, entry 80). -/
def State.loadRegion (s : State) (i clusters asid image : Nat) (w : Weave) (q seq : Nat) : State :=
  let s := s.setRegion i {
    state := 1, clusters := clusters, asid := asid, image := image, llwin := 2 ^ 20, weave := w, busy := some q }
  let s := w.places.foldl (fun s p => s.loadCore p.1 i asid p.2 false (some (q, seq))) s
  let (s, hs) := s.allocRoots w w.roots
  let s := w.places.foldl (fun s p => s.untouch p.1) s
  s.setRegion i { s.region i with roots := hs }

/-- The trees of the region's routers are unbound (R412). -/
def State.clearTrees (s : State) (i : Nat) : State :=
  (s.region i).clusterList.foldl (fun s cl => s.setCluster cl { s.cluster cl with trees := [] }) s

/-- The Beacon jobs of a region are free (R408). -/
def State.freeJobs (s : State) (i : Nat) : State :=
  { s with dies := Sparse.mapV {} (fun _ d => { d with
      jobs := Sparse.mapV {} (fun _ j => if j.region = i then { j with state := 0 } else j) d.jobs }) s.dies }

/-- The livelock windows of a region begin. -/
def State.llBeginAll (s : State) (i : Nat) : State := (List.range 4).foldl (fun s d => s.llBegin i d) s

def loadCheck (s : State) (_ : Nat) (p : Packet) : Option Nat :=
  let i := bits (p.w 4) 7 0
  if 95 < i ∨ p.clusters = 0 ∨ bits (p.w 3) 63 32 ≠ 0 then some 0x03
  else if (s.region i).state ≠ 0 ∨ s.taken p.clusters then some 0x04
  else if s.fw.fenced &&& p.clusters ≠ 0 then some 0x0A
  else none

/-- What a LOADW of an image does. While it is under way its clusters are taken. -/
def State.loadAct (s : State) (q : Nat) (p : Packet) : State :=
  let i := bits (p.w 4) 7 0
  let asid := bits (p.w 5) 15 0
  let s := s.modExec q fun e => { e with phase := 1 }
  match s.readImage q asid p.image (setBits 96 p.clusters) with
  | (s, .error e) => s.failImage q asid e
  | (s, .ok w) =>
    let s := (((s.freeJobs i).loadRegion i p.clusters asid p.image w q p.seq).clearTrees i).llBeginAll i
    s.modExec q fun e => { e with phase := 2, await := w.places.map (·.1) }

/-- LOADW of an image. -/
def execLoadw (q : Nat) (s : State) : Out :=
  command q (fun p => p.cmd == 1 && p.image != 0) loadCheck State.loadAct s

/-! ### Unloading (R77) -/

/-- The id that what a weave left on its way bears once the weave is no more: no region's, so that no later weave of its region id is taken
for it, and what comes of it is an orphan (R26, R57, R77). -/
def noRegion : Nat := 96

/-- Region i's id, which what bears it loses. -/
def leaves (i : Nat) (x : Option Nat) : Option Nat := if x = some i then some noRegion else x

def Ref.leave (i : Nat) (r : Ref) : Ref := { r with region := leaves i r.region }

def Access.leave (i : Nat) (a : Access) : Access := { a with region := leaves i a.region, ref := a.ref.map (Ref.leave i) }

def PrismOp.leave (i : Nat) (p : PrismOp) : PrismOp := { p with ref := p.ref.leave i }

def BeaconQuery.leave (i : Nat) (q : BeaconQuery) : BeaconQuery := { q with ref := q.ref.leave i }

def Body.leave (i : Nat) : Body → Body
  | .arrival a => .arrival { a with region := leaves i a.region }
  | .fork r word tpl job => .fork (r.leave i) word tpl job
  | .enq q v ctl stream r st => .enq q v ctl stream (r.leave i) st
  | .steal word r => .steal word (r.leave i)
  | .access a => .access (a.leave i)
  | .watchAdvance asid page size a bs => .watchAdvance asid page size (a.leave i) bs
  | .faultReply w a => .faultReply w (a.leave i)
  | .prism p => .prism (p.leave i)
  | .beacon q => .beacon (q.leave i)
  | .contribution id p r => .contribution id p (r.map (Ref.leave i))
  | .termw g sc n r => .termw g sc n (r.leave i)
  | .cancelJob g job r => .cancelJob g job (r.leave i)
  | .hostMem w x bs a => .hostMem w x bs (a.map (Access.leave i))
  | b => b

def Msg.leave (i : Nat) (m : Msg) : Msg := { m with region := leaves i m.region, body := m.body.leave i }

def Parked.leave (i : Nat) : Parked → Parked
  | .access a => .access (a.leave i)
  | .piece c g id r va w memo => .piece c g id (leaves i r) va w memo
  | .query q va => .query (q.leave i) va
  | .spcomp cl p va => .spcomp cl (p.leave i) va
  | p => p

def Slice.leave (i : Nat) (l : Slice) : Slice :=
  { l with
    misses := l.misses.map fun e => (e.1, e.2.map fun x => (x.1.leave i, x.2))
    held := l.held.map fun x => (x.1.leave i, x.2)
    ldf := l.ldf.map fun x => (x.1.leave i, x.2)
    faults := l.faults.map fun f => { f with parked := f.parked.map (Parked.leave i) } }

/-- The weave of region i is no more: what is still on its way for it, or of it, bears its id no longer. -/
def State.orphanRegion (s : State) (i : Nat) : State :=
  { s with
    msgs := s.msgs.map (Msg.leave i)
    slices := Sparse.mapV {} (fun _ l => l.leave i) s.slices
    clusters := Sparse.mapV {} (fun _ k =>
      { k with compiles := k.compiles.map fun q => { q with waiting := q.waiting.map (PrismOp.leave i) } }) s.clusters
    syncs := s.syncs.map fun o => { o with ref := o.ref.leave i } }

/-- A message that is dropped because its region is no more: what its sender is told, and the orphan at core c. -/
def State.discard (s : State) (c : Nat) (m : Msg) : State :=
  match m.body with
  | .enq .. => s.loseEntry c m
  | .record .. => s
  | _ => s.lose c m

/-- The ingress buffers of a region are emptied. -/
def State.dropIngress (s : State) (i : Nat) : State :=
  (s.region i).clusterList.foldl (fun s cl =>
    let k := s.cluster cl
    let mine := k.ingress.filter fun m => m.region == some i
    mine.foldl (fun s m => s.discard (m.core.getD 0) m)
      (s.setCluster cl { k with ingress := k.ingress.filter fun m => m.region != some i })) s

/-- The outstanding TERMWs of a region's cores end with it: their frames are no more, and each is dropped as an orphan (R37, R77). The
detector's messages are not counted (R414). -/
def State.dropTermw (s : State) (i : Nat) : State :=
  let mine (t : Termw) : Bool := t.ref.region == some i
  (List.range 4).foldl (fun s n =>
    let d := s.die n
    (d.termw.filter mine).foldl (fun s t => s.dropArrival (handleCore t.ref.handle) { signalArrival t.ref 0 0 0 with absorb := 0 })
      (s.setDie n { d with termw := d.termw.filter fun t => !mine t })) s

/-- A swapped-out region is discarded: the packets whose arrivals lie in its save complete, the senders of its entries are told, the
afterimages of its threadlets and its Beacon jobs are freed, its TERMWs are dropped, and the region id is free. -/
def State.discardRegion (s : State) (i : Nat) (r : Region) (v : Save) : State :=
  let waiting := v.cores.flatMap fun e => e.2.fe.released ++ e.2.fe.held ++ e.2.fe.pending
  let told := (waiting ++ v.msgs).foldl (fun s m => match m.body with
    | .arrival a => (match a.queue with | some x => s.packetDone x | none => s)
    | .enq .. => s.discard (m.core.getD 0) m
    | _ => s) s
  let freed := v.cores.foldl (fun s e => match e.2.pl.after with
    | some n =>
      let cl := s.cluster (clusterOf e.1)
      s.setCluster (clusterOf e.1) { cl with log := Sparse.set none cl.log n none }
    | none => s) told
  (((freed.freeJobs i).dropTermw i).orphanRegion i).setRegion i { llwin := r.llwin }

/-- What a LOADW with image VA 0 does: a loaded region begins to unload; a swapped-out one is discarded. -/
def State.unloadAct (s : State) (q : Nat) (p : Packet) : State :=
  let i := bits (p.w 4) 7 0
  let r := s.region i
  match if r.state = 2 then r.save else none with
  | none =>
    let s := (s.setRegion i { r with cjobs := [] }).dropIngress i
    s.modExec q fun e => { e with phase := 2, await := r.cores }
  | some v =>
    match (s.modExec q fun e => { e with phase := 1 }).packetStore q r.asid (v.va + 120) (natLE 8 (v.commitWord true)) with
    | (s, .error e) => s.packetErr q r.asid e true fun s c => s.failPacket q 0x06 1 0 c
    | (s, .ok _) => (s.discardRegion i r v).packetDone q

/-- LOADW with image VA 0. -/
def execLoadwUnload (q : Nat) (s : State) : Out :=
  command q (fun p => p.cmd == 1 && p.image == 0)
    (fun s _ p =>
      let i := bits (p.w 4) 7 0
      let r := s.region i
      if 95 < i ∨ r.state = 0 ∨ (r.state = 1 ∧ r.gates) then some 0x04 else none) State.unloadAct s

/-- The queue whose packet awaits core c, and that packet. -/
def State.awaiting (s : State) (c : Nat) (sel : Packet → Bool) : Option (Nat × Exec) :=
  match s.queues.find? fun e => match e.2.exec with | some x => x.await.contains c && sel x.pkt | none => false with
  | some (q, h) => h.exec.map fun x => (q, x)
  | none => none

/-- The threadlet of core c ends. In supervisor mode the handler runs on with no threadlet under it, so that its RFE leads to
step 1 of R300 (a choice: assumption log, entry 30). -/
def State.endUnder (s : State) (c : Nat) : State :=
  if !(s.core c).pl.sup then s.endThreadlet c true
  else (s.releaseAfter c).modCore c fun k =>
    { k with sup := { k.sup with estat := k.sup.estat &&& ~~~(0xFFFFFFFF : Word) } }.modPl fun p =>
      { p with live := false, handle := 0, doomed := false }

/-- Every frame of core c is freed, one in transfer when its transfer ends (R49); what waits there finds none. -/
def State.freeAll (s : State) (c : Nat) : State :=
  let s := if (s.core c).pl.live then s.endUnder c else s
  let s := ((s.core c).fe.frames.map (·.1)).foldl (fun s fix =>
    let e := (s.core c).frame fix
    if e.st = 0 then s
    else if e.inTransfer then s.modCore c (·.modFrame fix fun e => { e with freeP := true })
    else s.freeFrame c fix false) s
  let k := s.core c
  let s := s.setCore c ((k.modFe fun f => { f with backlog := [], held := [], released := [], closing := true }).modPl
    fun p => { p with waiti := false, preempt := false })
  let s := k.fe.backlog.foldl (fun s m => (s.spawn c m).getD s) s
  ((k.fe.released ++ k.fe.held).foldl (fun s m => (s.applyMsg c m).1) s).drainPending c

/-- UNLOAD_ACKNOWLEDGE: between two instructions. -/
def execUnloadAcknowledge (c : Nat) (s : State) : Out :=
  match s.awaiting c fun p => p.cmd == 1 && p.image == 0 with
  | none => .next s
  | some (q, _) => .next ((s.freeAll c).modExec q fun e => { e with await := e.await.filter (· != c) })

/-- The region of whoever is told of the completion of what a message carries. -/
def Body.origin : Body → Option Nat
  | .arrival a => if a.op then a.region else none
  | .access a => a.region
  | .watchAdvance _ _ _ a _ => a.region
  | .faultReply _ a => a.region
  | .hostMem _ _ _ (some a) => a.region
  | .fork r _ _ _ => r.region
  | .steal _ r => r.region
  | .enq _ _ _ _ r _ => r.region
  | .prism p => p.ref.region
  | .beacon q => q.ref.region
  | .contribution _ _ (some r) => r.region
  | .termw _ _ _ r => r.region
  | .cancelJob _ _ r => r.region
  | _ => none

/-- Something parked belongs to a region. -/
def Parked.owner : Parked → Option Nat
  | .access a => a.region
  | .piece _ _ _ r .. => r
  | .query q _ => q.ref.region
  | .compile .. => none
  | .spcomp _ p _ => p.ref.region
  | .packet .. => none

/-- A message that the weave of region i sent itself: a core, or a router of its clusters. -/
def Msg.ofWeave (m : Msg) (i : Nat) (r : Region) : Bool :=
  m.region == some i && !m.outside && match m.src with
    | .core c | .engine c => r.cores.contains c
    | .router cl => r.clusterList.contains cl
    | _ => false

/-- Something that the cores of region i issued is still on its way (R77): a message that carries an operation, a posted store or a
completion, an access at a slice, an operation, a compile that answers it; any other message of the weave's own, which must not meet a
later weave (R26); or what their acknowledgement leaves to be done at a core. -/
def State.inFlight (s : State) (i : Nat) : Bool :=
  let r := s.region i
  (s.msgs.any fun m => m.body.origin == some i || m.ofWeave i r) ||
  (s.clusters.any fun k => (k.2.ingress.any fun m => m.body.origin == some i) ||
    k.2.compiles.any fun q => q.waiting.any fun p => p.ref.region == some i) ||
  (s.slices.any fun l =>
    (l.2.misses.any fun e => e.2.any fun x => x.1.region == some i) || (l.2.ldf.any fun e => e.1.region == some i) ||
    (l.2.held.any fun e => e.1.region == some i) || l.2.faults.any fun f => f.parked.any fun p => p.owner == some i) ||
  !r.cancels.isEmpty || (s.syncs.any fun o => o.ref.region == some i) ||
  r.cores.any fun c =>
    let k := s.core c
    !(k.eng.copy.isEmpty && k.eng.vector.isEmpty && k.eng.tensor.isEmpty && k.eng.shape.isEmpty && k.eng.remote.isEmpty &&
      k.net.fences.isEmpty && k.fe.backlog.isEmpty && k.fe.pending.isEmpty) || (k.fe.frames.any fun e => e.2.inTransfer) ||
      k.net.journal.any fun j => j.2.state == 1

/-- The unload of region i is complete: every core has acknowledged and nothing is on its way. -/
def State.unloaded (s : State) (i : Nat) (e : Exec) : Bool := e.await.isEmpty && !s.inFlight i

/-- The region id and its clusters are free. -/
def State.freeRegion (s : State) (i : Nat) : State :=
  let r := s.region i
  let s := (((s.dropIngress i).freeJobs i).dropTermw i).orphanRegion i
  let s := r.cores.foldl (fun s c => s.modCore c fun k =>
    (k.modNet fun n => { n with region := none, asid := 0, traps := [] }).modFe fun f => { f with closing := false }) s
  s.setRegion i { llwin := r.llwin }

end Sys2Proof.Machine
end

