-- ==== Sys2Proof/Machine/Swap.lean ====
section
/-! DEFINITION. SWAP, fresh and restoring (R79-R81, R418-R420, R430-R438), and the acknowledgement of a load. -/

namespace Sys2Proof.Machine

/-! ### Checks (R79, R435) -/

def swapCheck (s : State) (_ : Nat) (p : Packet) : Option Nat :=
  let v := p.victim
  let i := p.incoming
  if (p.w 1 = 0) = (p.w 6 = 0) ∨ p.w 4 % 4096 ≠ 0 ∨ p.w 5 % 4096 ≠ 0 ∨ p.w 6 % 4096 ≠ 0 ∨ (95 < v ∧ v ≠ 0xFF) ∨ 95 < i ∨
      (v = 0xFF ∧ (p.w 1 ≠ 0 ∨ p.w 4 ≠ 0 ∨ p.w 5 ≠ 0)) then some 0x03
  else if v ≠ 0xFF ∧ !s.loaded v then some 0x04
  else if p.w 1 ≠ 0 then (if (s.region i).state ≠ 0 then some 0x04 else none)
  else
    let r := s.region i
    match r.save with
    | none => some 0x04
    | some x =>
      if !x.committed || x.va != p.w 6 || r.state != 2 then some 0x04
      else if v ≠ 0xFF then (if r.clusters = (s.region v).clusters then none else some 0x04)
      else if s.taken r.clusters then some 0x04
      else if s.fw.fenced &&& r.clusters ≠ 0 then some 0x0A
      else none

/-- Blocks of a core that the check of R435 counts. -/
def Core.touchedCount (k : Core) : Nat := (Sparse.set false k.scr.touched 0xFF true).length

/-- The save area that the victim may need. -/
def State.saveNeed (s : State) (r : Region) : Nat :=
  0x1000 + 0x380000 * r.clusterList.length + 4096 * (r.cores.map fun c => (s.core c).touchedCount).sum

/-! ### The victim (R80 steps 1 to 3, R430) -/

/-- Gates close, the save begins, every core is asked to park. -/
def State.evict (s : State) (i va size : Nat) : State :=
  let r := s.region i
  let s := s.setRegion i { r with gates := false, save := some { va := va, size := size, gates := r.gates } }
  r.cores.foldl (fun s c => s.modCore c (·.modPl fun p => { p with preempt := true, waiti := false })) s

/-- The header of a save record, COMMIT apart (R434). -/
def Region.header (r : Region) (i : Nat) (v : Save) : List Byte :=
  natLE 8 (2 ^ 32 + 0x52455653) ++ natLE 8 (r.asid * 2 ^ 16 + r.clusterList.length * 2 ^ 8 + i) ++
    natLE 8 (r.clusters % 2 ^ 64) ++ natLE 8 (r.clusters / 2 ^ 64) ++ natLE 8 r.image ++ natLE 8 v.size ++
    natLE 4 v.blocks.length ++ natLE 4 v.msgs.length ++ natLE 8 (b2n v.gates) ++
    (List.range 16).flatMap (fun n => natLE 2 (r.cjobs.getD n 0)) ++ List.replicate 24 0

/-- Every core of the victim is parked. -/
def Region.parkedAll (r : Region) : Bool :=
  match r.save with
  | some v => r.cores.all fun c => v.cores.any fun e => e.1 == c
  | none => false

/-- A write that belongs to the save of region i and comes before COMMIT; it fails the save when it is not performed. -/
def State.saveWrite (s : State) (i : Nat) (f : State → State × Except GErr Unit) : State :=
  match f s with
  | (s, .ok ()) => s
  | (s, .error _) =>
    let r := s.region i
    s.setRegion i { r with save := r.save.map fun v => { v with failed := true } }

/-- What follows the parking of the last core: the scratchpads are the victim's no more, but for what is claimed of them (R420), the
routers' entries are saved and unbound, timers as far as they have run (R413), the router images and the header are written. -/
def State.capture (s : State) (i : Nat) : State :=
  let r := s.region i
  match r.save with
  | none => s
  | some v =>
    if v.routers ≠ [] then s
    else
      let routers := r.clusterList.map fun cl =>
        (cl, (s.cluster cl).trees.map fun e => (e.1, { e.2 with start := if e.2.got = [] then 0 else s.cycles - e.2.start }))
      let v := { v with routers := routers, cores := v.cores.map fun e => (e.1, { e.2 with scr := (s.core e.1).scr }) }
      let s := r.cores.foldl (fun s c => s.modCore c (·.modScr fun m => { corrected := m.corrected })) (s.setRegion i { r with save := some v })
      let s := s.clearTrees i
      let s := (List.range routers.length).foldl (fun s n =>
        s.saveWrite i fun s => s.saveFree r.asid (v.area n + 0x300000) 0x10000) s
      (s.saveWrite i fun s => s.ownWrite r.asid v.va (r.header i v ++ natLE 8 0))

/-- Routers put back as a save holds them. -/
def State.putRouters (s : State) (v : Save) : State :=
  v.routers.foldl (fun s e => s.setCluster e.1 { s.cluster e.1 with
    trees := e.2.map fun t => (t.1, { t.2 with start := if t.2.got = [] then 0 else s.cycles - t.2.start }) }) s

/-- The header, then COMMIT is written; the victim is swapped out. False when a write fails. -/
def State.commit (s : State) (i : Nat) : State × Bool :=
  let r := s.region i
  match r.save with
  | none => (s, true)
  | some v =>
    match s.ownWrite r.asid v.va (r.header i v) with
    | (s, .error _) => (s, false)
    | (s, .ok ()) =>
      let v := { v with committed := true }
      match s.ownWrite r.asid (v.va + 120) (natLE 8 (v.commitWord false)) with
      | (s, .error _) => (s, false)
      | (s, .ok ()) => (s.setRegion i { s.region i with state := 2, gates := false, save := some v }, true)

/-! ### Putting a region back (R430, R431, R436, R438) -/

/-- The core as the handler finds it after a restore: ECAUSE 0x00, RSTR = 1; a halted core stays halted. -/
def Core.reenter (k : Core) (now : Nat) : Core :=
  { k with
    sup := { k.sup with ecause := 0, estat := k.sup.estat ||| BitVec.ofNat 64 (2 ^ 42) }
    pl := { k.pl with sup := true, pc := k.sup.evec.toNat, pipe := .run, preempt := false, waiti := false, fetchTrap := none }
    eng := if k.pl.halted && !k.pl.stepping then k.eng else k.eng.go now }

/-- A block of a scratchpad becomes what it was saved as, its lines that were empty empty; nothing saved means zero, every
line full. -/
def Scratch.putBlock (m : Scratch) (b : Nat) (data : Option (List Byte)) (empty : List Nat) : Scratch :=
  let n := 4096 * b
  { m with
    bytes := writeCells m.bytes n (data.getD (List.replicate 4096 0))
    empty := empty.foldl (fun e l => Sparse.set false e l true) (setRange m.empty false (64 * b) 64)
    bad := setRange m.bad false (512 * b) 512
    soft := setRange m.soft false (512 * b) 512 }

/-- EVEC, which a SWAP leaves as it stands (R422). -/
def Core.withEvec (k : Core) (v : BitVec 32) : Core := { k with sup := { k.sup with evec := v } }

/-- A region's core is reinstated from its image: the blocks of `put` changed, EVEC and the corrected-error count as they stand
now. -/
def State.reinstate (s : State) (c : Nat) (k : Core) (put : List (Nat × Option (List Byte) × List Nat)) : State :=
  let scr := put.foldl (fun (m : Scratch) p => m.putBlock p.1 p.2.1 p.2.2) k.scr
  s.setCore c { (k.withEvec (s.core c).sup.evec).reenter s.cycles with scr := { scr with corrected := (s.core c).scr.corrected } }

/-- The claimed blocks of a save as (core, block, data, empty lines), read back from the save area (R420, R438) for the packet of
queue q; for none, when a SWAP has failed, what cannot be read is left out. -/
def State.readBlocks (s : State) (r : Region) (v : Save) (q : Option Nat) :
    List (Nat × Nat × Option Nat) → State × Except GErr (List (Nat × Nat × Option (List Byte) × List Nat))
  | [] => (s, .ok [])
  | (c, b, pos) :: rest =>
    let here : State × Except GErr (Option (List Byte)) :=
      match pos with
      | none => (s, .ok none)
      | some n =>
        let at_ := v.area r.clusterList.length + 4096 * n
        let read := match q with
          | some q => s.packetRead q r.asid at_ 4096
          | none => s.ownRead r.asid at_ 4096
        match read with
        | (s, .ok bs) => (s, .ok (some bs))
        | (s, .error e) => (s, .error e)
    match here with
    | (s, .error e) => if q.isNone then State.readBlocks s r v q rest else (s, .error e)
    | (s, .ok data) =>
      match State.readBlocks s r v q rest with
      | (s, .error e) => (s, .error e)
      | (s, .ok more) =>
        let lines := match pos with
          | some n => (v.blocks.getD n (0, 0, [])).2.2
          | none => []
        (s, .ok ((c, b, data, lines) :: more))

/-- The region's cores, routers and messages are put back, the messages to be delivered before new ones (R56); its gates are as
given; its TERMWs are judged afresh (R160). -/
def State.putBack (s : State) (i : Nat) (v : Save) (blocks : List (Nat × Nat × Option (List Byte) × List Nat)) (gates : Bool) :
    State :=
  let r := s.region i
  let s := s.setRegion i { r with state := 1, gates := gates, save := none }
  let s := v.cores.foldl (fun s e => s.reinstate e.1 e.2 ((blocks.filter fun b => b.1 == e.1).map (·.2))) s
  let s := (s.putRouters v).llBeginAll i
  let s := v.cancels.foldl (fun s x => s.flushJob x.1 x.2) s
  let s := { s with
    msgs := ((v.msgs.filter fun m => !(m.body matches .record ..)).map fun m => { m with again := true }) ++ s.msgs
    dies := Sparse.mapV {} (fun _ d => { d with
      termw := d.termw.map fun t => if t.region = i then { t with sample := none } else t }) s.dies }
  let s := v.msgs.foldl (fun s m => match m.body with
    | .record t cause src auxid epc h value aux => s.post (m.core.getD 0) t cause src auxid epc h value aux
    | _ => s) s
  r.cores.foldl (fun s c => s.shapeAgain c) s

/-- The recorded trap 0x14 comes before every other one (R438). -/
def Core.damaged (k : Core) (lost : Nat) : Core :=
  (k.post true 0x14 1 0 0xFFFFFFFF 0 lost 0).modNet fun n =>
    { n with traps := n.traps.drop (n.traps.length - 1) ++ n.traps.take (n.traps.length - 1) }

/-- A SWAP fails after step 1 (R436): the incoming weave is discarded, the victim goes on. -/
def State.recover (s : State) (q victim incoming : Nat) (fresh : Bool) (code cause : Nat) : State :=
  let s := if fresh then s.setRegion incoming { llwin := (s.region incoming).llwin } else s
  let r := s.region victim
  match r.save with
  | none => s.failPacket q code 2 0 cause
  | some v =>
    match s.readBlocks r v none v.dir with
    | (s, .ok blocks) => (s.putBack victim v blocks v.gates).failPacket q code 2 0 cause
    | (s, .error _) => (s.putBack victim v [] v.gates).failPacket q code 2 0 cause

/-! ### The commands -/

/-- Step 1 onward, behind the checks: the victim, if there is one, is evicted; every core is awaited. -/
def State.swapBegin (s : State) (q : Nat) (p : Packet) (cores : List Nat) : State :=
  let s := if p.victim = 0xFF then s else s.evict p.victim (p.w 4) (p.w 5)
  s.modExec q fun e => { e with phase := 2, await := cores }

/-- The save area is too small for the victim (R435). -/
def State.saveShort (s : State) (p : Packet) : Bool :=
  p.victim != 0xFF && decide (p.w 5 < s.saveNeed (s.region p.victim))

/-- What a SWAP with a fresh image does first. -/
def State.swapAct (s : State) (q : Nat) (p : Packet) : State :=
  let r := s.region p.victim
  if s.saveShort p then s.failPacket q 0x07 0 0 0x14
  else match (s.modExec q fun e => { e with phase := 1 }).readImage q (bits (p.w 3) 15 0) p.image r.clusterList with
    | (s, .error e) => s.failImage q (bits (p.w 3) 15 0) e
    | (s, .ok w) =>
      (s.setRegion p.incoming {
        state := 1, clusters := r.clusters, asid := bits (p.w 3) 15 0, image := p.image, llwin := 2 ^ 20, weave := w
        roots := w.roots.map fun _ => 0, busy := some q }).swapBegin q p r.cores

/-- SWAP with a fresh image. -/
def execSwap (q : Nat) (s : State) : Out :=
  command q (fun p => p.cmd == 6 && !p.restores) swapCheck State.swapAct s

/-- The header in memory is that of a committed record of region i, not restored (R79, R434). -/
def headerMatches (i : Nat) (bs : List Byte) : Bool :=
  let ws := wordsOf bs
  let c := ws.getD 15 0
  ws.getD 0 0 == 2 ^ 32 + 0x52455653 && bits (ws.getD 1 0) 7 0 == i && c.testBit 0 && !c.testBit 2

/-- What a SWAP that restores does first. -/
def State.restoreAct (s : State) (q : Nat) (p : Packet) : State :=
  let r := s.region p.incoming
  match (s.modExec q fun e => { e with phase := 1 }).packetRead q r.asid (p.w 6) 128 with
  | (s, .error e) => s.packetErr q r.asid e true fun s c => s.failPacket q 0x06 1 0 c
  | (s, .ok bs) =>
    if !headerMatches p.incoming bs then s.failPacket q 0x04 0 0 0
    else if s.saveShort p then s.failPacket q 0x07 0 0 0x14
    else s.swapBegin q p r.cores

/-- SWAP that restores. -/
def execSwapRestore (q : Nat) (s : State) : Out :=
  command q (fun p => p.restores) swapCheck State.restoreAct s

/-! ### Acknowledgements (R20, R80) -/

/-- Core c of a fresh SWAP is loaded, its roots among them. -/
def State.swapCore (s : State) (i c : Nat) : State :=
  let r := s.region i
  let x := (r.weave.places.lookup c).getD []
  let s := s.loadCore c i r.asid x true none
  (List.range r.weave.roots.length).foldl (fun s n =>
    let root := r.weave.roots.getD n (0, 0)
    if root.1 ≠ c then s
    else match s.allocFrame c (r.weave.templates.getD root.2 []) root.2 0 with
      | none => s
      | some (s, fix) =>
        let r := s.region i
        s.setRegion i { r with roots := r.roots.set n (mkHandle c fix ((s.core c).frame fix).gen) }) s

/-- The save of region i has failed. -/
def State.saveFailed (s : State) (i : Nat) : Bool := ((s.region i).save.map (·.failed)).getD false

/-- Core c acknowledges again later. -/
def State.swapAgain (s : State) (q c : Nat) : State := s.modExec q fun x => { x with await := c :: x.await.filter (· != c) }

/-- The last acknowledgement of a fresh SWAP: every core is loaded, and COMMIT is written. -/
def State.swapEnd (s : State) (q victim incoming : Nat) : State :=
  match s.commit victim with
  | (s, false) => s.recover q victim incoming true 0x07 0x14
  | (s, true) =>
    let s := (s.region incoming).cores.foldl (fun s c => s.untouch c) s
    (s.llBeginAll incoming).packetDone q

/-- What stopped a read of a restore record once the victim is parked (R72, R345): core c acknowledges again when it goes on; else
the SWAP fails. -/
def State.swapErr (s : State) (q c asid : Nat) (e : GErr) : State :=
  (s.swapAgain q c).packetErr q asid e false fun s cause =>
    match (s.queue q).exec with
    | some x => s.recover q x.pkt.victim x.pkt.incoming false 0x06 cause
    | none => s

/-- The weave restored in the place of region i goes back to blocks of its own; of these it claims those that the saved weave touched, of
other blocks every one that it accesses (R420; assumption log, entry 78). -/
def State.closeSave (s : State) (i : Nat) : State :=
  let r := s.region i
  s.setRegion i { r with save := r.save.map fun v => { v with closed := true } }

/-- The last acknowledgement of a restore, core c's: the claimed blocks are claimed again of whoever has them now and read back, the
victim's COMMIT and then RESTORED are written, the region is put back. Until then its clusters are claimed by `State.claims` (a choice: R77,
R79; assumption log, entry 86). -/
def State.restoreEnd (s : State) (q c victim i : Nat) : State :=
  let r := s.region i
  match r.save with
  | none => s
  | some v =>
    let s := v.dir.foldl (fun s d => s.claimBlock d.1 d.2.1) s
    if s.saveFailed victim then s.recover q victim i false 0x07 0x14
    else match s.readBlocks r v (some q) v.dir with
      | (s, .error e) => s.swapErr q c r.asid e
      | (s, .ok blocks) =>
        match s.gCheck r.asid [(v.va + 120, 8)] with
        | (s, .error e) => s.swapErr q c r.asid e
        | (s, .ok ()) =>
          match s.commit victim with
          | (s, false) => s.recover q victim i false 0x07 0x14
          | (s, true) =>
            let s := (s.ownWrite r.asid (v.va + 120) (natLE 8 (v.commitWord true))).1
            let v := ((s.region i).save).getD v
            let s := s.closeSave victim
            let s := s.putBack i v blocks false
            let s := r.cores.foldl (fun s c =>
              let s := if v.damaged then s.modCore c (·.damaged ((v.lost.lookup c).getD 0)) else s
              s.untouch c) s
            s.packetDone q

/-- A core of a SWAP acknowledges: nothing happens before every core of the victim is parked. -/
def State.swapAck (s : State) (q c : Nat) (e : Exec) : State :=
  let victim := e.pkt.victim
  let i := e.pkt.incoming
  let fresh := !e.pkt.restores
  if victim ≠ 0xFF ∧ !(s.region victim).parkedAll then s
  else
    let s := if victim = 0xFF then s else s.capture victim
    if s.saveFailed victim then s.recover q victim i fresh 0x07 0x14
    else
      let s := s.modExec q fun e => { e with await := e.await.filter (· != c) }
      let last := decide (e.await.length = 1)
      if fresh then
        let s := if (s.core c).net.region = some i then s else s.swapCore i c
        if s.saveFailed victim then s.recover q victim i true 0x07 0x14
        else if last then s.swapEnd q victim i else s
      else
        let r := s.region i
        match r.save with
        | none => s
        | some v =>
          match s.packetRead q r.asid (v.area (r.relOf c) + 0x20000 * bits c 4 0) 0x20000 with
          | (s, .error x) => s.swapErr q c r.asid x
          | (s, .ok _) => if last then s.restoreEnd q c victim i else s

/-- LOAD_ACKNOWLEDGEMENT. -/
def execLoadAcknowledgement (c : Nat) (s : State) : Out :=
  match s.awaiting c fun p => p.cmd == 6 || (p.cmd == 1 && p.image != 0) with
  | none => .next s
  | some (q, e) =>
    if e.again || e.parked then .next s
    else if e.pkt.cmd = 6 then .next (s.swapAck q c e)
    else
      let s := (s.untouch c).modExec q fun e => { e with await := e.await.filter (· != c) }
      .next (if e.await.length = 1 then s.packetDone q else s)

/-- What a packet whose accesses may be parked does when it acts. -/
def State.packetAct (s : State) (q : Nat) (p : Packet) : State :=
  if p.cmd = 5 then s.signalAct q p
  else if p.cmd = 9 then s.stampAct q p
  else if p.cmd = 1 then (if p.image = 0 then s.unloadAct q p else s.loadAct q p)
  else if p.restores then s.restoreAct q p
  else s.swapAct q p

/-- RESUME for a parked access of a packet, number `n` of the parked writes if it is one, if its front end may act: it is performed, first
of what the packet has left to do (R347). -/
def State.resumePacket (s : State) (q seq : Nat) (n : Option Nat) : State :=
  if !s.isParked q seq then s
  else
    let t := s.modExec q fun e => { e with parked := false, order := n }
    match (t.queue q).exec with
    | some e =>
      if !t.leads then t
      else if e.again then (t.modExec q fun e => { e with again := false }).packetAct q e.pkt
      else match e.await with
        | c :: _ => t.swapAck q c e
        | [] => t
    | none => t

/-- ABORT for a parked access of a packet (R72, R81). -/
def State.abortPacket (s : State) (q seq : Nat) : State :=
  match (s.queue q).exec with
  | none => s
  | some e =>
    if !s.isParked q seq then s
    else if e.pkt.cmd = 6 ∧ e.phase = 2 then s.recover q e.pkt.victim e.pkt.incoming (!e.pkt.restores) 0x06 0x13
    else s.failAt q 0x13

end Sys2Proof.Machine
end

