-- ==== Sys2Proof/Machine/DebugService.lean ====
section
/-! DEFINITION. The debug service: service addresses, reads, writes, windows, queue control, attestation (R65-R73, R92,
R93, R444). -/

namespace Sys2Proof.Machine

/-! ### Registers and tables as they read -/

/-- QCTL as it reads (R69). -/
def HQueue.ctl (h : HQueue) : Nat := h.asid.toNat * 2 ^ 16 + b2n h.halt * 2 + b2n h.en

/-- The packet that a queue executes, with its PHASE, laid out as QERR is with CODE 0; zero when none executes. R93 makes it
readable and R66 gives it no address: it reads at register 8, behind QERR (a choice: assumption log, entry 67). -/
def HQueue.phaseWord (h : HQueue) : Word :=
  match h.exec with
  | some e => qerr e.pkt.seq 0 e.phase 0 0
  | none => 0

/-- A queue register (R68); register 8 is `phaseWord`. -/
def HQueue.reg (h : HQueue) (n : Nat) : Nat :=
  match n with
  | 0 => h.ring.toNat
  | 1 => h.size.toNat
  | 2 => h.prio.toNat
  | 3 => h.seq.toNat
  | 4 => h.seq.toNat % h.size.toNat
  | 5 => h.cmpl.toNat
  | 6 => h.ctl
  | 7 => h.err.toNat
  | _ => h.phaseWord.toNat

/-- A region word (R66). -/
def Region.word (r : Region) (n : Nat) : Option Nat :=
  match n with
  | 0 => some (b2n r.gates * 4 + r.state)
  | 1 => some (r.clusters % 2 ^ 64)
  | 2 => some (r.clusters / 2 ^ 64)
  | 3 => some r.asid
  | 4 => some r.image
  | 5 => some (match r.save with | some v => if r.state = 2 then v.va else 0 | none => 0)
  | 10 => some r.llwin
  | _ =>
    if 6 ≤ n ∧ n < 10 then
      some (((List.range 4).map fun i => r.cjobs.getD (4 * (n - 6) + i) 0 * 2 ^ (16 * i)).sum)
    else if 256 ≤ n ∧ n < 512 then some (r.roots.getD (n - 256) 0)
    else none

/-- A frame-map entry (R444). -/
def FrameEnt.word (e : FrameEnt) : Nat :=
  e.surp * 2 ^ 48 + e.tpl * 2 ^ 40 + e.job * 2 ^ 24 + e.st * 2 ^ 21 + b2n e.freeP * 2 ^ 20 + e.gen * 2 ^ 12 + e.block

/-- A ready-queue entry (R296). -/
def ReadyEnt.word (e : ReadyEnt) (now : Nat) : Nat := min (now - e.since) 0xFFFF * 2 ^ 32 + e.fix * 2 ^ 8 + e.slot

/-- A word of a journal entry (R205). -/
def JEntry.word (e : JEntry) (n : Nat) : Nat :=
  match n with
  | 0 => e.word0
  | 1 => e.epc * 2 ^ 32 + e.handle
  | _ => e.data

/-- A word of a shape-cache entry (R66). -/
def ShapeEnt.word (e : ShapeEnt) (n : Nat) : Nat :=
  if n < 12 then e.words.getD n 0
  else Sparse.get 0 e.bounds (2 * (n - 12)) + Sparse.get 0 e.bounds (2 * (n - 12) + 1) * 2 ^ 32

/-- KIND of an accumulator as a number. -/
def AccK.code : AccK → Nat
  | .none => 0 | .fp32 => 1 | .tri => 2

/-- A count of unit 8 (R404, R414). -/
def Net.count (t : Net) (n : Nat) : Nat :=
  match n with
  | 0 => t.refused.toNat
  | 1 => t.taken.toNat
  | _ => if n < 5 then Sparse.get 0 t.emit (n - 2) else Sparse.get 0 t.absorb (n - 5)

/-- A word of a barrier-table entry (R444): the slot it names, its participants, the slot's COUNT as it stands, in the umbra record
while the frame is away, 0 for a slot of no live frame; the held arrivals addressed to it. The layout is a choice (assumption log,
entry 34). -/
def State.barWord (s : State) (c ix n : Nat) : Nat :=
  match Sparse.get none (s.core c).net.bars ix with
  | none => 0
  | some b =>
    let k := s.core (handleCore b.handle)
    let fix := handleFix b.handle
    match n with
    | 0 => 2 ^ 63 + b.slot * 2 ^ 32 + b.handle
    | 1 => b.count
    | 2 =>
      if !k.live b.handle then 0
      else if (k.frame fix).st = 5 ∨ (k.frame fix).st = 6 then
        match s.peekRead k.net.asid (k.umbraVa (k.frame fix).umbra + 64 + 4 * b.slot) 4 with
        | some bs => slotCount (leNat bs)
        | none => 0
      else slotCount (k.slotWord fix b.slot)
    | _ => (k.fe.held.filter fun m => match m.body with
        | .arrival a => a.handle == b.handle && a.slot == b.slot
        | _ => false).length

/-- A word of an entry of the held-arrival list (R442, R444): where it goes and its N, who sent it, its deposits, its status word,
their offsets in the frame. The layout is a choice (assumption log, entry 34). -/
def Msg.heldWord (m : Msg) (n : Nat) : Nat :=
  match m.body with
  | .arrival a =>
    match n with
    | 0 => a.n * 2 ^ 40 + a.slot * 2 ^ 32 + a.handle
    | 1 => a.src * 2 ^ 52 + a.chan.code * 2 ^ 50 + b2n a.status.isSome * 2 ^ 8 + a.deposits.length
    | 6 => (a.status.map (·.2)).getD 0
    | 7 => (a.status.map (·.1)).getD 0 * 2 ^ 48 + ((List.range 4).map fun i => (a.deposits.getD i (0, 0)).1 * 2 ^ (12 * i)).sum
    | _ => (a.deposits.getD (n - 2) (0, 0)).2
  | .arm h slot w => match n with
    | 0 => 2 ^ 63 + slot * 2 ^ 32 + h
    | 2 => w
    | _ => 0
  | .free h => if n = 0 then 2 ^ 62 + h else 0
  | _ => 0

/-- A word of a directory entry (R396). -/
def State.dirWord (s : State) (cl : Nat) (e : PEnt) (n : Nat) : Nat :=
  if n = 0 then e.asid * 2 ^ 48 + e.va
  else e.gen * 2 ^ 48 + e.kind * 2 ^ 46 + b2n (s.prismBusy cl e) * 2 ^ 45 + b2n (superseded (s.cluster cl).dir e) * 2 ^ 44 +
    e.size * 2 ^ 16 + e.offset

/-- A word of a job entry (R408). -/
def BJob.word (j : BJob) (n : Nat) : Nat :=
  match n with
  | 0 => j.state * 2 ^ 62 + j.region * 2 ^ 55 + j.va
  | 1 => j.asid * 2 ^ 48 + j.next
  | 2 => j.sizes
  | _ => j.step

/-- A word of a window (R67). -/
def Window.word (w : Window) (n : Nat) : Nat :=
  match n with
  | 0 => w.w0.toNat
  | 1 => w.w1.toNat
  | _ => w.w2.toNat

/-- The lease word (R87). -/
def Firmware.lease (f : Firmware) : Nat := f.expiry.toNat * 2 ^ 16 + f.epoch.toNat * 2 ^ 8 + f.holder.toNat

/-! ### Reads (R66) -/

/-- What a service address reads as: a word; a word whose layout the spec does not give; no such address. -/
inductive Reading where
  | word (v : Nat)
  | open_
  | absent
  deriving DecidableEq, Repr

/-- A word where a condition on the rest of the address holds. -/
def Reading.when (ok : Bool) (v : Nat) : Reading := if ok then .word v else .absent

/-- A word of a core (class 2). Word 8 of unit 8 is the scratchpad's corrected-error count, which R354 makes readable and R66 gives
no address (a choice: assumption log, entry 67). Unit 12 has the 136 words of the fault queue; an index beyond them names no word (a choice: R66;
assumption log, entry 68). -/
def State.readCore (s : State) (c unit ix : Nat) : Reading :=
  let k := s.core c
  if !validCore c then .absent
  else match unit with
  | 0 => .when (decide (ix < 1024) && (sprInfo ix).isSome) (s.readSpr c ix)
  | 1 => .when (decide (ix < 4096)) (k.frame ix).word
  | 2 =>
    let l := (k.fe.promoteDue s.cycles).level (ix / 256)
    let n := ix % 256
    let e := if n < 64 then l.reg[n]? else l.prom[n - 64]?
    .when (decide (ix < 1024) && decide (n < 128)) ((e.map (·.word s.cycles)).getD 0)
  | 3 => .when (decide (ix < 256)) (s.barWord c (ix % 64) (ix / 64))
  | 4 => .when (decide (ix < 192)) ((k.journal (ix % 64)).word (ix / 64))
  | 5 => .when (decide (ix < 16 * 44)) ((k.shape (ix % 16)).word (ix / 16))
  | 6 =>
    let q := k.lq (ix % 8)
    let n := ix / 8
    .when (decide (n < 18))
      (if n < 16 then ((q.entries[n]?).map (·.1)).getD 0 else if n = 16 then q.rptr else q.cfg)
  | 7 => .when (decide (ix < 2048)) (((k.fe.held[ix % 256]?).map fun m => m.heldWord (ix / 256)).getD 0)
  | 8 => .when (decide (ix < 9)) (if ix = 8 then k.scr.corrected else k.net.count ix)
  | 9 => .when (decide (ix < 8)) (Sparse.get 0 k.eng.tlog ix).toNat
  | 10 =>
    let a := k.acc (bits ix 10 8)
    let n := ix % 256
    if 4096 ≤ ix then .absent
    else if !ix.testBit 11 then .word (Sparse.get 0 a.words n)
    else match n with
      | 0 => .word (Config.code 1 a.kind.code).toNat
      | 1 => .word a.epoch
      | 2 => .word k.progress
      | _ => .absent
  | 11 => .when (decide (ix < 2 ^ 17)) (k.scr.readN (8 * ix) 8)
  | 12 => .when (decide (ix < 136)) (k.scr.readN (k.sup.faultq.toNat + 8 * ix) 8)
  | _ => .absent

/-- A word of a slice (class 3). -/
def State.readSlice (s : State) (h unit ix : Nat) : Reading :=
  let l := s.slice h
  match unit with
  | 0 => .when (ix == 0) l.config.toNat
  | 1 => .when (ix == 0) l.stray.toNat
  | 2 => .when (ix == 0) l.corrected.toNat
  | 3 => if ix < 8192 then .open_ else .absent
  | 4 => if ix < 1024 then .open_ else .absent
  | 5 => if ix < 64 then .open_ else .absent
  | 6 => .when (decide (ix < 2 ^ 14)) (Sparse.get 0 (s.die (h / 64)).staging (h % 64 * 2 ^ 14 + ix)).toNat
  | _ => .absent

/-- A service address read (R66). Words 16 to 27 of class 8 are the corrected-error counts of the 12 stacks, which R354 makes readable
and R66 gives no address (a choice: assumption log, entry 67). -/
def State.readAddr (s : State) (a : Nat) : Reading :=
  let unit := bits a 31 28
  match bits a 47 44 with
  | 0 => .when (decide (bits a 31 0 ≤ 8)) ((s.queue (bits a 43 32)).reg (bits a 31 0))
  | 1 =>
    if bits a 35 16 ≠ 0 ∨ 95 < bits a 43 36 then .absent
    else match (s.region (bits a 43 36)).word (bits a 15 0) with
      | some v => .word v
      | none => .absent
  | 2 => if bits a 27 20 ≠ 0 then .absent else s.readCore (bits a 43 32) unit (bits a 19 0)
  | 3 => if bits a 35 32 ≠ 0 ∨ bits a 27 16 ≠ 0 then .absent else s.readSlice (bits a 43 36) unit (bits a 15 0)
  | 4 =>
    let cl := bits a 43 37
    if 95 < cl ∨ bits a 36 32 ≠ 0 ∨ bits a 27 9 ≠ 0 then .absent
    else match unit with
      | 0 => .word ((Sparse.get {} (s.cluster cl).trees (bits a 8 3)).words.getD (bits a 2 0) 0)
      | 1 => .open_
      | 2 => .when (bits a 8 0 == 0) (s.cluster cl).strayPk.toNat
      | _ => .absent
  | 5 =>
    let cl := bits a 43 37
    if 95 < cl ∨ bits a 36 32 ≠ 0 ∨ bits a 27 16 ≠ 0 then .absent
    else match unit with
      | 0 => .when (bits a 15 13 == 0) (s.dirWord cl (Sparse.get {} (s.cluster cl).dir (bits a 11 0)) (bits a 12 12))
      | 1 => .word (Sparse.get 0 (s.cluster cl).store (bits a 15 0)).toNat
      | _ => .absent
  | 6 =>
    .when (bits a 41 10 == 0 && bits a 3 2 == 0) ((s.job (bits a 43 42) (bits a 9 4)).word (bits a 1 0))
  | 7 =>
    if bits a 43 16 ≠ 0 then .absent
    else if a.testBit 15 then .when (bits a 14 0 == 0) s.port.err.toNat
    else
      let ws := if a.testBit 14 then s.port.outWin else s.port.inWin
      .when (bits a 7 2 == 0 && decide (bits a 1 0 < 3)) ((Sparse.get {} ws (bits a 13 8)).word (bits a 1 0))
  | 8 =>
    if bits a 43 8 ≠ 0 then .absent
    else match bits a 7 0 with
      | 0 => .word s.fw.lease
      | 1 => .word (s.fw.fenced % 2 ^ 64)
      | 2 => .word (s.fw.fenced / 2 ^ 64)
      | n =>
        if n < 7 then .word (Config.code 0 (s.die (n - 3)).boot).toNat
        else if 16 ≤ n ∧ n < 28 then .word (Sparse.get 0 s.mem.corrected (n - 16))
        else .absent
  | _ => .absent

/-! ### Replies (R65) -/

/-- A reply of 32 bytes goes out. -/
def State.reply (s : State) (op : Nat) (tag : BitVec 8) (status data : Nat) (more : List Word) : State :=
  let w0 : Word := BitVec.ofNat 64 (op * 2 ^ 60 + tag.toNat * 2 ^ 52 + status)
  { s with port := { s.port with replies := s.port.replies ++ [[w0, BitVec.ofNat 64 data, 0, 0] ++ more] } }

/-! ### Writes (R66, R67, R70, R73) -/

/-- A window with one word replaced. -/
def Window.put (w : Window) (n v : Nat) : Window :=
  let b : Word := BitVec.ofNat 64 v
  match n with
  | 0 => { w with w0 := b }
  | 1 => { w with w1 := b }
  | _ => { w with w2 := b }

/-- What R67 demands of a window: no reserved bit, and of an enabled one a size and bases that fit. -/
def Window.ok (w : Window) (out : Bool) : Bool :=
  let w0 := w.w0.toNat
  let w1 := w.w1.toNat
  let n := bits w0 6 1
  let z := 2 ^ n
  let base := bits w0 63 12 * 4096
  bits w0 11 7 == 0 &&
  (if out then bits w0 63 44 == 0 && w.w2 == 0 else bits w1 63 48 == 0 && decide (w.w2.toNat < 2 ^ 16)) &&
  (!w0.testBit 0 ||
    (decide (12 ≤ n) && decide (n ≤ 40) && aligned base z && aligned w1 z &&
      (!out || (decide (0xE0000000000 ≤ base) && decide (base + z ≤ 0x100000000000)))))

/-- A write of QCTL with ACT (R73). -/
def State.queueAct (s : State) (q act : Nat) : State :=
  let h := s.queue q
  if !h.halt then s
  else match act with
    | 1 => s.setQueue q { h with halt := false }
    | 2 =>
      if h.unread then s.setQueue q { h with halt := false, seq := h.seq + 1, cmpl := h.cmpl + 1 }
      else s.setQueue q { h with
        halt := false, cmpl := h.cmpl + 1
        accepted := match h.accepted.drop 1 with
          | p :: ps => { p with since := s.cycles } :: ps
          | [] => [] }
    | _ => s

/-- A write of QCTL (R69, R70). -/
def State.writeQctl (s : State) (q v : Nat) : State × Nat :=
  let h := s.queue q
  if bits v 63 32 ≠ 0 ∨ bits v 15 4 ≠ 0 ∨ bits v 3 2 = 3 then (s, 3)
  else if bits v 31 16 ≠ h.asid.toNat ∧ (h.en ∨ h.exec.isSome) then (s, 1)
  else ((s.setQueue q { h with asid := BitVec.ofNat 16 (bits v 31 16), en := v.testBit 0 }).queueAct q (bits v 3 2), 0)

/-- A write of another queue register (R68, R70). Packets that are accepted and have not begun stay, with their sequence numbers, and
begin in their turn even while EN = 0 (a choice: R70; assumption log, entry 76). -/
def State.writeQueue (s : State) (q n v : Nat) : State × Nat :=
  let h := s.queue q
  let put (ok : Bool) (h' : HQueue) : State × Nat :=
    if !ok then (s, 3) else if h.en ∨ h.exec.isSome then (s, 1) else (s.setQueue q h', 0)
  match n with
  | 0 => put (decide (v < 2 ^ 48) && aligned v 4096) { h with ring := BitVec.ofNat 48 v }
  | 1 => put (decide (16 ≤ v) && decide (v ≤ 4096) && popcount 13 v == 1) { h with size := BitVec.ofNat 13 v }
  | 2 => put (decide (v < 4)) { h with prio := BitVec.ofNat 2 v }
  | 3 => put (decide (v < 2 ^ 16)) { h with seq := BitVec.ofNat 16 v }
  | 5 => put true { h with cmpl := BitVec.ofNat 64 v }
  | 6 => s.writeQctl q v
  | _ => (s, 4)

/-- A write of a special register that the host may write: a value that R98 forbids is out of range. -/
def State.writeCoreSpr (s : State) (c n v : Nat) : State × Nat :=
  if n = 0x110 ∨ (0x100 ≤ n ∧ n ≤ 0x10F) then
    if (v &&& (ones 64 - ((sprInfo n).map (·.mask)).getD 0)) != 0 || !s.sprCond c n v then (s, 3)
    else (s.writeSpr c n v, 0)
  else (s, 4)

/-- A write of a window word; nothing changes unless the window that results is one that R67 permits. -/
def State.writeWindow (s : State) (out : Bool) (i n v : Nat) : State × Nat :=
  let ws := if out then s.port.outWin else s.port.inWin
  let w := (Sparse.get {} ws i).put n v
  if !w.ok out then (s, 3)
  else
    let ws := Sparse.set {} ws i w
    ({ s with port := if out then { s.port with outWin := ws } else { s.port with inWin := ws } }, 0)

/-- A service address written: the state after, and STATUS. -/
def State.writeAddr (s : State) (a v : Nat) : State × Nat :=
  match s.readAddr a with
  | .absent => (s, 2)
  | _ =>
    match bits a 47 44 with
    | 0 => s.writeQueue (bits a 43 32) (bits a 31 0) v
    | 1 =>
      let i := bits a 43 36
      if bits a 15 0 = 10 then ((s.setRegion i { s.region i with llwin := v }).llBeginAll i, 0) else (s, 4)
    | 2 => if bits a 31 28 = 0 then s.writeCoreSpr (bits a 43 32) (bits a 19 0) v else (s, 4)
    | 7 =>
      if a.testBit 15 then (if v = 0 then ({ s with port := { s.port with err := 0 } }, 0) else (s, 3))
      else s.writeWindow (a.testBit 14) (bits a 13 8) (bits a 1 0) v
    | _ => (s, 4)

/-! ### Attestation (R92) -/

/-- Bytes 0 to 111 of the report of a region. -/
def State.reportHead (s : State) (i : Nat) (nonce : BitVec 256) : List Byte :=
  let r := s.region i
  natLE 8 (1 + i * 256) ++ natLE 8 Config.serial.toNat ++ natBE 32 (sha256 (s.die s.fw.holder.toNat).firmware).toNat ++
    (if r.state = 1 then natBE 32 (sha256 r.weave.bytes).toNat else List.replicate 32 0) ++ natLE 32 nonce.toNat

/-- The whole report, signed. -/
def State.report (s : State) (i : Nat) (nonce : BitVec 256) : List Byte :=
  let h := s.reportHead i nonce
  h ++ natBE 384 (Config.signature (sha256 h)).toNat

/-! ### Requests (R65) -/

/-- The words of a request. -/
def request (op : Nat) (tag : BitVec 8) (saddr data : Nat) (nonce : BitVec 256 := 0) : List Word :=
  BitVec.ofNat 64 (op * 2 ^ 60 + tag.toNat * 2 ^ 52 + saddr) :: BitVec.ofNat 64 data ::
    (List.range 4).map fun i => (nonce >>> (64 * i)).setWidth 64

/-- A request is carried out and answered. A read changes no state of the module. -/
def State.serveRequest (s : State) (ws : List Word) : State :=
  let w (i : Nat) : Nat := (ws.getD i 0).toNat
  let op := bits (w 0) 63 60
  let tag : BitVec 8 := BitVec.ofNat 8 (bits (w 0) 59 52)
  let saddr := bits (w 0) 47 0
  let nonce : BitVec 256 := BitVec.ofNat 256 (w 2 + w 3 * 2 ^ 64 + w 4 * 2 ^ 128 + w 5 * 2 ^ 192)
  if bits (w 0) 51 48 ≠ 0 ∨ (op ≠ 3 ∧ nonce ≠ 0) then s.reply op tag 5 0 []
  else if op = 1 then
    if w 1 ≠ 0 then s.reply op tag 5 0 []
    else match s.readAddr saddr with
      | .absent => s.reply op tag 2 0 []
      | .word v => s.reply op tag 0 v []
      | .open_ =>
        let (s, v) := s.draw
        s.reply op tag 0 v []
  else if op = 2 then
    let (s, status) := s.writeAddr saddr (w 1)
    s.reply op tag status 0 []
  else if op = 3 then
    if saddr ≠ 0 ∨ bits (w 1) 63 8 ≠ 0 then s.reply op tag 5 0 []
    else s.reply op tag 0 0 ((wordsOf (s.report (bits (w 1) 7 0) nonce)).map (BitVec.ofNat 64))
  else s.reply op tag 5 0 []

/-- A request arrives: the leader answers it, unless earlier ones wait; with no leader it waits for one. -/
def State.take (s : State) (ws : List Word) : State :=
  if s.leads && s.port.pending == [] then s.serveRequest ws
  else { s with port := { s.port with pending := s.port.pending ++ [ws] } }

/-- The leader answers the request that has waited longest. -/
def State.serveNext (s : State) : State :=
  match s.port.pending with
  | [] => s
  | ws :: rest => if s.leads then { s with port := { s.port with pending := rest } }.serveRequest ws else s

/-- A write request that names a target of its kind. -/
def State.serve (s : State) (mine : Bool) (tag : BitVec 8) (a v : Nat) : Out :=
  .next (if mine then s.take (request 2 tag a v) else s)

/-- DEBUG_READ (R66). -/
def execDebugRead (tag : BitVec 8) (saddr : BitVec 48) (s : State) : Out := .next (s.take (request 1 tag saddr.toNat 0))

/-- DEBUG_ATTEST (R92). -/
def execDebugAttest (tag : BitVec 8) (data : BitVec 64) (nonce : BitVec 256) (s : State) : Out :=
  .next (s.take (request 3 tag 0 data.toNat nonce))

/-- The service address of a queue's QCTL. -/
def qctlAddr (q : Nat) : Nat := q * 2 ^ 32 + 6

/-- DEBUG_WRITE (R66). -/
def execDebugWrite (tag : BitVec 8) (saddr : BitVec 48) (data : BitVec 64) (s : State) : Out :=
  s.serve true tag saddr.toNat data.toNat

/-- WINDOW_WRITE (R67). -/
def execWindowWrite (tag : BitVec 8) (saddr : BitVec 48) (data : BitVec 64) (s : State) : Out :=
  s.serve (bits saddr.toNat 47 44 == 7 && !saddr.toNat.testBit 15) tag saddr.toNat data.toNat

/-- ERROR_WORD_CLEAR (R67). -/
def execErrorWordClear (tag : BitVec 8) (data : BitVec 64) (s : State) : Out :=
  s.serve true tag (7 * 2 ^ 44 + 2 ^ 15) data.toNat

/-- QCTL_ENABLE: a write of QCTL without ACT (R70). -/
def execQctlEnable (tag : BitVec 8) (q : Nat) (data : BitVec 64) (s : State) : Out :=
  s.serve (bits data.toNat 3 2 == 0) tag (qctlAddr q) data.toNat

/-- QCTL_RESUME_RETRY: a write of QCTL with ACT = 01 (R73). -/
def execQctlResumeRetry (tag : BitVec 8) (q : Nat) (data : BitVec 64) (s : State) : Out :=
  s.serve (bits data.toNat 3 2 == 1) tag (qctlAddr q) data.toNat

/-- QCTL_RESUME_SKIP: a write of QCTL with ACT = 10 (R73). -/
def execQctlResumeSkip (tag : BitVec 8) (q : Nat) (data : BitVec 64) (s : State) : Out :=
  s.serve (bits data.toNat 3 2 == 2) tag (qctlAddr q) data.toNat

end Sys2Proof.Machine
end

