-- ==== Sys2Proof/Machine/Faults.lean ====
section
/-! DEFINITION. The fault path: records at the service core and the replies RESUME and ABORT (R345-R347). -/

namespace Sys2Proof.Machine

/-! ### Records (R339, R346) -/

def Body.isFault : Body → Bool
  | .faultRecord .. => true
  | _ => false

/-- The network interface of the service core takes a fault record; none while the ring's record is full. -/
def State.fileRecord (s : State) (c : Nat) (m : Msg) : Option State :=
  match m.body with
  | .faultRecord asid va handle token core kind reason level entry =>
    let (svh, slot, rlog, ring) := s.service (token / 2 ^ 24) asid
    let s := s.reach c ring 32
    let head := (s.core c).scr.readN ring 4
    let at_ := ring + 32 + 32 * (head % 2 ^ rlog)
    let s := s.reach c at_ 32
    if ((s.core c).scr.readN (at_ + 8) 1).testBit 0 then none
    else
      let w0 := asid * 2 ^ 48 + va % 2 ^ 48
      let w1 := token * 2 ^ 32 + coreId core * 2 ^ 20 + kind * 2 ^ 16 + reason * 2 ^ 12 + level * 2 ^ 10 + 1
      let s := s.scrWrite c at_ (natLE 8 w0 ++ natLE 8 w1 ++ natLE 8 (handle % 2 ^ 32) ++ natLE 8 entry)
      let s := s.scrWrite c ring (natLE 4 (head + 1))
      some (s.sendArrival (.slice (token / 2 ^ 24)) { handle := svh, slot := slot, n := 1, chan := .signal, region := m.region })
  | _ => none

/-- FAULT_RECORD (R346). Where the weave it was meant for is gone the ring still takes it. -/
def execFaultRecord (k : Nat) (s : State) : Out :=
  onCore s k Body.isFault State.fileRecord fun t c m => (t.fileRecord c m).getD t

/-! ### Replies (R347) -/

/-- A line enters the instruction cache, whose 64 KiB hold 1,024 lines (R2): when they are taken, one that the spec does not
name gives way (assumption log, entry 22). -/
def State.cacheCode (s : State) (c line : Nat) (l : Line) : State :=
  let ic := (s.core c).pl.icache
  let put (s : State) (ic : Sparse (Option Line)) : State :=
    s.modCore c (·.modPl fun p => { p with icache := Sparse.set none ic line (some l) })
  if ic.length < 1024 then put s ic
  else put { s with draws := s.draws + 1 } (ic.eraseIdx ((Config.freeValue s.draws).toNat % 1024))

/-- RESUME for a parked piece of an engine of core c, which goes first at its slice: the row, piece or group of which it is one is
performed, when no other piece of it is parked. A chunk of a COPY begins again in its turn (R219); so does everything of an engine that
stands still, or is in a save. A piece of an operation that another piece has ended is performed alone (R195). `n` is the
piece's number among the parked writes, if it is one (R63). -/
def State.pieceResume (s : State) (c : Nat) (g : Engine) (id : Nat) (region : Option Nat) (va : Nat)
    (n : Option Nat) (memo : List (List Nat)) : State :=
  if g = .copy ∧ ((s.owner region c).bind (·.findRemote id)).isSome then s.remoteResume region c id va n
  else
  let ended := (((s.owner region c).bind (·.findOp g id)).bind (·.fin)).isSome
  let s := if ended then s else s.resumePiece region c g id n
  if s.regionOf c ≠ region then s.settlePiece region c g id
  else match (s.core c).findOp g id with
    | none => s
    | some o =>
      if ended then (s.pieceAlone c g { o with order := n } memo).settlePiece region c g id
      else if o.parked then s
      else if g = .shape then
        s.shapeServe { kind := .shape id, core := c, va := va, size := 8, asid := o.asid, region := region, b := o.pos } id
      else if (s.core c).eng.stopped || o.opc == 0x80 then s
      else match g with
        | .vector => (s.streamStep c o none 0).getD s
        | .tensor => if ((s.core c).ops .tensor).head?.any fun x => x.id == id then s.tensorServe c none else s
        | _ => s.runUnit c g o o.copyProg (copyUnit c o)

/-- RESUME for a parked fetch: the line it awaited enters the instruction cache, or its instruction takes the cause, or it is parked
again (R347). -/
def State.fetchResume (s : State) (a : Access) : State :=
  let go (s : State) : State :=
    s.modOwner a.region a.core (·.modPl fun p => { p with pipe := if p.pipe = .fetchWait then .run else p.pipe })
  if s.regionOf a.core ≠ a.region then go s
  else
    let line := a.va / 64
    match s.gReadPiece a.asid (64 * line) 64 .exec { turn := true, core := a.core } with
    | (s, .ok bs) => go (s.cacheCode a.core line (lineOf bs))
    | (s, .error (.abort _)) => s.failAccess (homeSlice a.va) a 0x13 a.va
    | (s, .error (.cause cs v)) => s.failAccess (homeSlice a.va) a cs v
    | (t, .error e) => (t.parkErr a.asid a.core a.handle e (.access a)).getD (go s)

/-- RESUME for one parked thing that is no access. -/
def State.resumeOther (s : State) : Parked → State
  | .access _ => s
  | .piece c g id region va n memo => s.pieceResume c g id region va n memo
  | .query q _ => s.queryResume q
  | .compile cl _ => s.compileResume cl
  | .spcomp cl p _ => s.spcompResume cl p
  | .packet q seq _ n => s.resumePacket q seq n

/-- RESUME for what a fault had parked, in that order: an access that cannot be taken now goes back to the request channel, and
with it those of the same source that follow (`late`, oldest first). -/
def State.resumeParked (s : State) (h : Nat) (late : List Msg) : List Parked → State
  | [] => { s with msgs := late ++ s.msgs }
  | .access a :: ps =>
    let a := { a with resumed := true }
    if a.kind = .ifetch then (s.fetchResume a).resumeParked h late ps
    else
      let m : Msg := { src := if a.core = 0xFFF then .host else .core a.core, dst := .slice h, chan := .request
                       region := a.region, body := .access a }
      if late.any fun x => x.src == m.src then s.resumeParked h (late ++ [m]) ps
      else match s.access h a with
        | some s => s.resumeParked h late ps
        | none => s.resumeParked h (late ++ [m]) ps
  | p :: ps => (s.resumeOther p).resumeParked h late ps

/-- ABORT for one parked thing. -/
def State.abortParked (s : State) (h : Nat) : Parked → State
  | .access a => s.failAccess h a 0x13 a.va
  | .piece c g id region va .. =>
    let s := if g = .copy then s.abortRemote region c id va else s
    let s := s.abortPiece region c g id va
    if g = .shape ∧ s.regionOf c = region then s.shapeAdvance c else s
  | .query q va => s.queryAbort q va
  | .compile cl va => s.compileAbort cl va
  | .spcomp cl p va => s.prismEnd cl p 3 0x13 va true
  | .packet q seq _ _ => s.abortPacket q seq

/-- A reply word at slice t: the outstanding fault it names, if it names one. -/
def Slice.replyFault (l : Slice) (t word : Nat) : Option TFault :=
  if bits word 61 32 ≠ 0 ∨ bits word 31 24 ≠ t then none else l.faults.find? fun f => f.serial == bits word 23 0

/-- A reply word with ACT `act` reaches its slice, which does f with what the fault had parked; what names no outstanding fault,
or has a reserved field set, is counted. The POST that brought it has then been performed. -/
def onReply (s : State) (k act : Nat) (f : State → Nat → List Parked → State) : Out :=
  match s.deliverable k with
  | some { dst := .slice t, body := .faultReply word a, .. } =>
    let s' := s.dropMsg k
    let l := s'.slice t
    let real := bits word 63 62
    match if real = 1 ∨ real = 2 then l.replyFault t word else none with
    | none => .next ((s'.setSlice t { l with stray := l.stray + 1 }).answer t a [])
    | some x =>
      if real ≠ act then .next s
      else
        let s' := s'.setSlice t { l with faults := l.faults.filter fun y => y.serial != x.serial }
        .next ((f s' t x.parked).answer t a [])
  | _ => .next s

/-- FAULT_REPLY_RESUME. -/
def execFaultReplyResume (k : Nat) (s : State) : Out := onReply s k 1 fun s h => s.resumeParked h []
/-- FAULT_REPLY_ABORT. -/
def execFaultReplyAbort (k : Nat) (s : State) : Out := onReply s k 2 fun s h ps => ps.foldl (fun s p => s.abortParked h p) s

end Sys2Proof.Machine
end

