-- ==== Sys2Proof/Machine/Reduction.lean ====
section
/-! DEFINITION. Reduction trees: REDSEND and REDCFG, the routers' entries and rounds (R228, R229, R400-R402, R412,
R413). -/

namespace Sys2Proof.Machine

/-! ### Entries and where they are -/

/-- The region whose entries a cluster's router holds: that of the weave its cores run, or that of a victim whose cores park
and whose routers are still to be saved. -/
def State.clusterRegion (s : State) (cl : Nat) : Option Nat :=
  match s.regionOf (coreOf cl 0) with
  | some i => some i
  | none =>
    (s.regions.find? fun r => r.2.clusters.testBit cl && match r.2.save with
      | some v => v.routers == []
      | none => false).map (·.1)

/-- The routers that a save holds for `region`. -/
def State.savedRouters (s : State) (region : Option Nat) : Option (Nat × Save) :=
  match region with
  | none => none
  | some i => (s.region i).save.map fun v => (i, v)

/-- Entry id of router cl for a region: at the router while its weave is there, in the save's image while it is
swapped out; none when it is gone. -/
def State.tree (s : State) (region : Option Nat) (cl id : Nat) : Option Tree :=
  if s.clusterRegion cl = region then some (Sparse.get {} (s.cluster cl).trees id)
  else match s.savedRouters region with
    | none => none
    | some (_, v) => (v.routers.lookup cl).map fun ts => (ts.lookup id).getD {}

def State.setTree (s : State) (region : Option Nat) (cl id : Nat) (t : Tree) : State :=
  if s.clusterRegion cl = region then
    let k := s.cluster cl
    s.setCluster cl { k with trees := Sparse.set {} k.trees id t }
  else match s.savedRouters region with
    | none => s
    | some (i, v) => s.setRegion i { s.region i with save := some { v with
        routers := v.routers.map fun e => if e.1 = cl then (cl, Sparse.set {} e.2 id t) else e } }

/-- What a round's timer starts from: now, or 0 in an image, where it does not run (R413). -/
def State.timerStart (s : State) (region : Option Nat) (cl : Nat) : Nat := if s.clusterRegion cl = region then s.cycles else 0

def Tree.w (t : Tree) (i : Nat) : Nat := t.words.getD i 0
def Tree.parent (t : Tree) : Nat := bits (t.w 0) 30 28
/-- CORES and PORTS, an input to a bit. -/
def Tree.inputs (t : Tree) : Nat := bits (t.w 0) 27 0
def Tree.bound (t : Tree) : Bool := t.inputs != 0
/-- TMO in router cycles (R229). -/
def Tree.tmo (t : Tree) : Nat := if t.w 0 / 2 ^ 32 = 0 then 65536 else t.w 0 / 2 ^ 32
def Tree.rhandle (t : Tree) : Nat := bits (t.w 1) 31 0
def Tree.rslot (t : Tree) : Nat := bits (t.w 1) 34 32
def Tree.raddr (t : Tree) : Nat := bits (t.w 2) 31 0

/-! ### Ports (R4, R403) -/

/-- Column and row of a package cluster. -/
def gridOf (p : Nat) : Nat × Nat := (p / 24 % 2 * 6 + p % 24 % 6, p / 48 * 4 + p % 24 / 6)
/-- The package cluster at a column and row. -/
def clusterAt (x y : Nat) : Nat := (y / 4 * 2 + x / 6) * 24 + y % 4 * 6 + x % 6
/-- The neighbour at port 1 north, 2 east, 3 south, 4 west. -/
def neighbour (p port : Nat) : Nat :=
  let (x, y) := gridOf p
  match port with
  | 1 => clusterAt x ((y + 7) % 8)
  | 2 => clusterAt ((x + 1) % 12) y
  | 3 => clusterAt x ((y + 1) % 8)
  | _ => clusterAt ((x + 11) % 12) y
/-- The input at the neighbour: 24 north, 25 east, 26 south, 27 west. -/
def portInput (port : Nat) : Nat := match port with | 1 => 26 | 2 => 27 | 3 => 24 | _ => 25

/-! ### Results (R400-R402) -/

/-- The result at the root: the elements and the flags travel with the decrement, and come before it in that order (R401, R419);
a failed round posts the recorded trap 0x0C and does nothing else. What lies beyond the root core's own scratchpad (R328) is dropped
(a choice: assumption log, entry 77). -/
def State.rootResult (s : State) (region : Option Nat) (cl : Nat) (t : Tree) (p : RedPacket) : State :=
  let h := t.rhandle
  let c := handleCore h
  match p.tmo with
  | some w => s.postFor region c true 0x0C 8 0 0xFFFFFFFF 0 w 0
  | none =>
    s.sendArrival (.router cl) { handle := h, slot := t.rslot, n := 1, chan := .signal, region := region, flags := p.flags
                                 scratch := [(c, t.raddr, (p.elems.flatMap (natLE (vtWidth p.vt / 8))).take (0x100000 - t.raddr))] }

/-- LINK (R229). -/
def Tree.link (t : Tree) : Nat := bits (t.w 3) 4 0

/-- What a round comes to goes on: to the parent, out through a link port, or to the root core. -/
def State.forwardRound (s : State) (region : Option Nat) (cl id : Nat) (t : Tree) (p : RedPacket) : State :=
  match t.parent with
  | 0 => s.rootResult region cl t p
  | 5 => { s with links := s.links ++ [(t.link, id, { p with fromCluster := cl })] }
  | q => s.send { src := .router cl, dst := .router (neighbour cl q), chan := .reduce, region := region
                  body := .contribution id { p with input := portInput q, fromCluster := cl } none }

/-- The packets of a round in input order. -/
def inputOrder (ps : List RedPacket) : List RedPacket :=
  (List.range 28).filterMap fun i => ps.find? fun p => p.input == i

/-- NREP of a timeout word, and a word with a NREP. -/
def nrep (w : Nat) : Nat := bits w 50 44
def withNrep (w n : Nat) : Nat := putBits w 50 44 (min n 127)

/-- NREP summed over the timeout packets of a round. -/
def nrepSum (ps : List RedPacket) : Nat := ((ps.filterMap (·.tmo)).map nrep).sum

/-- Two packets combined element by element, flags gathered. -/
def combine2 (a b : RedPacket) : RedPacket :=
  let rs := List.zipWith (vecCombine a.op a.vt) a.elems b.elems
  { a with elems := rs.map (·.1), flags := (a.flags ||| b.flags) ||| (rs.foldl (fun f r => f ||| r.2) 0) }

/-- What a round comes to when every input has delivered. -/
def roundResult (ps : List RedPacket) : RedPacket :=
  match (ps.filterMap (·.tmo)).head? with
  | some w => { tmo := some (withNrep w (nrepSum ps)) }
  | none => (ps.drop 1).foldl combine2 (ps.headD {})

/-- The timeout word of a router whose own timer ran out. -/
def timeoutWord (cl id : Nat) (t : Tree) : Nat :=
  let got := (t.got.map fun p => 2 ^ p.input).sum
  withNrep (cl / 24 * 2 ^ 62 + cl % 24 * 2 ^ 57 + id * 2 ^ 51 + (t.inputs - got)) (1 + nrepSum t.got)

/-! ### Rounds (R400, R402) -/

/-- A packet that its input may deliver now joins the round, unless it is a timeout packet that reaches the router with no round
in progress (one that was held reached it before), or a data packet that differs from the round's first. The second part of the
answer is the result of a round that this completes. -/
def Tree.take (t : Tree) (now : Nat) (held : Bool) (p : RedPacket) : Tree × Option RedPacket :=
  let first := t.got.find? fun q => q.tmo.isNone
  let differs := match first with
    | some q => p.tmo.isNone && !(q.op == p.op && q.vt == p.vt && q.elems.length == p.elems.length)
    | none => false
  if (p.tmo.isSome && t.got = [] && !held) || differs then (t, none)
  else
    let got := t.got ++ [p]
    if (setBits 28 t.inputs).all fun i => got.any fun q => q.input == i then
      ({ t with got := [], start := 0 }, some (roundResult (inputOrder got)))
    else ({ t with got := got, start := if t.got = [] then now else t.start }, none)

/-- The packets held for the next round are delivered to it in the order of their arrival; f bounds the rounds they complete. -/
def State.nextRound (s : State) (region : Option Nat) (cl id : Nat) : Nat → State
  | 0 => s
  | f + 1 =>
    match s.tree region cl id with
    | none => s
    | some t =>
      match t.next.find? fun p => !t.got.any fun q => q.input == p.input with
      | none => s
      | some p =>
        let (t', r) := { t with next := t.next.filter fun q => q.input != p.input }.take (s.timerStart region cl) true p
        let s := s.setTree region cl id t'
        let s := match r with
          | some x => s.forwardRound region cl id t' x
          | none => s
        State.nextRound s region cl id f

/-- A round's timer has run out; in the image of a swapped-out region it does not run (R413). -/
def State.roundLate (s : State) (region : Option Nat) (cl : Nat) (t : Tree) : Bool :=
  t.got != [] && s.clusterRegion cl == region && decide (t.start + 2 * t.tmo ≤ s.cycles)

/-- A round whose timer has run out ends, and the next begins with what is held for it (R402). -/
def State.failRound (s : State) (region : Option Nat) (cl id : Nat) (t : Tree) : State :=
  ((s.setTree region cl id { t with got := [], start := 0 }).forwardRound region cl id t
    { tmo := some (timeoutWord cl id t) }).nextRound region cl id 56

/-- A packet from a set input of a bound entry: delivered, or held for the next round. None when one is held already,
and it waits on the reduce channel. A round whose time is over ends first. -/
def State.redTake (s : State) (region : Option Nat) (cl id : Nat) (t : Tree) (p : RedPacket) : Option State :=
  let s := if s.roundLate region cl t then s.failRound region cl id t else s
  let t := (s.tree region cl id).getD t
  if t.got.any fun q => q.input == p.input then
    if t.next.any fun q => q.input == p.input then none
    else some (s.setTree region cl id { t with next := t.next ++ [p] })
  else
    let (t', r) := t.take (s.timerStart region cl) false p
    let s := s.setTree region cl id t'
    match r with
    | some x => some ((s.forwardRound region cl id t' x).nextRound region cl id 56)
    | none => some s

/-- The stray-packet count. -/
def State.stray (s : State) (cl : Nat) : State :=
  let k := s.cluster cl
  s.setCluster cl { k with strayPk := k.strayPk + 1 }

/-- A contribution at its router (R228, R412). -/
def State.contribute (s : State) (region : Option Nat) (cl id : Nat) (p : RedPacket) (r : Ref) : Option State :=
  let no (s : State) : State :=
    (s.postFor r.region r.origin false 0x02 8 0 p.epc p.handle id (statusWord 3 0x02 0)).signal (.router cl) r 3 0x02 0
  match s.tree region cl id with
  | none => some (no s)
  | some t =>
    if !t.inputs.testBit p.input then some (no s)
    else (s.redTake region cl id t p).map (·.signal (.router cl) r 0 0 0)

/-- A child router's packet (R412). -/
def State.childPacket (s : State) (region : Option Nat) (cl id : Nat) (p : RedPacket) : Option State :=
  match s.tree region cl id with
  | none => some (s.stray cl)
  | some t => if !t.inputs.testBit p.input then some (s.stray cl) else s.redTake region cl id t p

/-- A packet that comes to its router: what the router does with it, if it can take it now. -/
def State.redPacket (s : State) (m : Msg) : Option State :=
  match m with
  | { dst := .router cl, region := g, body := .contribution id p r, .. } =>
    match r with
    | some ref => s.contribute g cl id p ref
    | none => s.childPacket g cl id p
  | _ => none

/-- A packet that waits lets another one pass: an entry, or a packet for another input or another tree (R229, R400). -/
def Msg.letsPass (m n : Msg) : Bool :=
  match m.body, n.body with
  | .contribution i p _, .contribution j q _ => i != j || p.input != q.input
  | .contribution .., .treeEntry .. => true
  | _, _ => false

/-- Message k has reached its router: what its sender sent before it has been taken, or waits there and lets it pass. -/
def State.atRouter (s : State) (k : Nat) : Option Msg :=
  match s.msgs[k]? with
  | none => none
  | some m =>
    if (s.msgs.take k).all fun e =>
        !(e.src == m.src && e.dst == m.dst && e.chan == m.chan) || (e.letsPass m && (s.redPacket e).isNone) then some m
    else none

/-- REDUCTION_DELIVERY (R400, R401, R412). -/
def execReductionDelivery (k : Nat) (s : State) : Out :=
  match s.atRouter k with
  | some m => .next (((s.dropMsg k).redPacket m).getD s)
  | none => .next s

/-- TREE_ENTRY_WRITE: the entry is replaced and what it held is discarded (R229). -/
def execTreeEntryWrite (k : Nat) (s : State) : Out :=
  match s.atRouter k with
  | some { dst := .router cl, region := g, body := .treeEntry id ws, .. } =>
    .next ((s.dropMsg k).setTree g cl id { words := ws })
  | _ => .next s

/-- REDUCTION_TIMEOUT: TMO router cycles, two core cycles each, have passed since the round's first delivery (R402). -/
def execReductionTimeout (cl tree : Nat) (s : State) : Out :=
  let g := s.clusterRegion cl
  let t := Sparse.get {} (s.cluster cl).trees tree
  .next (if s.roundLate g cl t then s.failRound g cl tree t else s)

/-! ### REDSEND and REDCFG -/

/-- REDSEND (R228). -/
def opRedsend (k : Ctx) (s : State) : Out :=
  run false k s fun s =>
    let v := k.vA s
    let n := k.vB s
    let w := vtWidth k.m / 8
    if n = 0 ∨ 256 < n * w then trapOut s 0x02 n
    else checkLocal s v (n * w) 64 <| withRef k s fun r =>
      let s := (issued s r).localReach s.cur v (n * w)
      let id := bits k.imm 5 0
      if s.localBad s.cur v (n * w) then
        .next (((s.post s.cur false 0x10 6 0 s.me.pl.pc s.me.pl.handle v (statusWord 3 0x10 0)).signal (.engine s.cur) r 3
          0x10 0).advance k.len)
      else
        let es := (List.range n).map fun i => s.localN s.cur (v + w * i) w
        .next ((s.send { src := .core s.cur, dst := .router (clusterOf s.cur), chan := .reduce, region := s.regionOf s.cur
                         body := .contribution id { input := bits s.cur 4 0, op := k.xop, vt := k.m, elems := es
                                                    epc := s.me.pl.pc, handle := s.me.pl.handle } (some r) }).advance k.len)

/-- A descriptor word of REDCFG that R229 refuses with cause 0x02. -/
def redcfgBad (s : State) (ws : List Nat) : Option Nat :=
  let w (i : Nat) : Nat := ws.getD i 0
  let root := bits (w 0) 30 28 == 0
  let cores := setBits 24 (w 0)
  if (w 0).testBit 31 || decide (6 ≤ bits (w 0) 30 28) then some (w 0)
  else if bits (w 1) 63 35 ≠ 0 then some (w 1)
  else if bits (w 2) 63 32 ≠ 0 then some (w 2)
  else if bits (w 3) 63 5 ≠ 0 then some (w 3)
  else match (ws.drop 4).find? (· != 0) with
    | some x => some x
    | none =>
      if 17 < bits (w 3) 4 0 then some (w 3)
      else if cores.any fun i => !s.inRegion s.cur (coreOf (clusterOf s.cur) i) then some (w 0)
      else if root && !aligned (bits (w 2) 31 0) 64 then some (w 2)
      else none

/-- REDCFG (R229): RADDR lies in the root core's own scratchpad (R328), else cause 0x05 (a choice: assumption log, entry 77). -/
def opRedcfg (k : Ctx) (s : State) : Out :=
  run false k s fun s =>
    let v := k.vA s
    checkLocal s v 64 64 <|
      let s := s.localReach s.cur v 64
      checkEcc s v 64 <|
        let ws := (List.range 8).map fun i => s.localN s.cur (v + 8 * i) 8
        let h := bits (ws.getD 1 0) 31 0
        match redcfgBad s ws with
        | some x => trapOut s 0x02 x
        | none =>
          let root := bits (ws.getD 0 0) 30 28 = 0
          let raddr := bits (ws.getD 2 0) 31 0
          if root ∧ !s.handleOk s.cur h then trapOut s 0x06 h
          else if root ∧ 0x100000 ≤ raddr then trapOut s 0x05 raddr
          else .next ((s.send { src := .core s.cur, dst := .router (clusterOf s.cur), chan := .reduce, region := s.regionOf s.cur
                                body := .treeEntry (bits k.imm 5 0) ws }).advance k.len)

/-- REDSEND (R228). -/
def execRedsend (o : Ext) (s : State) : Out := opRedsend (ctxX 0x86 o) s

/-- REDCFG (R229). -/
def execRedcfg (o : Ext) (s : State) : Out := opRedcfg (ctxX 0x87 o) s

end Sys2Proof.Machine
end

