-- ==== Sys2Proof/Machine/Start.lean ====
section
/-! DEFINITION. Completion of packets (R17), reset and start-up (R89, R90, R330, R351), firmware's own acts (R331, R351, R356,
R440), board management (R94), and claims on their own (R420). -/

namespace Sys2Proof.Machine

/-! ### Completion (R17, R77) -/

/-- The packet of queue q has come to the point that R77 states for its command. -/
def State.finished (s : State) (q : Nat) (e : Exec) : Bool :=
  e.done ||
  match e.pkt.cmd with
  | 4 => decide (e.pkt.w 2 ≤ (s.queue (e.pkt.w 1)).cmpl.toNat)
  | 8 => s.fenceDone q e
  | 1 => e.pkt.image == 0 && decide ((s.region e.pkt.regionId).state = 1) && s.unloaded e.pkt.regionId e
  | _ => false

/-- PACKET_COMPLETE: a packet that has finished is counted; a packet whose CMD is reserved is rejected in its turn. -/
def execPacketComplete (q : Nat) (s : State) : Out :=
  match (s.queue q).exec with
  | some e =>
    if !s.leads || e.again || !s.finished q e then .next s
    else
      let s := if e.pkt.cmd = 1 ∧ e.pkt.image = 0 ∧ !e.done then s.freeRegion e.pkt.regionId else s
      let s := s.completePacket q
      .next (if e.pkt.cmd = 4 then s.unstage else s)
  | none =>
    match s.beginning q with
    | some p => if 9 < p.cmd then .next (s.reject q p 0x02) else .next s
    | none => .next s

/-! ### Reset and start-up (R89, R90) -/

/-- POWER_ON_RESET: every field at its reset value; HBM keeps what it holds, under key pairs that nothing selects any more
(R351). The boot flash, the host and what has been drawn from the random source are not the module's. -/
def State.powerOn (s : State) : State :=
  { State.reset with
    sched := s.sched
    draws := s.draws
    fw := { State.reset.fw with boots := s.fw.boots + 1 }
    port := { State.reset.port with hostMem := s.port.hostMem, replies := s.port.replies }
    dies := (List.range 4).foldl (fun m i => Sparse.set {} m i { flash := (s.die i).flash }) []
    mem := { State.reset.mem with
      cells := s.mem.cells.filter fun e => decide (e.1 < 0xC000000000)
      empty := s.mem.empty.filter fun e => decide (e.1 < 0xC000000000 / 64)
      poison := s.mem.poison.filter fun e => decide (e.1 < 0xC000000000 / 64)
      bad := s.mem.bad.filter fun e => decide (e.1 < 0xC000000000 / 64)
      soft := s.mem.soft.filter fun e => decide (e.1 < 0xC000000000 / 64)
      pairs := Sparse.mapV none (fun _ _ => some (.drawn s.fw.boots 1024)) s.mem.pairs } }

def execPowerOnReset (s : State) : Out := .next s.powerOn

/-- The package clusters of a die, as bits. -/
def dieClusters (die : Nat) : Nat := ones 24 * 2 ^ (24 * die)

/-- b to the power e modulo m, e below 2 to the power of the first argument. -/
def powMod (m : Nat) : Nat → Nat → Nat → Nat
  | 0, _, _ => 1 % m
  | f + 1, b, e =>
    let r := powMod m f (b * b % m) (e / 2)
    if e % 2 = 1 then b * r % m else r

/-- A number of bytes, most significant first. -/
def beNat (bs : List Byte) : Nat := bs.foldl (fun v b => v * 256 + b.toNat) 0

/-- The boot ROM's verification (R90): the public key is the fused one, and the signature is that of the image's digest. The
layout of the flash is the model's (assumption log, entry 61). -/
def Flash.verified (f : Flash) (die : Nat) : Bool :=
  let n := beNat (f.key.take 384)
  sha256 f.key == Config.fusedKey die && decide (f.sig < n) &&
    powMod n (8 * f.key.length) f.sig (beNat (f.key.drop 384)) == (Config.signatureBlock (sha256 f.image)).toNat

/-- The firmware core of a die begins its image, in supervisor mode, from its private SRAM (R86). -/
def State.startFirmware (s : State) (die : Nat) : State :=
  let d := s.die die
  (s.setDie die { d with boot := 1, firmware := d.flash.image }).setCore (fwCore die) {
    pl := { pipe := if d.fwAlive then .run else .parked, sup := true, resident := false }
    scr := { bytes := writeCells [] 0 (d.flash.image.take 0x40000) } }

/-- A firmware core stops or goes on (R87). -/
def State.setAlive (s : State) (die : Nat) (alive : Bool) : State :=
  let s := s.setDie die { s.die die with fwAlive := alive }
  if (s.die die).boot = 1 then
    s.modCore (fwCore die) (·.modPl fun p => { p with pipe := if alive then .run else .parked })
  else s

/-- BOOT_VERIFY: the boot ROM reads and checks its die's firmware. -/
def execBootVerify (die : Nat) (s : State) : Out :=
  .next (if (s.die die).boot ≠ 0 then s
    else if (s.die die).flash.verified die then s.startFirmware die
    else { s with fw := { s.fw with fenced := s.fw.fenced ||| dieClusters die } }.setDie die { s.die die with boot := 2 })

/-- HBM_TRAINING: the stacks in their order; every line of the stack becomes full (R330). -/
def execHbmTraining (stack : Nat) (s : State) : Out :=
  if s.fw.trained ≠ stack then .next s
  else .next { s with
    fw := { s.fw with trained := stack + 1 }
    mem := { s.mem with
      empty := s.mem.empty.filter fun e => !(decide (e.1 < 0xC000000000 / 64) && e.1 / 4 % 12 == stack) } }

/-- CLUSTER_POWER_UP: 30 ms + 5 µs × n after reset, at 4,000 core cycles a microsecond. -/
def execClusterPowerUp (cl : Nat) (s : State) : Out :=
  if s.fw.powered = cl ∧ 120000000 + 20000 * cl ≤ s.cycles then .next { s with fw := { s.fw with powered := cl + 1 } }
  else .next s

/-! ### Firmware (R331, R351, R356, R440) -/

/-- KEY_LOAD, by the die's firmware core. -/
def execKeyLoad (die id : Nat) (pair : BitVec 512) (s : State) : Out :=
  if s.fwRuns die then
    .next { s with mem := { s.mem with keys := Sparse.set none s.mem.keys (256 * die + id) (some (.loaded pair)) } }
  else .next s

/-- Lines leave a slice, written back, until it holds no more than it can; f bounds them. -/
def State.shrink (s : State) (h : Nat) : Nat → State
  | 0 => s
  | f + 1 =>
    if (s.slice h).lines.length ≤ (s.slice h).capacity then s
    else match pickVictim (s.slice h).lines none with
      | some (k, _) => State.shrink ((s.writeBack h k).setCline h k none) h f
      | none => s

/-- SLICE_CONFIGURATION_WRITE: only while no region is loaded; lines that the direct part takes over are written back. -/
def execSliceConfigurationWrite (slice : Nat) (data : BitVec 64) (s : State) : Out :=
  if (s.regions.any fun r => r.2.state == 1) || !s.fwRuns (slice / 64) || bits data.toNat 63 48 != 0 || bits data.toNat 11 0 != 0 then
    .next s
  else
    let l := s.slice slice
    .next ((s.setSlice slice { l with config := data }).shrink slice l.lines.length)

/-- The threadlet that runs on a core of a fenced cluster is restarted elsewhere, or lost. -/
def State.fenceCore (s : State) (c : Nat) : State :=
  if (s.core c).pl.live then (s.restartRunning c).getD (s.endThreadlet c true) else s

/-- CLUSTER_FENCE. -/
def execClusterFence (cl : Nat) (s : State) : Out :=
  .next ((coresOf cl).foldl State.fenceCore { s with fw := { s.fw with fenced := s.fw.fenced ||| 2 ^ cl } })

/-- BLOCK_CLAIM: what an access of the weave that runs on a core does before it is performed. -/
def execBlockClaim (c block : Nat) (s : State) : Out :=
  if (s.regionOf c).isSome then .next (s.claimBlock c block) else .next s

/-! ### Board management (R94) -/

/-- An answer over I3C. -/
def State.i3cAnswer (s : State) (w : Word) : State :=
  { s with port := { s.port with replies := s.port.replies ++ [[w]] } }

/-- I3C_READ: temperatures (0-3) and power (4-7) of the dies, as their firmware last recorded them, their boot status (8-11), the
fenced clusters (12, 13), readiness (14). -/
def execI3cRead (item : Nat) (s : State) : Out :=
  if item < 4 then .next (s.i3cAnswer (s.die item).temp)
  else if item < 8 then .next (s.i3cAnswer (s.die (item - 4)).power)
  else if item < 12 then .next (s.i3cAnswer (Config.code 0 (s.die (item - 8)).boot))
  else if item = 12 then .next (s.i3cAnswer (BitVec.ofNat 64 s.fw.fenced))
  else if item = 13 then .next (s.i3cAnswer (BitVec.ofNat 64 (s.fw.fenced / 2 ^ 64)))
  else if item = 14 then .next (s.i3cAnswer (if s.fw.ready then 1 else 0))
  else .next s

/-- I3C_RESET_REQUEST: the module resets. -/
def execI3cResetRequest (s : State) : Out := .next s.powerOn

/-- I3C_DYNAMIC_ADDRESS_ASSIGNMENT. -/
def execI3cDynamicAddressAssignment (addr : BitVec 7) (s : State) : Out := .next { s with fw := { s.fw with i3cAddr := addr } }

/-- THERMAL_ALARM: the in-band interrupt stands. -/
def execThermalAlarm (die : Nat) (s : State) : Out := .next (s.setDie die { s.die die with alarm := true })

end Sys2Proof.Machine
end

