-- ==== Sys2Proof/Machine/Dispatch.lean ====
section
/-! DEFINITION. What each instruction does: one arm per constructor, one direct call of its meaning. -/

namespace Sys2Proof.Machine

def exec (i : Instr) (s : State) : Host.Outcome State Fault Refusal :=
  match i with
  | .endInstr o => Sys2Proof.Machine.execEndInstr o s
  | .fork o => Sys2Proof.Machine.execFork o s
  | .free o => Sys2Proof.Machine.execFree o s
  | .sig o => Sys2Proof.Machine.execSig o s
  | .sigv o => Sys2Proof.Machine.execSigv o s
  | .arm o => Sys2Proof.Machine.execArm o s
  | .slotrd o => Sys2Proof.Machine.execSlotrd o s
  | .roam o => Sys2Proof.Machine.execRoam o s
  | .prio o => Sys2Proof.Machine.execPrio o s
  | .bar o => Sys2Proof.Machine.execBar o s
  | .barcfg o => Sys2Proof.Machine.execBarcfg o s
  | .dqpush o => Sys2Proof.Machine.execDqpush o s
  | .dqpop o => Sys2Proof.Machine.execDqpop o s
  | .dqsteal o => Sys2Proof.Machine.execDqsteal o s
  | .wdq o => Sys2Proof.Machine.execWdq o s
  | .br o => Sys2Proof.Machine.execBr o s
  | .brExt o => Sys2Proof.Machine.execBrExt o s
  | .jal o => Sys2Proof.Machine.execJal o s
  | .jalExt o => Sys2Proof.Machine.execJalExt o s
  | .jalr o => Sys2Proof.Machine.execJalr o s
  | .jalrExt o => Sys2Proof.Machine.execJalrExt o s
  | .dbnz o => Sys2Proof.Machine.execDbnz o s
  | .dbnzExt o => Sys2Proof.Machine.execDbnzExt o s
  | .termw o => Sys2Proof.Machine.execTermw o s
  | .cancelInstruction o => Sys2Proof.Machine.execCancelInstruction o s
  | .mfs o => Sys2Proof.Machine.execMfs o s
  | .mts o => Sys2Proof.Machine.execMts o s
  | .svc o => Sys2Proof.Machine.execSvc o s
  | .trap o => Sys2Proof.Machine.execTrap o s
  | .rfe o => Sys2Proof.Machine.execRfe o s
  | .brk o => Sys2Proof.Machine.execBrk o s
  | .waiti o => Sys2Proof.Machine.execWaiti o s
  | .synci o => Sys2Proof.Machine.execSynci o s
  | .add o => Sys2Proof.Machine.execAdd o s
  | .addExt o => Sys2Proof.Machine.execAddExt o s
  | .sub o => Sys2Proof.Machine.execSub o s
  | .subExt o => Sys2Proof.Machine.execSubExt o s
  | .mul o => Sys2Proof.Machine.execMul o s
  | .mulExt o => Sys2Proof.Machine.execMulExt o s
  | .mulh o => Sys2Proof.Machine.execMulh o s
  | .mulhExt o => Sys2Proof.Machine.execMulhExt o s
  | .mulhn o => Sys2Proof.Machine.execMulhn o s
  | .mulhnExt o => Sys2Proof.Machine.execMulhnExt o s
  | .div o => Sys2Proof.Machine.execDiv o s
  | .divExt o => Sys2Proof.Machine.execDivExt o s
  | .divn o => Sys2Proof.Machine.execDivn o s
  | .divnExt o => Sys2Proof.Machine.execDivnExt o s
  | .rem o => Sys2Proof.Machine.execRem o s
  | .remExt o => Sys2Proof.Machine.execRemExt o s
  | .remn o => Sys2Proof.Machine.execRemn o s
  | .remnExt o => Sys2Proof.Machine.execRemnExt o s
  | .and o => Sys2Proof.Machine.execAnd o s
  | .andExt o => Sys2Proof.Machine.execAndExt o s
  | .or o => Sys2Proof.Machine.execOr o s
  | .orExt o => Sys2Proof.Machine.execOrExt o s
  | .xor o => Sys2Proof.Machine.execXor o s
  | .xorExt o => Sys2Proof.Machine.execXorExt o s
  | .andn o => Sys2Proof.Machine.execAndn o s
  | .andnExt o => Sys2Proof.Machine.execAndnExt o s
  | .orn o => Sys2Proof.Machine.execOrn o s
  | .ornExt o => Sys2Proof.Machine.execOrnExt o s
  | .shl o => Sys2Proof.Machine.execShl o s
  | .shlExt o => Sys2Proof.Machine.execShlExt o s
  | .shr o => Sys2Proof.Machine.execShr o s
  | .shrExt o => Sys2Proof.Machine.execShrExt o s
  | .sha o => Sys2Proof.Machine.execSha o s
  | .shaExt o => Sys2Proof.Machine.execShaExt o s
  | .rot o => Sys2Proof.Machine.execRot o s
  | .rotExt o => Sys2Proof.Machine.execRotExt o s
  | .min o => Sys2Proof.Machine.execMin o s
  | .minExt o => Sys2Proof.Machine.execMinExt o s
  | .max o => Sys2Proof.Machine.execMax o s
  | .maxExt o => Sys2Proof.Machine.execMaxExt o s
  | .minn o => Sys2Proof.Machine.execMinn o s
  | .minnExt o => Sys2Proof.Machine.execMinnExt o s
  | .maxn o => Sys2Proof.Machine.execMaxn o s
  | .maxnExt o => Sys2Proof.Machine.execMaxnExt o s
  | .abs o => Sys2Proof.Machine.execAbs o s
  | .absExt o => Sys2Proof.Machine.execAbsExt o s
  | .neg o => Sys2Proof.Machine.execNeg o s
  | .negExt o => Sys2Proof.Machine.execNegExt o s
  | .cmp o => Sys2Proof.Machine.execCmp o s
  | .cmpExt o => Sys2Proof.Machine.execCmpExt o s
  | .sel o => Sys2Proof.Machine.execSel o s
  | .selExt o => Sys2Proof.Machine.execSelExt o s
  | .mov o => Sys2Proof.Machine.execMov o s
  | .movExt o => Sys2Proof.Machine.execMovExt o s
  | .clz o => Sys2Proof.Machine.execClz o s
  | .clzExt o => Sys2Proof.Machine.execClzExt o s
  | .ctz o => Sys2Proof.Machine.execCtz o s
  | .ctzExt o => Sys2Proof.Machine.execCtzExt o s
  | .ffs o => Sys2Proof.Machine.execFfs o s
  | .ffsExt o => Sys2Proof.Machine.execFfsExt o s
  | .popc o => Sys2Proof.Machine.execPopc o s
  | .popcExt o => Sys2Proof.Machine.execPopcExt o s
  | .brev o => Sys2Proof.Machine.execBrev o s
  | .brevExt o => Sys2Proof.Machine.execBrevExt o s
  | .bfx o => Sys2Proof.Machine.execBfx o s
  | .bfi o => Sys2Proof.Machine.execBfi o s
  | .sext o => Sys2Proof.Machine.execSext o s
  | .sextExt o => Sys2Proof.Machine.execSextExt o s
  | .zext o => Sys2Proof.Machine.execZext o s
  | .zextExt o => Sys2Proof.Machine.execZextExt o s
  | .lea o => Sys2Proof.Machine.execLea o s
  | .leaExt o => Sys2Proof.Machine.execLeaExt o s
  | .madd o => Sys2Proof.Machine.execMadd o s
  | .pand o => Sys2Proof.Machine.execPand o s
  | .por o => Sys2Proof.Machine.execPor o s
  | .pxor o => Sys2Proof.Machine.execPxor o s
  | .pnot o => Sys2Proof.Machine.execPnot o s
  | .pmov o => Sys2Proof.Machine.execPmov o s
  | .slice o => Sys2Proof.Machine.execSlice o s
  | .fadd o => Sys2Proof.Machine.execFadd o s
  | .faddExt o => Sys2Proof.Machine.execFaddExt o s
  | .fsub o => Sys2Proof.Machine.execFsub o s
  | .fsubExt o => Sys2Proof.Machine.execFsubExt o s
  | .fmul o => Sys2Proof.Machine.execFmul o s
  | .fmulExt o => Sys2Proof.Machine.execFmulExt o s
  | .ffma o => Sys2Proof.Machine.execFfma o s
  | .fdiv o => Sys2Proof.Machine.execFdiv o s
  | .fdivExt o => Sys2Proof.Machine.execFdivExt o s
  | .fsqrt o => Sys2Proof.Machine.execFsqrt o s
  | .fsqrtExt o => Sys2Proof.Machine.execFsqrtExt o s
  | .fmin o => Sys2Proof.Machine.execFmin o s
  | .fminExt o => Sys2Proof.Machine.execFminExt o s
  | .fmax o => Sys2Proof.Machine.execFmax o s
  | .fmaxExt o => Sys2Proof.Machine.execFmaxExt o s
  | .fcmp o => Sys2Proof.Machine.execFcmp o s
  | .fcvt o => Sys2Proof.Machine.execFcvt o s
  | .fabs o => Sys2Proof.Machine.execFabs o s
  | .fneg o => Sys2Proof.Machine.execFneg o s
  | .fclass o => Sys2Proof.Machine.execFclass o s
  | .ld o => Sys2Proof.Machine.execLd o s
  | .ldExt o => Sys2Proof.Machine.execLdExt o s
  | .st o => Sys2Proof.Machine.execSt o s
  | .stExt o => Sys2Proof.Machine.execStExt o s
  | .ldf o => Sys2Proof.Machine.execLdf o s
  | .stf o => Sys2Proof.Machine.execStf o s
  | .stfExt o => Sys2Proof.Machine.execStfExt o s
  | .feop o => Sys2Proof.Machine.execFeop o s
  | .feopExt o => Sys2Proof.Machine.execFeopExt o s
  | .fetch o => Sys2Proof.Machine.execFetch o s
  | .post o => Sys2Proof.Machine.execPost o s
  | .stn o => Sys2Proof.Machine.execStn o s
  | .drain o => Sys2Proof.Machine.execDrain o s
  | .fence o => Sys2Proof.Machine.execFence o s
  | .aop o => Sys2Proof.Machine.execAop o s
  | .acas o => Sys2Proof.Machine.execAcas o s
  | .bupd o => Sys2Proof.Machine.execBupd o s
  | .pref o => Sys2Proof.Machine.execPref o s
  | .prefExt o => Sys2Proof.Machine.execPrefExt o s
  | .get o => Sys2Proof.Machine.execGet o s
  | .put o => Sys2Proof.Machine.execPut o s
  | .copy o => Sys2Proof.Machine.execCopy o s
  | .enq o => Sys2Proof.Machine.execEnq o s
  | .deq o => Sys2Proof.Machine.execDeq o s
  | .qcfg o => Sys2Proof.Machine.execQcfg o s
  | .sbind o => Sys2Proof.Machine.execSbind o s
  | .sunb o => Sys2Proof.Machine.execSunb o s
  | .redsend o => Sys2Proof.Machine.execRedsend o s
  | .redcfg o => Sys2Proof.Machine.execRedcfg o s
  | .tlbi o => Sys2Proof.Machine.execTlbi o s
  | .cflush o => Sys2Proof.Machine.execCflush o s
  | .vadd o => Sys2Proof.Machine.execVadd o s
  | .vaddExt o => Sys2Proof.Machine.execVaddExt o s
  | .vsub o => Sys2Proof.Machine.execVsub o s
  | .vsubExt o => Sys2Proof.Machine.execVsubExt o s
  | .vmul o => Sys2Proof.Machine.execVmul o s
  | .vmulExt o => Sys2Proof.Machine.execVmulExt o s
  | .vfma o => Sys2Proof.Machine.execVfma o s
  | .vfmaExt o => Sys2Proof.Machine.execVfmaExt o s
  | .vmin o => Sys2Proof.Machine.execVmin o s
  | .vminExt o => Sys2Proof.Machine.execVminExt o s
  | .vmax o => Sys2Proof.Machine.execVmax o s
  | .vmaxExt o => Sys2Proof.Machine.execVmaxExt o s
  | .vabs o => Sys2Proof.Machine.execVabs o s
  | .vabsExt o => Sys2Proof.Machine.execVabsExt o s
  | .vneg o => Sys2Proof.Machine.execVneg o s
  | .vnegExt o => Sys2Proof.Machine.execVnegExt o s
  | .vcmp o => Sys2Proof.Machine.execVcmp o s
  | .vcmpExt o => Sys2Proof.Machine.execVcmpExt o s
  | .vsel o => Sys2Proof.Machine.execVsel o s
  | .vselExt o => Sys2Proof.Machine.execVselExt o s
  | .vand o => Sys2Proof.Machine.execVand o s
  | .vandExt o => Sys2Proof.Machine.execVandExt o s
  | .vor o => Sys2Proof.Machine.execVor o s
  | .vorExt o => Sys2Proof.Machine.execVorExt o s
  | .vxor o => Sys2Proof.Machine.execVxor o s
  | .vxorExt o => Sys2Proof.Machine.execVxorExt o s
  | .vshl o => Sys2Proof.Machine.execVshl o s
  | .vshlExt o => Sys2Proof.Machine.execVshlExt o s
  | .vshr o => Sys2Proof.Machine.execVshr o s
  | .vshrExt o => Sys2Proof.Machine.execVshrExt o s
  | .viadd o => Sys2Proof.Machine.execViadd o s
  | .viaddExt o => Sys2Proof.Machine.execViaddExt o s
  | .vimul o => Sys2Proof.Machine.execVimul o s
  | .vimulExt o => Sys2Proof.Machine.execVimulExt o s
  | .vcvt o => Sys2Proof.Machine.execVcvt o s
  | .vred o => Sys2Proof.Machine.execVred o s
  | .vredExt o => Sys2Proof.Machine.execVredExt o s
  | .vscan o => Sys2Proof.Machine.execVscan o s
  | .vscanExt o => Sys2Proof.Machine.execVscanExt o s
  | .vexp2 o => Sys2Proof.Machine.execVexp2 o s
  | .vexp2Ext o => Sys2Proof.Machine.execVexp2Ext o s
  | .vlog2 o => Sys2Proof.Machine.execVlog2 o s
  | .vlog2Ext o => Sys2Proof.Machine.execVlog2Ext o s
  | .vrcp o => Sys2Proof.Machine.execVrcp o s
  | .vrcpExt o => Sys2Proof.Machine.execVrcpExt o s
  | .vrsq o => Sys2Proof.Machine.execVrsq o s
  | .vrsqExt o => Sys2Proof.Machine.execVrsqExt o s
  | .vsqrt o => Sys2Proof.Machine.execVsqrt o s
  | .vsqrtExt o => Sys2Proof.Machine.execVsqrtExt o s
  | .vsin o => Sys2Proof.Machine.execVsin o s
  | .vsinExt o => Sys2Proof.Machine.execVsinExt o s
  | .vcos o => Sys2Proof.Machine.execVcos o s
  | .vcosExt o => Sys2Proof.Machine.execVcosExt o s
  | .vtanh o => Sys2Proof.Machine.execVtanh o s
  | .vtanhExt o => Sys2Proof.Machine.execVtanhExt o s
  | .vsigm o => Sys2Proof.Machine.execVsigm o s
  | .vsigmExt o => Sys2Proof.Machine.execVsigmExt o s
  | .vperm o => Sys2Proof.Machine.execVperm o s
  | .vpermExt o => Sys2Proof.Machine.execVpermExt o s
  | .vbcast o => Sys2Proof.Machine.execVbcast o s
  | .vbcastExt o => Sys2Proof.Machine.execVbcastExt o s
  | .vmov o => Sys2Proof.Machine.execVmov o s
  | .vmovExt o => Sys2Proof.Machine.execVmovExt o s
  | .vld o => Sys2Proof.Machine.execVld o s
  | .vldExt o => Sys2Proof.Machine.execVldExt o s
  | .vst o => Sys2Proof.Machine.execVst o s
  | .vstExt o => Sys2Proof.Machine.execVstExt o s
  | .vgath o => Sys2Proof.Machine.execVgath o s
  | .vgathExt o => Sys2Proof.Machine.execVgathExt o s
  | .vscat o => Sys2Proof.Machine.execVscat o s
  | .vscatExt o => Sys2Proof.Machine.execVscatExt o s
  | .vrand o => Sys2Proof.Machine.execVrand o s
  | .vrandExt o => Sys2Proof.Machine.execVrandExt o s
  | .vqnt o => Sys2Proof.Machine.execVqnt o s
  | .vdot o => Sys2Proof.Machine.execVdot o s
  | .vdotExt o => Sys2Proof.Machine.execVdotExt o s
  | .tld o => Sys2Proof.Machine.execTld o s
  | .tacld o => Sys2Proof.Machine.execTacld o s
  | .tacst o => Sys2Proof.Machine.execTacst o s
  | .tacz o => Sys2Proof.Machine.execTacz o s
  | .tmma o => Sys2Proof.Machine.execTmma o s
  | .tmmas o => Sys2Proof.Machine.execTmmas o s
  | .tmmsp o => Sys2Proof.Machine.execTmmsp o s
  | .spcomp o => Sys2Proof.Machine.execSpcomp o s
  | .spinv o => Sys2Proof.Machine.execSpinv o s
  | .tcvt o => Sys2Proof.Machine.execTcvt o s
  | .tred o => Sys2Proof.Machine.execTred o s
  | .tnorm o => Sys2Proof.Machine.execTnorm o s
  | .tsmax o => Sys2Proof.Machine.execTsmax o s
  | .ttrn o => Sys2Proof.Machine.execTtrn o s
  | .tmask o => Sys2Proof.Machine.execTmask o s
  | .tadd o => Sys2Proof.Machine.execTadd o s
  | .shld o => Sys2Proof.Machine.execShld o s
  | .shinv o => Sys2Proof.Machine.execShinv o s
  | .shbnd o => Sys2Proof.Machine.execShbnd o s
  | .rgld o => Sys2Proof.Machine.execRgld o s
  | .texlog o => Sys2Proof.Machine.execTexlog o s
  | .nop => Sys2Proof.Machine.execNop s
  | .nopc q => Sys2Proof.Machine.execNopc q s
  | .loadw q => Sys2Proof.Machine.execLoadw q s
  | .loadwUnload q => Sys2Proof.Machine.execLoadwUnload q s
  | .gatesOpen q => Sys2Proof.Machine.execGatesOpen q s
  | .gatesClose q => Sys2Proof.Machine.execGatesClose q s
  | .arrive q => Sys2Proof.Machine.execArrive q s
  | .waitq q => Sys2Proof.Machine.execWaitq q s
  | .signal q => Sys2Proof.Machine.execSignal q s
  | .swap q => Sys2Proof.Machine.execSwap q s
  | .swapRestore q => Sys2Proof.Machine.execSwapRestore q s
  | .cancel q => Sys2Proof.Machine.execCancel q s
  | .cancelClr q => Sys2Proof.Machine.execCancelClr q s
  | .fencec q => Sys2Proof.Machine.execFencec q s
  | .stamp q => Sys2Proof.Machine.execStamp q s
  | .packetAccept q => Sys2Proof.Machine.execPacketAccept q s
  | .packetComplete q => Sys2Proof.Machine.execPacketComplete q s
  | .packetAging q => Sys2Proof.Machine.execPacketAging q s
  | .leaseRenew die => Sys2Proof.Machine.execLeaseRenew die s
  | .leaseCheck die => Sys2Proof.Machine.execLeaseCheck die s
  | .debugRead tag saddr => Sys2Proof.Machine.execDebugRead tag saddr s
  | .debugWrite tag saddr data => Sys2Proof.Machine.execDebugWrite tag saddr data s
  | .debugAttest tag data nonce => Sys2Proof.Machine.execDebugAttest tag data nonce s
  | .windowWrite tag saddr data => Sys2Proof.Machine.execWindowWrite tag saddr data s
  | .errorWordClear tag data => Sys2Proof.Machine.execErrorWordClear tag data s
  | .qctlEnable tag q data => Sys2Proof.Machine.execQctlEnable tag q data s
  | .qctlResumeRetry tag q data => Sys2Proof.Machine.execQctlResumeRetry tag q data s
  | .qctlResumeSkip tag q data => Sys2Proof.Machine.execQctlResumeSkip tag q data s
  | .hostWindowAccess write addr bytes => Sys2Proof.Machine.execHostWindowAccess write addr bytes s
  | .powerOnReset => Sys2Proof.Machine.execPowerOnReset s
  | .bootVerify die => Sys2Proof.Machine.execBootVerify die s
  | .hbmTraining stack => Sys2Proof.Machine.execHbmTraining stack s
  | .clusterPowerUp cl => Sys2Proof.Machine.execClusterPowerUp cl s
  | .keyLoad die id pair => Sys2Proof.Machine.execKeyLoad die id pair s
  | .sliceConfigurationWrite slice data => Sys2Proof.Machine.execSliceConfigurationWrite slice data s
  | .i3cRead item => Sys2Proof.Machine.execI3cRead item s
  | .i3cResetRequest => Sys2Proof.Machine.execI3cResetRequest s
  | .i3cDynamicAddressAssignment addr => Sys2Proof.Machine.execI3cDynamicAddressAssignment addr s
  | .thermalAlarm die => Sys2Proof.Machine.execThermalAlarm die s
  | .arrival k => Sys2Proof.Machine.execArrival k s
  | .armMessage k => Sys2Proof.Machine.execArmMessage k s
  | .freeMessage k => Sys2Proof.Machine.execFreeMessage k s
  | .forkRequest k => Sys2Proof.Machine.execForkRequest k s
  | .roamArrival k => Sys2Proof.Machine.execRoamArrival k s
  | .backlogServe c => Sys2Proof.Machine.execBacklogServe c s
  | .spillComplete c fix => Sys2Proof.Machine.execSpillComplete c fix s
  | .fillComplete c fix => Sys2Proof.Machine.execFillComplete c fix s
  | .firingIssue c => Sys2Proof.Machine.execFiringIssue c s
  | .promotion c level => Sys2Proof.Machine.execPromotion c level s
  | .cancelAcknowledge k => Sys2Proof.Machine.execCancelAcknowledge k s
  | .unloadAcknowledge c => Sys2Proof.Machine.execUnloadAcknowledge c s
  | .watermarkReport k => Sys2Proof.Machine.execWatermarkReport k s
  | .enqArrival k => Sys2Proof.Machine.execEnqArrival k s
  | .steal k => Sys2Proof.Machine.execSteal k s
  | .tensorRow c => Sys2Proof.Machine.execTensorRow c s
  | .copyPiece c => Sys2Proof.Machine.execCopyPiece c s
  | .copyAging c n => Sys2Proof.Machine.execCopyAging c n s
  | .streamGroup c => Sys2Proof.Machine.execStreamGroup c s
  | .rowWaitTimeout c n => Sys2Proof.Machine.execRowWaitTimeout c n s
  | .ldfTimeout slice n => Sys2Proof.Machine.execLdfTimeout slice n s
  | .remoteTimeout c n => Sys2Proof.Machine.execRemoteTimeout c n s
  | .globalAccess k => Sys2Proof.Machine.execGlobalAccess k s
  | .lineFill slice n => Sys2Proof.Machine.execLineFill slice n s
  | .faultRecord k => Sys2Proof.Machine.execFaultRecord k s
  | .faultReplyResume k => Sys2Proof.Machine.execFaultReplyResume k s
  | .faultReplyAbort k => Sys2Proof.Machine.execFaultReplyAbort k s
  | .heldAccessRelease slice n => Sys2Proof.Machine.execHeldAccessRelease slice n s
  | .storeAcknowledge k => Sys2Proof.Machine.execStoreAcknowledge k s
  | .storeRefusal k => Sys2Proof.Machine.execStoreRefusal k s
  | .watchAdvance k => Sys2Proof.Machine.execWatchAdvance k s
  | .scrub loc => Sys2Proof.Machine.execScrub loc s
  | .prismServe k => Sys2Proof.Machine.execPrismServe k s
  | .prismCompile cl => Sys2Proof.Machine.execPrismCompile cl s
  | .beaconOpen k => Sys2Proof.Machine.execBeaconOpen k s
  | .beaconNext k => Sys2Proof.Machine.execBeaconNext k s
  | .beaconClose k => Sys2Proof.Machine.execBeaconClose k s
  | .treeEntryWrite k => Sys2Proof.Machine.execTreeEntryWrite k s
  | .reductionDelivery k => Sys2Proof.Machine.execReductionDelivery k s
  | .reductionTimeout cl tree => Sys2Proof.Machine.execReductionTimeout cl tree s
  | .duskSample die n => Sys2Proof.Machine.execDuskSample die n s
  | .livelockWindow region die => Sys2Proof.Machine.execLivelockWindow region die s
  | .recordedTrapEntry c => Sys2Proof.Machine.execRecordedTrapEntry c s
  | .preempt c => Sys2Proof.Machine.execPreempt c s
  | .clusterFence cl => Sys2Proof.Machine.execClusterFence cl s
  | .blockClaim c block => Sys2Proof.Machine.execBlockClaim c block s
  | .stepctlHalt c => Sys2Proof.Machine.execStepctlHalt c s
  | .stepctlGo c => Sys2Proof.Machine.execStepctlGo c s
  | .stepctlStep c => Sys2Proof.Machine.execStepctlStep c s
  | .stepctlRelh c => Sys2Proof.Machine.execStepctlRelh c s
  | .loadAcknowledgement c => Sys2Proof.Machine.execLoadAcknowledgement c s
  | .softError loc bits => Sys2Proof.Machine.execSoftError loc bits s
  | .hostMemoryAcceptance k => Sys2Proof.Machine.execHostMemoryAcceptance k s
  | .remoteAcknowledgement c n cause data => Sys2Proof.Machine.execRemoteAcknowledgement c n cause data s

end Sys2Proof.Machine
end

