-- ==== Sys2Proof/Machine/Fetch.lean ====
section
/-! DEFINITION. What one step of a core is: the fetch of an instruction's words through the instruction cache (R100, R123
step 1, R166, R341, R347), decoding, execution; and what one entry of the schedule does (assumption log, entry 1). -/

namespace Sys2Proof.Machine

/-- What a fetch comes to: what was fetched; a trap, by cause and ETVAL; a fetch that waits, parked on a translation fault
or for room to be parked. -/
inductive Fetched (α : Type) where
  | ok (a : α)
  | trap (cause val : Nat)
  | waits

/-- A line of code of core c: from its instruction cache, else through the home slice of its VA `va`, when the cache takes
it. -/
def State.fetchLine (s : State) (c va : Nat) : State × Fetched Line :=
  let k := s.core c
  match Sparse.get none k.pl.icache (va / 64) with
  | some l => (s, .ok l)
  | none =>
    match s.gReadPiece k.net.asid (va - va % 64) 64 .exec { turn := true, core := c } with
    | (t, .ok bs) => (t.cacheCode c (va / 64) (lineOf bs), .ok (lineOf bs))
    | (t, .error (.abort _)) => (t, .trap 0x13 va)
    | (t, .error (.cause cs v)) => (t, .trap cs v)
    | (t, .error e) =>
      let a : Access := { kind := .ifetch, core := c, va := va, size := 64, asid := k.net.asid, region := k.net.region
                          epc := k.pl.pc, handle := k.pl.handle }
      match t.parkErr k.net.asid c k.pl.handle e (.access a) with
      | some t => (t.modCore c (·.modPl fun p => { p with pipe := .fetchWait }), .waits)
      | none => (s, .waits)

/-- Bytes of code, cut at line boundaries. -/
def State.fetchPieces (s : State) (c : Nat) : List (Nat × Nat) → State × Fetched (List Byte)
  | [] => (s, .ok [])
  | (va, n) :: ps =>
    match s.fetchLine c va with
    | (s, .trap cs v) => (s, .trap cs v)
    | (s, .waits) => (s, .waits)
    | (s, .ok l) =>
      match State.fetchPieces s c ps with
      | (s, .ok bs) => (s, .ok (lineBytes l (va % 64) n ++ bs))
      | r => r

/-- Word n of the supervisor code of core c: of the resident image (R422), of a firmware core's SRAM (R86). -/
def Core.supWord (k : Core) (c n : Nat) : Word32 :=
  if isFw c then BitVec.ofNat 32 (k.scr.readN (4 * n) 4) else Sparse.get 0 k.pl.image n

/-- n words of code at offset pc of core c: the supervisor code in supervisor mode, the weave else. -/
def State.fetchWords (s : State) (c pc n : Nat) : State × Fetched (List Word32) :=
  let k := s.core c
  if k.pl.sup then (s, .ok ((List.range n).map fun i => k.supWord c (pc / 4 + i)))
  else
    let w := s.weaveOf c
    match s.fetchPieces c (linePieces 3 (w.va + w.codeoff + pc) (4 * n)) with
    | (s, .ok bs) => (s, .ok (wordsOfBytes bs))
    | (s, .trap cs v) => (s, .trap cs v)
    | (s, .waits) => (s, .waits)

/-- The instruction at the moving core's pc: its words, all within the code (R100), decoded. -/
noncomputable def State.fetchInstr (s : State) : State × Fetched Instr :=
  let pc := s.me.pl.pc
  let size := s.codeSize s.cur s.me.pl.sup
  if size < pc + 4 then (s, .trap 0x05 pc)
  else match s.fetchWords s.cur pc 1 with
    | (s, .ok ws) =>
      let n := wordCount (ws.headD 0)
      if size < pc + 4 * n then (s, .trap 0x05 pc)
      else match s.fetchWords s.cur pc n with
        | (s, .ok ws) =>
          match decode ws with
          | .ok i => (s, .ok i)
          | .error _ => (s, .trap 0x01 (ws.headD 0).toNat)
        | (s, .trap cs v) => (s, .trap cs v)
        | (s, .waits) => (s, .waits)
    | (s, .trap cs v) => (s, .trap cs v)
    | (s, .waits) => (s, .waits)

/-- One core cycle has passed. -/
def tickOut : Out → Out
  | .next s => .next { s with cycles := s.cycles + 1 }
  | r => r

/-- The moving core issues: not while it is idle, waits, is parked or halted. The resident handler acts as one step (R428);
a fetch that ended badly while it was parked traps now (R347). -/
noncomputable def State.issue (s : State) : Out :=
  let k := s.me
  if k.pl.pipe ≠ .run ∨ k.pl.waiti ∨ (k.pl.halted ∧ !k.pl.stepping ∧ !k.pl.sup) then .next s
  else match k.pl.fetchTrap with
    | some (cs, v) => .next ((s.modMe (·.modPl fun p => { p with fetchTrap := none })).trap cs v)
    | none =>
      if k.pl.sup && k.pl.resident then .next (s.handler s.cur)
      else match s.fetchInstr with
        | (s, .ok i) => exec i s
        | (s, .trap cs v) => .next (s.trap cs v)
        | (s, .waits) => .next s

/-- What comes of what begins at s: nothing yet, where an access of the device's own has to wait for its turn. -/
def State.orStall (s : State) : Out → Out
  | .next t => if t.stall then .next s else .next t
  | r => r

/-- One entry of the schedule. A core instruction is run by its core alone, and what names no unit that exists does
nothing. -/
noncomputable def State.actNow (s : State) : Act → Out
  | .core _ => tickOut s.issue
  | .event i => if i.isCore || !i.wf then .next s else exec i s
  | .tick n => .next { s with cycles := s.cycles + n }
  | .hostStore a v => .next { s with port := { s.port with hostMem := Sparse.set 0 s.port.hostMem a v } }
  | .firmware die alive => .next (if die < 4 then s.setAlive die alive else s)
  | .flash die f => .next (if die < 4 then s.setDie die { s.die die with flash := f } else s)
  | .health die temp power =>
    .next (if decide (die < 4) && s.fwRuns die then s.setDie die { s.die die with temp := temp, power := power } else s)
  | .request ws => .next (s.take ws)
  | .service => .next s.serveNext
  | .deliver k => .next (s.deliverUnit k)
  | .hold k => .next (s.takeIn k)
  | .early h n => .next (s.releaseEarly h n)
  | .earlyFence c n => .next (s.earlyFence c n)
  | .piece c id n => .next (s.piece c id n)
  | .remote c n i => .next (s.remotePiece c n i)
  | .linkTimeout n => .next { s with fw := { s.fw with linkTimeout := n } }
  | .partNumber n => .next { s with fw := { s.fw with part := n % 2 ^ 16 } }
  | .ingress cl => .next (if cl < 96 then s.drainIngress cl else s)

/-- Where an entry of the schedule begins. -/
def State.toMove (s : State) : Act → State
  | .core c => { s with cur := c, stall := false }
  | _ => { s with stall := false }

/-- The entry of the schedule happens, or has to wait and is spent. -/
noncomputable def State.act (s : State) (a : Act) : Out := (s.toMove a).orStall ((s.toMove a).actNow a)

/-- The code line that begins with the words given, zeros behind them. -/
def codeLine (ws : List Word32) : Line := lineOf (ws.flatMap bytesOfWord)

/-- A core with one instruction in its instruction cache at offset 0, about to issue it in a threadlet of frame 0. -/
def Core.withCode (k : Core) (c : Nat) (ws : List Word32) : Core :=
  { k with
    net := { k.net with region := some 0 }
    spr := { k.spr with fbase := 0, flim := 256 }
    fe := { k.fe with frames := Sparse.set {} k.fe.frames 0 { st := 3, gen := 1 } }
    pl := { k.pl with
      pipe := .run, pc := 0, sup := false, live := true, handle := mkHandle c 0 1, fix := 0, slot := 0, waiti := false
      halted := false, stepping := false, fetchTrap := none, icache := [(0, some (codeLine ws))] } }

end Sys2Proof.Machine
end

