-- ==== Sys2Proof/Machine/Step.lean ====
section
/-! DEFINITION. The step: the next entry of the schedule, or, where there is none, the core that moved last goes on; and how
one instruction is put where the step fetches next. -/

namespace Sys2Proof.Machine

/-- One step of the machine. -/
noncomputable def step (s : State) : Host.Outcome State Fault Refusal :=
  match s.sched with
  | [] => s.act (.core s.cur)
  | a :: rest => { s with sched := rest }.act a

/-- The instruction whose bits are w stands at offset 0 of the code of the core that moves next, in its instruction cache,
as after LOADW, a firing and the fetch of that line (assumption log, entry 10). -/
def State.withFetchWord (s : State) (nbits w : Nat) : State :=
  let v := w % 2 ^ nbits
  let words := (List.range 5).map (fun i => BitVec.ofNat 32 (v >>> (32 * i)))
  let s := { s with sched := [] }
  let s := s.setRegion 0 { state := 1, clusters := 2 ^ clusterOf s.cur, weave := { codesz := 20 } }
  s.setCore s.cur ((s.core s.cur).withCode s.cur words)

end Sys2Proof.Machine
end

