-- ==== Sys2Proof/Safety.lean ====
section
/-! DEFINITION. What claims are stated in: the canonical form of memory, the invariants of a well-kept state, and what a
run that stops is. -/

namespace Sys2Proof.Machine

/-- Memory in its canonical form: every table has strictly rising keys and lists nothing that an unlisted key reads as. -/
def Memory.wf (m : Memory) : Bool :=
  Sparse.wf 0 m.cells && Sparse.wf false m.empty && Sparse.wf false m.poison && Sparse.wf 0 m.soft &&
    Sparse.wf 0 m.corrected && Sparse.wf none m.pairs && Sparse.wf none m.keys && Sparse.wf false m.bad

/-- A scratchpad in its canonical form. -/
def Scratch.wf (m : Scratch) : Bool :=
  Sparse.wf 0 m.bytes && Sparse.wf false m.empty && Sparse.wf false m.bad && Sparse.wf false m.soft &&
    Sparse.wf false m.touched && Sparse.wf false m.had

/-- Start-up goes in its order (R89): twelve stacks, ninety-six clusters, and no leader before they are all there. -/
def Firmware.inOrder (f : Firmware) : Bool :=
  decide (f.trained ≤ 12) && decide (f.powered ≤ 96) && (!f.ready || (decide (f.trained = 12) && decide (f.powered = 96)))

/-- The scratchpads of a region's cores, as its save holds them, are canonical. -/
def Region.scratchWf (r : Region) : Bool := match r.save with
  | some v => v.cores.all fun e => e.2.scr.wf
  | none => true

/-- Memory, every scratchpad, in a save too, and every Prism directory are canonical, and start-up is in its order. -/
def State.inOrder (s : State) : Bool :=
  s.mem.wf && s.fw.inOrder && (s.cores.all fun e => e.2.scr.wf) && (s.regions.all fun e => e.2.scratchWf) &&
    s.clusters.all fun e => Sparse.wf {} e.2.dir

/-- The step neither faults nor is refused. -/
def Goes (s : State) : Prop := ∃ t, step s = .next t

/-- One byte of global memory as it stands at a PA, whatever key it was written under. -/
def Memory.byte (m : Memory) (pa : Nat) : Byte := Sparse.get 0 m.cells pa

/-- One byte of a core's scratchpad. -/
def Scratch.byte (m : Scratch) (a : Nat) : Byte := Sparse.get 0 m.bytes a

/-! ### A core instruction's fields and operands -/

/-- The major opcode of a core instruction (R116). -/
def majorOf (i : Instr) : Option Nat :=
  match rawOf i with
  | .nop => some 0
  | .base op _ => some op
  | .ext op _ => some op
  | .event => none

/-- The fields of a core instruction, however it is encoded (R101, R102). -/
def fieldsOf (i : Instr) : Ctx :=
  match rawOf i with
  | .base op w => ctxB op w
  | .ext op o => ctxX op o
  | _ => ctxB 0 {}

/-- Both guards hold, so the instruction executes (R104). -/
def Runs (i : Instr) (s : State) : Prop :=
  s.me.guard (fieldsOf i).w.g = true ∧ s.me.guard (fieldsOf i).x.g2 = true

/-- gA. -/
def opA (i : Instr) (s : State) : Word := s.me.readG (fieldsOf i).a
/-- gB, or the literal in its place (R103). -/
def opB (i : Instr) (s : State) : Word := ((fieldsOf i).lit).getD (s.me.readG (fieldsOf i).b)
/-- gC. -/
def opC (i : Instr) (s : State) : Word := s.me.readG (fieldsOf i).c
/-- gD before the instruction. -/
def opD (i : Instr) (s : State) : Word := s.me.readG (fieldsOf i).d
/-- IMM32, sign-extended. -/
def opImm (i : Instr) : Word := (BitVec.ofNat 32 (fieldsOf i).imm).signExtend 64

/-- The instruction changes nothing but gD, which takes v, and moves past itself. -/
def WritesG (i : Instr) (s : State) (v : Word) : Prop :=
  exec i s = .next ((s.modMe (·.writeG (fieldsOf i).d v)).advance i.len)

/-- The instruction changes nothing but pD, which takes v, and moves past itself. -/
def WritesP (i : Instr) (s : State) (v : Bool) : Prop :=
  exec i s = .next ((s.modMe (·.writeP (fieldsOf i).d v)).advance i.len)

/-! ### The integer instructions, in bit vectors of the instruction's width -/

/-- w of an integer instruction: 8, 16, 32 or 64 bits (R168). -/
def widthOf (i : Instr) : Nat := 8 * 2 ^ ((fieldsOf i).m % 4)

/-- A result on w bits as gD receives it: extended as signed or as natural (R168). -/
def extendTo64 {w : Nat} (signed : Bool) (r : BitVec w) : Word := if signed then r.signExtend 64 else r.setWidth 64

/-- ADD, SUB and MUL on w bits (R170): exact on the operands' readings, then saturated under .sat, else wrapped. -/
def arith {w : Nat} (op : Nat) (signed sat : Bool) (a b : BitVec w) : BitVec w :=
  let x : Int := if signed then a.toInt else (a.toNat : Int)
  let y : Int := if signed then b.toInt else (b.toNat : Int)
  let z : Int := if op = 0x20 then x + y else if op = 0x21 then x - y else x * y
  if sat then
    if signed then BitVec.ofInt w (max (-2 ^ (w - 1)) (min z (2 ^ (w - 1) - 1)))
    else BitVec.ofInt w (max 0 (min z (2 ^ w - 1)))
  else if op = 0x20 then a + b else if op = 0x21 then a - b else a * b

/-- MULH, MULHN, DIV, DIVN, REM and REMN on w bits (R171, R172). -/
def upperOrDivide {w : Nat} (op : Nat) (a b : BitVec w) : BitVec w :=
  if op = 0x23 then (a.signExtend (2 * w) * b.signExtend (2 * w)).extractLsb' w w
  else if op = 0x24 then (a.setWidth (2 * w) * b.setWidth (2 * w)).extractLsb' w w
  else if op = 0x25 then (if b = 0 then BitVec.allOnes w else a.sdiv b)
  else if op = 0x26 then (if b = 0 then BitVec.allOnes w else a.udiv b)
  else if op = 0x27 then (if b = 0 then a else a.srem b)
  else (if b = 0 then a else a.umod b)

/-- AND, OR, XOR, ANDN and ORN (R174). -/
def logic {w : Nat} (op : Nat) (a b : BitVec w) : BitVec w :=
  if op = 0x29 then a &&& b else if op = 0x2A then a ||| b else if op = 0x2B then a ^^^ b
  else if op = 0x2C then a &&& ~~~b else a ||| ~~~b

/-- SHL, SHR, SHA and ROT (R175): the count is b modulo w. -/
def shifted {w : Nat} (op : Nat) (a b : BitVec w) : BitVec w :=
  let n := b.toNat % w
  if op = 0x2E then a <<< n else if op = 0x2F then a >>> n else if op = 0x30 then a.sshiftRight n else a.rotateLeft n

/-- MIN, MAX, MINN, MAXN, ABS and NEG (R176). -/
def extremum {w : Nat} (op : Nat) (a b : BitVec w) : BitVec w :=
  if op = 0x32 then (if b.slt a then b else a)
  else if op = 0x33 then (if a.slt b then b else a)
  else if op = 0x34 then (if b.ult a then b else a)
  else if op = 0x35 then (if a.ult b then b else a)
  else if op = 0x36 then (if a.msb then -a else a)
  else -a

/-- The conditions of CMP: eq, ne, lt, le, ltn, len, tst (R114, R177). -/
def condition {w : Nat} (cond : Nat) (a b : BitVec w) : Bool :=
  match cond with
  | 0 => a == b
  | 1 => a != b
  | 2 => a.slt b
  | 3 => a.sle b
  | 4 => a.ult b
  | 5 => a.ule b
  | _ => (a &&& b) != 0

/-- What CLZ, CTZ, FFS, POPC and BREV make of one element (R179). -/
def element {w : Nat} (op : Nat) (x : BitVec w) : BitVec w :=
  if op = 0x3B then x.clz
  else if op = 0x3C then x.ctz
  else if op = 0x3D then (if x = 0 then 0 else x.ctz + 1)
  else if op = 0x3E then x.cpop
  else x.reverse

/-- HomeSlice of R134, on the low 48 bits of an address. -/
def homeSliceOf (va : Word) : BitVec 8 :=
  va.extractLsb' 12 8 ^^^ va.extractLsb' 20 8 ^^^ va.extractLsb' 28 8 ^^^ va.extractLsb' 36 8 ^^^
    (va.extractLsb' 44 4 ++ va.extractLsb' 44 4)

/-- Whether an integer instruction's destination is a predicate: CMP and the predicate instructions. -/
def toPredicate (op : Nat) : Bool := op == 0x38 || (decide (0x46 ≤ op) && decide (op ≤ 0x4A))

/-! ### Steps, traps and messages -/

/-- The step is core c's, and s' is the state it starts from: no schedule is left and c moved last, or the schedule names
it next (assumption log, entry 1). -/
def Moves (s : State) (c : Nat) (s' : State) : Prop :=
  (s.sched = [] ∧ c = s.cur ∧ s' = { s with stall := false }) ∨
    ∃ rest, s.sched = .core c :: rest ∧ s' = { s with sched := rest, cur := c, stall := false }

/-- The moving core issues: it is not idle, waiting, parked or halted, and no failed fetch waits for it. -/
def Issuing (s : State) : Prop :=
  s.me.pl.pipe = .run ∧ s.me.pl.waiti = false ∧ s.me.pl.fetchTrap = none ∧
    (s.me.pl.halted = false ∨ s.me.pl.stepping = true ∨ s.me.pl.sup = true)

/-- The words ws stand at the moving core's pc: in its instruction cache at the VA of the running weave's code, in user
mode; in its supervisor code, in supervisor mode, where the resident handler is not the code (R86, R100, R422, R428). -/
def CodeAt (s : State) (ws : List Word32) : Prop :=
  if s.me.pl.sup then
    s.me.pl.resident = false ∧ ∀ j, j < ws.length → s.me.supWord s.cur (s.me.pl.pc / 4 + j) = ws.getD j 0
  else
    ∀ j, j < 4 * ws.length →
      let va := (s.weaveOf s.cur).va + (s.weaveOf s.cur).codeoff + s.me.pl.pc + j
      ∃ l, Sparse.get none s.me.pl.icache (va / 64) = some l ∧
        l.extractLsb' (8 * (va % 64)) 8 = (ws.getD (j / 4) 0).extractLsb' (8 * (j % 4)) 8

/-- What TakeTrap of R422 leaves, for an exact trap (R123, R423): EPC, ECAUSE, ETVAL and every field of ESTAT; supervisor
mode, at EVEC. Nothing else of the core changes, and nothing of any other unit. -/
def TrapTaken (s t : State) (cause val : Nat) : Prop :=
  t.me.sup.epc = BitVec.ofNat 32 s.me.pl.pc ∧ t.me.sup.ecause = BitVec.ofNat 8 cause ∧
  t.me.sup.etval = BitVec.ofNat 64 val ∧
  t.me.sup.estat.getLsbD 44 = s.me.pl.sup ∧ t.me.sup.estat.getLsbD 43 = false ∧ t.me.sup.estat.getLsbD 42 = false ∧
  t.me.sup.estat.getLsbD 41 = s.me.pl.after.isSome ∧ t.me.sup.estat.getLsbD 40 = false ∧
  t.me.sup.estat.extractLsb' 38 2 = 0 ∧ t.me.sup.estat.extractLsb' 32 6 = 63 ∧ t.me.sup.estat.extractLsb' 45 19 = 0 ∧
  t.me.sup.estat.extractLsb' 0 32 = BitVec.ofNat 32 (if s.me.pl.live then s.me.pl.handle else 0) ∧
  t.me.pl.sup = true ∧ t.me.pl.pc = s.me.sup.evec.toNat ∧
  t = s.modMe fun c => { c with
    sup := { c.sup with epc := t.me.sup.epc, ecause := t.me.sup.ecause, etval := t.me.sup.etval, estat := t.me.sup.estat }
    pl := { c.pl with sup := true, pc := c.sup.evec.toNat, pipe := .run } }

/-- The instruction takes an exact trap at itself (R123). -/
def TrapsWith (i : Instr) (s : State) (cause val : Nat) : Prop :=
  ∃ t, exec i s = .next t ∧ TrapTaken s t cause val

/-- The slot reference of a split-phase or a slot instruction (R106, R107). -/
def slotRef (i : Instr) (s : State) : Ref := (fieldsOf i).ref s

/-- The guards hold, and the handle of the slot named passes R54. -/
def Issues (i : Instr) (s : State) : Prop := Runs i s ∧ (fieldsOf i).refOk s = true

/-- The instruction counts one EMIT towards core d, sends the message and moves past itself; nothing else changes. -/
def Sends (i : Instr) (s : State) (d : Nat) (m : Msg) : Prop :=
  exec i s = .next (((s.emit s.cur d 1).send m).advance i.len)

/-- A message of the moving core to core d. -/
def toCore (s : State) (d : Nat) (ch : Chan) (b : Body) : Msg :=
  { src := .core s.cur, dst := .core d, chan := ch, body := b, region := s.regionOf s.cur }

/-- The forms that only supervisor mode may run: RFE, WAITI, SYNCI, TLBI, CFLUSH of other than the issuer's own lines and
SPINV.all (R123 step 3). -/
def supervisorForm (i : Instr) : Bool :=
  match majorOf i with
  | some 0x1A => true
  | some 0x1C => true
  | some 0x1D => true
  | some 0x88 => true
  | some 0x89 => (fieldsOf i).m != 0
  | some 0xD8 => (fieldsOf i).m == 1
  | _ => false

/-- Every byte of memory reads in t as in s: global memory, what the home slices hold of it, and every scratchpad. -/
def SameMemory (s t : State) : Prop :=
  (∀ pa, t.mem.byte pa = s.mem.byte pa) ∧ t.mem = s.mem ∧ t.slices = s.slices ∧
    ∀ c a, (t.core c).scr.byte a = (s.core c).scr.byte a

/-- Nothing but the moving core differs between s and t. -/
def OnlyMe (s t : State) : Prop :=
  (∀ c, c ≠ s.cur → t.core c = s.core c) ∧
  t = { s with cores := t.cores }

/-! ### Floating point and vectors -/

/-- The instruction raises the flags fl, then changes the moving core by f and moves past itself; with a raised flag enabled
in EXCEN, EXCFLAGS takes the flags, f does not happen, and cause 0x0F is taken with the flags (R187, R234). -/
def Raises (i : Instr) (s : State) (fl : Nat) (f : Core → Core) : Prop :=
  (s.me.spr.excen &&& BitVec.ofNat 6 fl = 0 → exec i s = .next (((s.modMe (·.orFlags fl)).modMe f).advance i.len)) ∧
  (s.me.spr.excen &&& BitVec.ofNat 6 fl ≠ 0 → ∃ t, exec i s = .next t ∧ TrapTaken (s.modMe (·.orFlags fl)) t 0x0F fl)

/-- gD takes a floating-point result, its flags raised. -/
def FloatResult (i : Instr) (s : State) (r : Nat × Nat) : Prop :=
  Raises i s r.2 (·.writeG (fieldsOf i).d (BitVec.ofNat 64 r.1))

/-- The value of a register in the kind that M names (R185). -/
def floatOf (i : Instr) (v : Word) : FV := valK (fieldsOf i).m v.toNat

/-- The exact value of a finite code, as a rational number. -/
def FV.rat : FV → Rat
  | .fin neg m e => (if neg then -1 else 1) * (m : Rat) * (2 : Rat) ^ e
  | _ => 0

/-- The magnitude of an FP32 code. -/
def magnitude32 (c : Nat) : Rat := (unpack (fmtOf 1) (c % 2 ^ 31)).rat

/-- An FP32 code lies within b codes of the value y, on y's side of zero; above the largest finite code nothing bounds y (R248). -/
def Within32 (b c : Nat) (y : Rat) : Prop :=
  (y ≠ 0 → (2 ^ 31 ≤ c ↔ y < 0)) ∧ magnitude32 (c % 2 ^ 31 - b) ≤ |y| ∧ (c % 2 ^ 31 + b < 0x7F800000 → |y| ≤ magnitude32 (c % 2 ^ 31 + b))

/-- A finite value, infinities and NaNs shut out. -/
def FV.finite : FV → Bool
  | .fin _ _ _ => true
  | _ => false

/-- The largest finite value of a format, as a rational number (R307). -/
def Fmt.largest (f : Fmt) : Rat := (unpack f f.maxBits).rat

/-- With an exponent unbounded above, x rounds to a magnitude above the largest finite value; under RS, and in a format whose highest
exponent holds finite values, x is itself above it (R245, R315).
`next` is the value that would follow the largest one. -/
def Overflows (f : Fmt) (mode : Nat) (x : ℝ) : Prop :=
  let next : ℝ := (2 : ℝ) ^ (f.bias + 1)
  if f.top then f.largest < |x| else match mode with
  | 0 => f.largest + next ≤ 2 * |x|
  | 1 => next ≤ |x|
  | 2 => f.largest < x ∨ x ≤ -next
  | 3 => x < -f.largest ∨ next ≤ x
  | _ => f.largest < |x|

/-- With an unbounded exponent, x rounds to a magnitude below the least normal one (R186). `last` is the value that would precede
the least normal one there. -/
def TinyAfterRounding (f : Fmt) (mode draw : Nat) (x : ℝ) : Prop :=
  let normal : ℝ := (2 : ℝ) ^ (1 - f.bias)
  let last : ℝ := normal - (2 : ℝ) ^ (-f.bias - f.mb)
  match mode with
  | 0 => 2 * |x| < normal + last
  | 1 => |x| < normal
  | 2 => -normal < x ∧ x ≤ last
  | 3 => -last ≤ x ∧ x < normal
  | _ => |x| < normal ∧ ¬ (draw : ℤ) < ⌊2 ^ 32 * (|x| - last) / (normal - last)⌋

/-- r is x rounded by mode 0 to 4, with its flags (R186, R239, R315, R317): on overflow the largest value, or the infinity where the
format has one and the mode chooses it, with OVF and INX; else x itself or the neighbour that the mode chooses, under RS with the
random bits `draw`; INX where it is not x, and UNF where it is tiny too. An exact zero takes the sign `neg`, every other result that
of x. -/
def RoundsTo (f : Fmt) (mode draw : Nat) (neg : Bool) (x : ℝ) (r : Nat × Nat) : Prop :=
  let y : ℝ := (unpack f r.1).rat
  (r.1 < 2 ^ f.width ∧ (x = 0 → r = (if neg then 2 ^ (f.eb + f.mb) else 0, 0)) ∧
    (x ≠ 0 → (r.1.testBit (f.eb + f.mb) = true ↔ x < 0))) ∧
  (Overflows f mode x → r.2 = 5 ∧
    r.1 % 2 ^ (f.eb + f.mb) = if f.top ∨ mode = 1 ∨ mode = 4 ∨ (mode = 2 ∧ x < 0) ∨ (mode = 3 ∧ 0 < x) then f.maxBits else f.infBits) ∧
  (¬ Overflows f mode x →
    (unpack f r.1).finite = true ∧
    (∀ c, c < 2 ^ f.width → (unpack f c).finite = true → let z : ℝ := (unpack f c).rat
      (mode = 0 → |x - y| ≤ |x - z| ∧ (|x - y| = |x - z| → z ≠ y → r.1 % 2 = 0)) ∧
      (mode = 1 → |y| ≤ |x| ∧ (|z| ≤ |x| → |z| ≤ |y|)) ∧
      (mode = 2 → x ≤ y ∧ (x ≤ z → y ≤ z)) ∧
      (mode = 3 → y ≤ x ∧ (z ≤ x → z ≤ y)) ∧
      (mode = 4 → (z = x → y = x) ∧
        ∀ d, d < 2 ^ f.width → (unpack f d).finite = true → let b : ℝ := (unpack f d).rat
          0 ≤ z * x → 0 < b * x → |z| < |x| → |x| < |b| →
            (∀ m, m < 2 ^ f.width → (unpack f m).finite = true →
              |((unpack f m).rat : ℝ)| ≤ |z| ∨ |b| ≤ |((unpack f m).rat : ℝ)|) →
            y = if (draw : ℤ) < ⌊2 ^ 32 * |x - z| / |b - z|⌋ then b else z)) ∧
    (y = x → r.2 = 0) ∧ (y ≠ x → TinyAfterRounding f mode draw x → r.2 = 3) ∧
    (y ≠ x → ¬ TinyAfterRounding f mode draw x → r.2 = 1))

/-- The arithmetic of R188 on values in a format with infinities: the exact result rounded once where the operands are finite, and
the special cases of NaNs, infinities and zeros. -/
def ArithmeticIsRight (f : Fmt) (mode draw : Nat) : Prop := ∀ a b c : FV,
  let invalid : Nat × Nat := (f.nan, 16)
  let quiet (l : List FV) : Nat × Nat := (f.nan, if l.any FV.isSnan then 16 else 0)
  let n := a.sign ^^ b.sign
  let noProduct : Bool := (a.isInf && b.isZero) || (a.isZero && b.isInf)
  -- finite operands
  (a.finite = true → b.finite = true →
    RoundsTo f mode draw (if a.sign = b.sign then a.sign else mode == 3) (a.rat + b.rat : ℝ) (fAdd f mode draw a b) ∧
    RoundsTo f mode draw n (a.rat * b.rat : ℝ) (fMul f mode draw a b) ∧
    (c.finite = true →
      RoundsTo f mode draw (if n = c.sign then n else mode == 3) (a.rat * b.rat + c.rat : ℝ) (fFma f mode draw a b c)) ∧
    (b.isZero = false → (∃ x y, x < 2 ^ f.width ∧ y < 2 ^ f.width ∧ unpack f x = a ∧ unpack f y = b) →
      RoundsTo f mode draw n (a.rat / b.rat : ℝ) (fDiv f mode draw a b)) ∧
    (b.isZero = true → fDiv f mode draw a b = if a.isZero then invalid else (infR f n, 8))) ∧
  (a.finite = true → (0 ≤ a.rat → RoundsTo f mode draw a.sign (Real.sqrt (a.rat : ℝ)) (fSqrt f mode draw a)) ∧
    (a.rat < 0 → fSqrt f mode draw a = invalid)) ∧
  -- NaNs
  (a.isNan = true ∨ b.isNan = true →
    fAdd f mode draw a b = quiet [a, b] ∧ fMul f mode draw a b = quiet [a, b] ∧ fDiv f mode draw a b = quiet [a, b]) ∧
  (a.isNan = true → fSqrt f mode draw a = quiet [a]) ∧
  (noProduct = true → fMul f mode draw a b = invalid ∧ fFma f mode draw a b c = invalid) ∧
  (noProduct = false → a.isNan = true ∨ b.isNan = true ∨ c.isNan = true → fFma f mode draw a b c = quiet [a, b, c]) ∧
  -- infinities
  (a.isInf = true → b.isInf = true →
    fAdd f mode draw a b = (if a.sign = b.sign then (infR f a.sign, 0) else invalid) ∧ fDiv f mode draw a b = invalid) ∧
  (a.isInf = true → b.finite = true → fAdd f mode draw a b = (infR f a.sign, 0) ∧ fDiv f mode draw a b = (infR f n, 0)) ∧
  (a.finite = true → b.isInf = true →
    fAdd f mode draw a b = (infR f b.sign, 0) ∧ fDiv f mode draw a b = (if n then 2 ^ (f.eb + f.mb) else 0, 0)) ∧
  (a.isNan = false → b.isNan = false → a.isInf = true ∨ b.isInf = true → noProduct = false →
    fMul f mode draw a b = (infR f n, 0) ∧
    (c.isNan = false → fFma f mode draw a b c = if c.isInf = true ∧ c.sign ≠ n then invalid else (infR f n, 0))) ∧
  (a.finite = true → b.finite = true → c.isInf = true → fFma f mode draw a b c = (infR f c.sign, 0)) ∧
  (a.isInf = true → fSqrt f mode draw a = if a.sign then invalid else (infR f false, 0))

/-- a does not exceed b, neither being a NaN; the zeros are equal. -/
def FV.AtMost (a b : FV) : Prop :=
  (a.isInf = true ∧ a.sign = true) ∨ (b.isInf = true ∧ b.sign = false) ∨
    (a.finite = true ∧ b.finite = true ∧ a.rat ≤ b.rat)

/-- The lesser or the greater of two codes (R189): one of the two, −0 below +0; a lone NaN gives way to the other operand, two give the
canonical NaN, and a signalling one raises INV, which is the one flag raised. -/
def PicksExtreme (f : Fmt) (isMax : Bool) (x y : Nat) (r : Nat × Nat) : Prop :=
  let a := unpack f x
  let b := unpack f y
  r.2 = (if a.isSnan || b.isSnan then 16 else 0) ∧
  (a.isNan = true → b.isNan = true → r.1 = f.nan) ∧
  (a.isNan = true → b.isNan = false → r.1 = y) ∧
  (a.isNan = false → b.isNan = true → r.1 = x) ∧
  (a.isNan = false → b.isNan = false → (r.1 = x ∨ r.1 = y) ∧
    (isMax = false → (unpack f r.1).AtMost a ∧ (unpack f r.1).AtMost b) ∧
    (isMax = true → a.AtMost (unpack f r.1) ∧ b.AtMost (unpack f r.1)) ∧
    (a.AtMost b → b.AtMost a → a.sign ≠ b.sign → (unpack f r.1).sign = !isMax))

/-- Register mode: no operand is bound to a stream (R109). -/
def Unbound (i : Instr) (s : State) : Prop := (fieldsOf i).bound s = []

/-- The lane mask of a vector instruction (R233). -/
def maskOf (i : Instr) (s : State) : Word :=
  if (fieldsOf i).l = 0 ∨ (fieldsOf i).x.sr = 1 ∨ (fieldsOf i).x.f = 0 then BitVec.allOnes 64
  else s.me.readG (fieldsOf i).f

/-- Lane j of a vector register, w bits wide. -/
def laneOf (w : Nat) (v : Line) (j : Nat) : BitVec w := v.extractLsb' (w * j) w

/-- fD takes r in its n enabled lanes of w bits and keeps the others; the flags fl are raised. -/
def VectorResult (i : Instr) (s : State) (w n fl : Nat) (r : Nat → BitVec w) : Prop :=
  ∃ v : Line, Raises i s fl (·.writeF (fieldsOf i).d v) ∧
    ∀ j, j < n → laneOf w v j = if (maskOf i s).getLsbD j then r j else laneOf w (s.me.readF (fieldsOf i).d) j

/-- The integer and bitwise vector instructions on one lane (R243, R244). -/
def intLane {w : Nat} (op : Nat) (sat : Bool) (a b : BitVec w) : BitVec w :=
  let clip (x : Int) : BitVec w := BitVec.ofInt w (max (-2 ^ (w - 1)) (min x (2 ^ (w - 1) - 1)))
  if op = 0xAA then a &&& b else if op = 0xAB then a ||| b else if op = 0xAC then a ^^^ b
  else if op = 0xAD then a <<< (b.toNat % w)
  else if op = 0xAE then (if sat then a.sshiftRight (b.toNat % w) else a >>> (b.toNat % w))
  else if op = 0xAF then (if sat then clip (a.toInt + b.toInt) else a + b)
  else (if sat then clip (a.toInt * b.toInt) else a * b)

/-- The flags that the enabled ones of n lanes raise. -/
def laneFlags (i : Instr) (s : State) (n : Nat) (fl : Nat → Nat) : Nat :=
  ((List.range n).filter ((maskOf i s).getLsbD ·)).foldl (fun a j => a ||| fl j) 0

/-! ### Local and global memory -/

/-- The effective address of an instruction's memory operand, as its meaning computes it (R193). -/
def addressOf (i : Instr) (s : State) : Nat := (fieldsOf i).ea s

/-- A local address v of n bytes aligned to al passes R193. -/
def LocalOk (v n al : Nat) : Prop := localRange v n = true ∧ v % al = 0

/-- A global address aligned to al passes R193. -/
def GlobalOk (ea al : Nat) : Prop := ea < 2 ^ 48 ∧ ea % al = 0

/-- No region is swapped out, so no block of a scratchpad waits to be saved first (R435). -/
def NoSave (s : State) : Prop := ∀ e ∈ s.regions, e.2.save = none

/-- One byte at a local address of core c (R327). -/
def State.localByte (s : State) (c a : Nat) : Byte := (s.localRead c a 1).headD 0

/-- The operation that an instruction gives its engine: its fields, the operands as they stand at issue, the issuing
threadlet and the slot to signal. -/
def opOf (i : Instr) (s : State) : EngOp := (fieldsOf i).engOp s (slotRef i s)

/-- The operation enters its engine's queue, which has room for it (R258, R285, R305), and the instruction moves past itself. -/
def Enters (i : Instr) (s : State) (f : State → State) : Prop :=
  exec i s = .next ((f (issued s (slotRef i s))).advance i.len)

/-! ### Translation -/

/-- Index(va, lev) of R340. -/
def vaIndex (va : Nat) : Nat → Nat
  | 0 => va / 2 ^ 38 % 2 ^ 10
  | 1 => va / 2 ^ 30 % 2 ^ 8
  | 2 => va / 2 ^ 20 % 2 ^ 10
  | _ => va / 2 ^ 12 % 2 ^ 8

/-- Where slice h finds the entry of an ASID (R339). -/
def State.asidEntry (s : State) (h asid : Nat) : Nat := (s.slice h).config.toNat / 2 ^ 12 % 2 ^ 32 * 2 ^ 12 + 16 * asid

/-- The table of a level that the walk for a VA comes to, as the entries above it stand (R339, R341): ROOT of a valid ASID, then the
table that each valid table entry names. -/
def State.tableOf (s : State) (h asid va : Nat) : Nat → Option Nat
  | 0 => (s.physRead (s.asidEntry h asid) 8).bind fun w => if w % 2 = 1 then some (w / 2 ^ 12 % 2 ^ 32 * 2 ^ 12) else none
  | lev + 1 => (s.tableOf h asid va lev).bind fun t => (s.physRead (t + 8 * vaIndex va lev) 8).bind fun e =>
    if e % 2 ^ 32 = 1 then some (e / 2 ^ 32 * 2 ^ 12) else none

/-- A leaf is malformed (R341). -/
def BadLeaf (e lev : Nat) : Prop :=
  let size := e / 2 ^ 4 % 16
  let efc := e / 2 ^ 16 % 16
  let blk := e / 2 ^ 20 % 16
  ¬ ((lev = 1 ∧ size = 9) ∨ (lev = 2 ∧ 4 ≤ size ∧ size ≤ 8) ∨ (lev = 3 ∧ size ≤ 3)) ∨
    e / 2 ^ 32 * 2 ^ 12 % 2 ^ (12 + 2 * size) ≠ 0 ∨ e.testBit 15 = true ∨ e / 2 ^ 8 % 4 = 3 ∨ 13 ≤ efc ∨
    (efc ≠ 6 ∧ blk ≠ 0) ∨ (efc = 6 ∧ 2 ≤ blk)

/-- Permits (R341). -/
def Allows (e : Nat) : Need → Prop
  | .read => e.testBit 1 = true
  | .write => e.testBit 2 = true
  | .both => e.testBit 1 = true ∧ e.testBit 2 = true
  | .exec => e.testBit 3 = true

/-- A cached leaf is one for the VA (R344). -/
def Tlb.covers (t : Tlb) (asid va : Nat) : Bool := t.asid == asid && t.va == va - va % 2 ^ (12 + 2 * t.size)

/-- A cached leaf serves the access without a walk (R343). -/
def Tlb.Serves (t : Tlb) (need : Need) : Prop := Allows t.leaf need ∧ (need.isWrite = true → t.leaf.testBit 14 = true)

/-- What the home slice of a VA answers to a translation, from the entry at which the walk ends (R338 to R341, R343 to R346). A fault
ends at once where the ASID has no service frame. -/
def TranslatesAsTheTableSays (s : State) (asid va : Nat) (need : Need) : Prop :=
  let h := homeSlice va
  let x := s.gTrans asid va need
  let refuses (reason lev e : Nat) : Prop := ∀ w, s.physRead (s.asidEntry h asid + 8) 8 = some w →
    x = (s, .error (if w / 2 ^ 32 % 2 ^ 32 = 0 then .abort va else .fault va reason lev e need))
  (s.physRead (s.asidEntry h asid) 8 = none → x = (s, .error (.cause 0x05 (s.asidEntry h asid)))) ∧
  (∀ w, s.physRead (s.asidEntry h asid) 8 = some w → w % 2 = 0 → x = (s, .error (.abort va))) ∧
  ∀ lev t, lev ≤ 3 → s.tableOf h asid va lev = some t →
    let at_ := t + 8 * vaIndex va lev
    (s.physRead at_ 8 = none → x = (s, .error (.cause 0x05 at_))) ∧
    ∀ e, s.physRead at_ 8 = some e →
      (e % 2 = 0 → refuses 1 lev e) ∧
      (e % 2 = 1 → e / 2 % 8 = 0 → lev = 3 ∨ e % 2 ^ 32 ≠ 1 → x = (s, .error (.cause 0x02 va))) ∧
      (e % 2 = 1 → e / 2 % 8 ≠ 0 → BadLeaf e lev → x = (s, .error (.cause 0x02 va))) ∧
      (e % 2 = 1 → e / 2 % 8 ≠ 0 → ¬ BadLeaf e lev → ¬ Allows e need → refuses 2 lev e) ∧
      (e % 2 = 1 → e / 2 % 8 ≠ 0 → ¬ BadLeaf e lev → Allows e need →
        let size := 2 ^ (12 + 2 * (e / 2 ^ 4 % 16))
        let e' := e ||| 2 ^ 13 ||| (if need.isWrite then 2 ^ 14 else 0)
        x.2 = .ok (e / 2 ^ 32 * 2 ^ 12 + va % size, e') ∧ x.1.physRead at_ 8 = some e' ∧
        (∀ pa, pa / 64 ≠ at_ / 64 → x.1.mem.byte pa = s.mem.byte pa) ∧
        { asid := asid, va := va - va % size, size := e / 2 ^ 4 % 16, leaf := e', ent := at_ : Tlb } ∈ (x.1.slice h).tlb)

/-! ### What an access does at its agent -/

/-- n bytes of a line from byte o. -/
def bytesAt (d : Line) (o n : Nat) : List Byte := (List.range n).map fun j => d.extractLsb' (8 * (o + j)) 8

/-- d' is d with the bytes bs in place from byte o, and every other byte as it was. -/
def LineWrote (d d' : Line) (o : Nat) (bs : List Byte) : Prop :=
  ∀ i, i < 64 → d'.extractLsb' (8 * i) 8 = if o ≤ i ∧ i < o + bs.length then bs.getD (i - o) 0 else d.extractLsb' (8 * i) 8

/-- Slice h holds the HBM line of a PA under a key id, sound, with the data d and the full/empty bit f. -/
def HoldsLine (s : State) (h pa key : Nat) (d : Line) (f : Bool) : Prop :=
  s.paKind pa = .hbm ∧ s.poisoned (pa / 64) = false ∧ ∃ c, s.cline h (pa / 64) = some c ∧
    c.key = key ∧ c.soft = 0 ∧ c.bad = false ∧ c.data = d ∧ c.full = f

/-- In t slice h holds that line with the data d and the bit f; every other line of every slice, and what lies in memory, are as in
s. -/
def LineBecomes (s t : State) (h pa : Nat) (d : Line) (f : Bool) : Prop :=
  (∃ c, t.cline h (pa / 64) = some c ∧ c.data = d ∧ c.full = f) ∧ t.mem = s.mem ∧
    ∀ g line, ¬ (g = h ∧ line = pa / 64) → t.cline g line = s.cline g line

/-- What leaves slice h when the access a has been performed (R195, R205, R332, R348): the acknowledgement of a store, or the completion
with the bytes it returns; of a write to a watched page, the advance of its generation first. -/
def replyTo (h : Nat) (a : Access) (bs : List Byte) : List Msg :=
  if a.kind.posted then
    [{ src := .slice h, dst := .core a.core, chan := .reply, region := a.region, body := .storeAck a.entry a.tag a.tid }]
  else match a.ref with
    | some r => [{ src := .slice h, dst := .core (handleCore r.handle), chan := .signal, region := r.region
                   body := .arrival { signalArrival r (if a.resumed then 2 else 0) (if a.resumed then 0x13 else 0) 0 with
                     scratch := (a.dst.map fun x => (a.core, x, bs)).toList } }]
    | none => []

/-- The same of an access that has written under a leaf. -/
def replyToWrite (h : Nat) (a : Access) (leaf : Nat) (bs : List Byte) : List Msg :=
  if leaf.testBit 11 then
    let p := leafPage a.va leaf
    [{ src := .slice h, dst := .slice (homeSlice p.1), chan := .request, body := .watchAdvance a.asid p.1 p.2 a bs }]
  else replyTo h a bs

/-- What AOP leaves on an operand of w bits (R209, R210); none where incb does not write. -/
def bankValue {w : Nat} (op : Nat) (old b c : BitVec w) : Option (BitVec w) :=
  match op with
  | 0 => some (old + b)
  | 1 => some (old - b)
  | 2 => some (old &&& b)
  | 3 => some (old ||| b)
  | 4 => some (old ^^^ b)
  | 5 => some (if b.slt old then b else old)
  | 6 => some (if old.slt b then b else old)
  | 7 => some (if b.ult old then b else old)
  | 8 => some (if old.ult b then b else old)
  | 9 => some b
  | 10 => some (BitVec.ofNat w (fAdd (fmtOf 1) 0 0 (unpack (fmtOf 1) old.toNat) (unpack (fmtOf 1) b.toNat)).1)
  | 11 => some (BitVec.ofNat w (fAdd (fmtOf 3) 0 0 (unpack (fmtOf 3) old.toNat) (unpack (fmtOf 3) b.toNat)).1)
  | _ => if old.ult c then some (old + b) else none

/-- What the access a does to the line at its home slice, which holds it with the data d and the full/empty bit f, and what it answers
(R199 to R204, R206, R209 to R211). `t` is the state after it. -/
def ActsOnLine (s t : State) (h : Nat) (a : Access) (pa leaf : Nat) (d : Line) (f : Bool) : Prop :=
  let o := pa % 64
  let old := bytesAt d o a.size
  let sync := leaf.testBit 10
  let keeps (f : Bool) : Prop := LineBecomes s t h pa d f
  let writes (bs : List Byte) (f : Bool) : Prop := ∃ d', LineWrote d d' o bs ∧ LineBecomes s t h pa d' f
  let sends (ms : List Msg) : Prop := t.msgs = s.msgs ++ ms
  let alone := ∀ e ∈ (s.slice h).ldf, e.2 / 64 ≠ pa / 64
  let w := 8 * a.size
  let value (x : Nat) : BitVec w := BitVec.ofNat w x
  let word := value (leNat old)
  match a.kind with
  | .fetch => keeps f ∧ sends (replyTo h a old)
  | .ldf =>
    if sync = true ∧ f = false then
      (s.slice h).ldf.length < 256 →
        keeps f ∧ sends [] ∧ (t.slice h).ldf = (s.slice h).ldf ++ [({ a with since := s.cycles, leaf := leaf }, pa)]
    else keeps f ∧ sends (replyTo h a old)
  | .post | .stn | .hostWrite => writes a.data f ∧ sends (replyToWrite h a leaf [])
  | .stf =>
    (sync = false ∨ alone → writes a.data (f || sync) ∧ sends (replyToWrite h a leaf [])) ∧
    ∀ (b : Access) (pb : Nat), sync = true → (s.slice h).ldf = [(b, pb)] → pb / 64 = pa / 64 → leafKey b.leaf = leafKey leaf → b.th ≠ 3 →
      b.kind = .ldf → ∃ d', LineWrote d d' o a.data ∧ LineBecomes s t h pa d' true ∧ (t.slice h).ldf = [] ∧
        sends (replyTo h b (bytesAt d' (pb % 64) b.size) ++ replyToWrite h a leaf [])
  | .feop full =>
    if sync = false then keeps f ∧ sends (replyTo h a [])
    else
      (full = false ∨ alone → keeps full ∧ sends (replyToWrite h a leaf [])) ∧
      ∀ (b : Access) (pb : Nat), full = true → (s.slice h).ldf = [(b, pb)] → pb / 64 = pa / 64 → leafKey b.leaf = leafKey leaf →
        b.th ≠ 3 → b.kind = .ldf → keeps true ∧ (t.slice h).ldf = [] ∧
          sends (replyTo h b (bytesAt d (pb % 64) b.size) ++ replyToWrite h a leaf [])
  | .aop op =>
    op ≤ 12 → (op = 10 → a.size = 4) → (op = 11 → a.size = 2) → match bankValue op word (value a.b) (value a.c) with
      | some v => writes (natLE a.size v.toNat) f ∧ sends (replyToWrite h a leaf old)
      | none => keeps f ∧ sends (replyTo h a old)
  | .acas =>
    if word = value a.b then writes (natLE a.size (value a.c).toNat) f ∧ sends (replyToWrite h a leaf old)
    else keeps f ∧ sends (replyTo h a old)
  | .hostRead => a.ref = none → keeps f ∧ t.port.replies = s.port.replies ++ [old.map (·.setWidth 64)]
  | .ifetch | .shape _ | .pref | .tlbi => keeps f

/-- The same on a line of direct memory, which lies in memory itself (R335): what reading a byte there gives afterwards, and the bit. -/
def ActsOnDirect (s t : State) (h : Nat) (a : Access) (pa leaf : Nat) : Prop :=
  let old := (List.range a.size).map fun j => s.mem.byte (pa + j)
  let sync := leaf.testBit 10
  let full (u : State) (line : Nat) : Bool := !Sparse.get false u.mem.empty line
  let becomes (bs : List Byte) (f : Bool) : Prop :=
    (∀ x, t.mem.byte x = if pa ≤ x ∧ x < pa + bs.length then bs.getD (x - pa) 0 else s.mem.byte x) ∧
    (∀ line, full t line = if line = pa / 64 then f else full s line) ∧ ∀ g line, t.cline g line = s.cline g line
  let sends (ms : List Msg) : Prop := t.msgs = s.msgs ++ ms
  let w := 8 * a.size
  let value (x : Nat) : BitVec w := BitVec.ofNat w x
  let word := value (leNat old)
  let f := full s (pa / 64)
  let alone := ∀ e ∈ (s.slice (s.agentOf h pa)).ldf, e.2 / 64 ≠ pa / 64
  match a.kind with
  | .fetch => becomes [] f ∧ sends (replyTo h a old)
  | .ldf => sync = false ∨ f = true → becomes [] f ∧ sends (replyTo h a old)
  | .post | .stn | .hostWrite => becomes a.data f ∧ sends (replyToWrite h a leaf [])
  | .stf => sync = false ∨ alone → becomes a.data (f || sync) ∧ sends (replyToWrite h a leaf [])
  | .feop b =>
    if sync = false then becomes [] f ∧ sends (replyTo h a [])
    else b = false ∨ alone → becomes [] b ∧ sends (replyToWrite h a leaf [])
  | .aop op =>
    op ≤ 12 → (op = 10 → a.size = 4) → (op = 11 → a.size = 2) → match bankValue op word (value a.b) (value a.c) with
      | some v => becomes (natLE a.size v.toNat) f ∧ sends (replyToWrite h a leaf old)
      | none => becomes [] f ∧ sends (replyTo h a old)
  | .acas =>
    if word = value a.b then becomes (natLE a.size (value a.c).toNat) f ∧ sends (replyToWrite h a leaf old)
    else becomes [] f ∧ sends (replyTo h a old)
  | .hostRead => a.ref = none → becomes [] f ∧ t.port.replies = s.port.replies ++ [old.map (·.setWidth 64)]
  | .ifetch | .shape _ | .pref | .tlbi => becomes [] f

/-! ### Pieces of a transfer (R214) -/

/-- The cuts of [0, n) at which either side of a transfer meets a line: they cover it, once, and none crosses a line. -/
def CutsAtLines (l g n : Nat) (ps : List (Nat × Nat)) : Prop :=
  (∀ e ∈ ps, 0 < e.2 ∧ e.1 + e.2 ≤ n ∧ (l + e.1) % 64 + e.2 ≤ 64 ∧ (g + e.1) % 64 + e.2 ≤ 64) ∧
  (∀ y, y < n → ∃ e ∈ ps, e.1 ≤ y ∧ y < e.1 + e.2) ∧ ps.Pairwise fun a b => a.1 + a.2 ≤ b.1

/-- Nothing keeps a piece of core c's at a VA from being performed now (R332, R345, R359): no fault is outstanding at its home slice and
no miss, no release has gone early, the slice's translation cache serves it, and the slice holds its line, with the data d. -/
def PieceGoes (s : State) (c va : Nat) (need : Need) (t : Tlb) (pa : Nat) (d : Line) (f : Bool) : Prop :=
  let h := homeSlice va
  (s.slice h).faults = [] ∧ (s.slice h).misses = [] ∧ (∀ e ∈ s.slices, e.2.early = []) ∧
    (s.slice h).tlb.filter (·.covers (s.core c).net.asid va) = [t] ∧ t.Serves need ∧
    pa = t.leaf / 2 ^ 32 % 2 ^ 32 * 2 ^ 12 + va % 2 ^ (12 + 2 * t.size) ∧ HoldsLine s h pa (leafKey t.leaf) d f ∧
    (s.core c).pl.waiti = false ∧ NoSave s ∧ ∀ q, (s.core q).scr.bad = []

/-- The n bytes at local address l of core c read in t as bs, and every other byte of every scratchpad as in s. -/
def LocalWrote (s t : State) (c l : Nat) (bs : List Byte) : Prop :=
  (∀ j, j < bs.length → ∀ q a, resolveLocal c (l + j) = some (q, a) → (t.core q).scr.byte a = bs.getD j 0) ∧
  ∀ q a, (∀ j, j < bs.length → resolveLocal c (l + j) ≠ some (q, a)) → (t.core q).scr.byte a = (s.core q).scr.byte a

/-! ### A row of the tensor engine -/

/-- n is x rounded to an integer (R191, R239, R315). -/
def NearestInt (mode draw : Nat) (x : ℝ) (n : ℤ) : Prop :=
  match mode with
  | 0 => 2 * |x - n| ≤ 1 ∧ (2 * |x - n| = 1 → n % 2 = 0)
  | 1 => |(n : ℝ)| ≤ |x| ∧ |x| < |(n : ℝ)| + 1 ∧ 0 ≤ n * x
  | 2 => x ≤ n ∧ n < x + 1
  | 3 => n ≤ x ∧ x < n + 1
  | _ => 0 ≤ n * x ∧ |n| = ⌊|x|⌋ + if (draw : ℤ) < ⌊2 ^ 32 * (|x| - ⌊|x|⌋)⌋ then 1 else 0

/-- r is x written in a format of R267 and R276, with its flags: rounded, or rounded to an integer of w bits and saturated with INV. -/
def ConvertsTo (fmt mode draw : Nat) (neg : Bool) (x : ℝ) (r : Nat × Nat) : Prop :=
  if fmt ∈ [7, 9] then
    let w := if fmt = 7 then 8 else 32
    ∃ n : ℤ, NearestInt mode draw x n ∧
      ((2 : ℤ) ^ (w - 1) ≤ n → r = (2 ^ (w - 1) - 1, 16)) ∧
      (n < -(2 : ℤ) ^ (w - 1) → r = (2 ^ (w - 1), 16)) ∧
      (-(2 : ℤ) ^ (w - 1) ≤ n → n < (2 : ℤ) ^ (w - 1) → r = ((BitVec.ofInt w n).toNat, if x = n then 0 else 1))
  else RoundsTo (fmtOf fmt) mode draw neg x r

/-- A row runs, and leaves what `post` says of the operation and of the machine; after the last of n rows the operation ends with status
0 and PROG n. -/
def RowRuns (s : State) (c : Nat) (o : EngOp) (n : Nat) (post : EngOp → State → Prop) : Prop :=
  ∃ o' t, (ExceptT.run (tensorStep c o)) { s := s } = (.ok (o', if o.pos + 1 = n then some (0, 0, n) else none), t) ∧
    o'.pos = o.pos + 1 ∧ post o' t.s

/-- Row i of accumulator a of core c takes the words that `new` gives; every other word of every accumulator stays. -/
def AccRow (s t : State) (c a i : Nat) (new : Nat → Option Nat) : Prop :=
  ∀ b r j, r < 16 → j < 16 →
    (t.core c).accW b r j = if b = a ∧ r = i then (new j).getD ((s.core c).accW b r j) else (s.core c).accW b r j

/-- The code of element p of row i of a tile of core c (R256, R313). -/
def tileCode (s : State) (c v i p : Nat) : Nat :=
  let w := fmtBits (tdFmt v)
  leNat ((List.range (tdData v)).map fun b => (s.core c).scr.byte (tdRow v i + b)) / 2 ^ (w * p) % 2 ^ w

/-- The factor of that element: of FMT 6 its block's E8M0 scale, which is not 255; else 1 (R269, R312). -/
def tileFactor (s : State) (c v i p : Nat) : Rat :=
  if tdFmt v = 6 then (2 : Rat) ^ (((s.core c).scr.byte (tdRow v i + 32 + p / 32)).toNat - 127 : Int) else 1

/-- The value of that element, where it is finite. -/
def tileRat (s : State) (c v i p : Nat) : Rat := (unpack (fmtOf (tdFmt v)) (tileCode s c v i p)).rat * tileFactor s c v i p

/-- The integer of an element of FMT 7 or 8. -/
def tileInt (s : State) (c v i p : Nat) : Int := (BitVec.ofNat (fmtBits (tdFmt v)) (tileCode s c v i p)).toInt

/-- An accumulator word as a tri-residue operand: 0 where it is not valid (R319). -/
def triInt (w : Nat) : Int := if triOk w then triToInt w else 0

/-- w is the valid word of the residue class of x (R318). -/
def Represents (w : Nat) (x : Int) : Prop := triOk w = true ∧ (triToInt w - x) % 16776960 = 0

/-- What a row of TACLD, TACST, TCVT, TMMA and TADD computes and writes (R266, R267, R269, R270, R276, R277, R284, R319), where nothing of
the scratchpads has an error and no region is swapped out; of floating-point elements, where they are finite. -/
def TensorRowValues (s : State) (c : Nat) (o : EngOp) : Prop :=
  let k := s.core c
  let i := o.pos
  let v := o.td1
  let live (j : Nat) : Bool := (k.acc o.d).live i j
  let draw (x : Nat) : Nat := if o.xop % 8 = 4 then randBits o.seed o.strm x else 0
  let f32 (w : Nat) : FV := unpack (fmtOf 1) w
  let flags (n : Nat) (r : Nat → Nat × Nat) : Nat := (List.range n).foldl (fun f j => f ||| (r j).2) o.flags
  let row (r : Nat → Nat × Nat) : List Byte := (List.range (tdK v)).flatMap fun j => natLE (fmtBits (tdFmt v) / 8) (r j).1
  let onTile := localRange (tdRow v i) (tdData v) = true ∧ tdK v ≤ 16 ∧ i < 16 ∧ o.xop % 8 ≤ 4
  let tri := (k.acc o.a).kind.isTri
  -- TACLD
  (o.opc = 0xD1 → i < 16 → localRange (o.va + 64 * i) 64 = true →
    RowRuns s c o 16 fun _ t => AccRow s t c o.d i (fun j =>
        some (leNat ((List.range 4).map fun b => s.localByte c (o.va + 64 * i + 4 * j + b)))) ∧
      (i = 0 → ((t.core c).acc o.d).kind = .none ∧ ((t.core c).acc o.d).epoch = 0 ∧ ((t.core c).acc o.d).seg = none)) ∧
  -- TACST
  (o.opc = 0xD2 → o.m = 0 → onTile → tri = false → tdFmt v ∈ [1, 2, 3, 4, 5, 7, 9] →
    (∀ j, j < tdK v → (f32 (k.accW o.a i j)).finite = true) →
    ∃ r : Nat → Nat × Nat, (∀ j, j < tdK v → ConvertsTo (tdFmt v) (o.xop % 8) (draw (16 * i + j)) (f32 (k.accW o.a i j)).sign
        ((f32 (k.accW o.a i j)).rat : ℝ) (r j)) ∧
      RowRuns s c o (tdRows v) fun o' t => LocalWrote s t c (tdRow v i) (row r) ∧ o'.flags = flags (tdK v) r) ∧
  (o.opc = 0xD2 → o.m = 0 → onTile → tri = true → tdFmt v = 10 → (∀ j, j < tdK v → k.accW o.a i j < 2 ^ 32) →
    RowRuns s c o (tdRows v) fun o' t => LocalWrote s t c (tdRow v i) (row fun j => (k.accW o.a i j, 0)) ∧ o'.flags = o.flags) ∧
  -- TCVT of an accumulator, with its factor or without
  (o.opc = 0xD9 → o.m < 4 → o.m.testBit 0 = false → onTile → tdFmt v ∈ [1, 2, 3, 4, 5, 7, 9] →
    (∀ j, j < tdK v → if tri then triOk (k.accW o.a i j) = true else (f32 (k.accW o.a i j)).finite = true) →
    let scale := f32 (if o.m.testBit 1 then o.vb % 2 ^ 32 else 0x3F800000)
    scale.finite = true →
    let x (j : Nat) : Rat := if tri then triToInt (k.accW o.a i j) else (f32 (k.accW o.a i j)).rat
    let neg (j : Nat) : Bool := if tri then decide (triToInt (k.accW o.a i j) < 0) else (f32 (k.accW o.a i j)).sign
    ∃ r : Nat → Nat × Nat, (∀ j, j < tdK v → ConvertsTo (tdFmt v) (o.xop % 8) (draw (64 * i + j)) (neg j ^^ scale.sign)
        (x j * scale.rat : ℝ) (r j)) ∧
      RowRuns s c o (tdRows v) fun o' t => LocalWrote s t c (tdRow v i) (row r) ∧ o'.flags = flags (tdK v) r) ∧
  -- TMMA
  (o.opc = 0xD4 → i < tdRows v → tdRows v ≤ 16 → tdRows o.td2 ≤ 16 →
    let a := v
    let b := o.td2
    let acc := k.acc o.d
    (pairOk (tdFmt a) (tdFmt b) = true → tdFmt b < 7 → tdCols a = tdCols b → acc.kind.isTri = false →
      (∀ p, p < tdK a → (unpack (fmtOf (tdFmt a)) (tileCode s c a i p)).finite = true) →
      (∀ j p, j < tdRows b → p < tdK a → (unpack (fmtOf (tdFmt b)) (tileCode s c b j p)).finite = true) →
      (tdFmt a = 6 → ∀ p, p < tdK a → ((s.core c).scr.byte (tdRow a i + 32 + p / 32)).toNat ≠ 255 ∧
        ∀ j, j < tdRows b → ((s.core c).scr.byte (tdRow b j + 32 + p / 32)).toNat ≠ 255) →
      let n := kBlock (tdFmt a)
      ∃ word : Nat → Nat → Nat,
        (∀ j, word j 0 = k.accW o.d i j) ∧
        (∀ j q, j < tdRows b → n * q < tdK a → (f32 (word j q)).finite = true → ∃ z fl, RoundsTo (fmtOf 1) 0 0 z
          ((f32 (word j q)).rat + (((List.range n).map fun p =>
            if n * q + p < tdK a then tileRat s c a i (n * q + p) * tileRat s c b j (n * q + p) else 0).sum : Rat) : ℝ)
          (word j (q + 1), fl)) ∧
        RowRuns s c o (tdRows a) fun _ t =>
          AccRow s t c o.d i fun j => if j < tdRows b ∧ live j = true then some (word j ((tdK a + n - 1) / n)) else none) ∧
    (pairOk (tdFmt a) (tdFmt b) = true → 7 ≤ tdFmt b → acc.kind = .none ∨ acc.kind.isTri = true →
      ∃ word : Nat → Nat,
        (∀ j, j < tdRows b → Represents (word j) (triInt (k.accW o.d i j) +
          ((List.range (min (tdK a) (tdK b))).map fun p => tileInt s c a i p * tileInt s c b j p).sum)) ∧
        RowRuns s c o (tdRows a) fun _ t => AccRow s t c o.d i fun j => if j < tdRows b ∧ live j = true then some (word j) else none)) ∧
  -- TADD
  (o.opc = 0xDF → o.m < 3 → i < 16 → (o.m ≠ 2 → (k.acc o.b).kind.isTri = tri) →
    (tri = false →
      let y (j : Nat) : Nat := if o.m = 2 then o.vb % 2 ^ 32 else k.accW o.b i j
      let r (j : Nat) : Nat × Nat :=
        if o.m = 0 then fAdd (fmtOf 1) 0 0 (f32 (k.accW o.a i j)) (f32 (y j))
        else fMul (fmtOf 1) 0 0 (f32 (k.accW o.a i j)) (f32 (y j))
      RowRuns s c o 16 fun o' t => AccRow s t c o.d i (fun j => if live j then some (r j).1 else none) ∧
        o'.flags = flags 16 fun j => if live j then r j else (0, 0)) ∧
    (tri = true → o.m = 0 → ∃ word : Nat → Nat,
      (∀ j, j < 16 → Represents (word j) (triInt (k.accW o.a i j) + triInt (k.accW o.b i j))) ∧
      RowRuns s c o 16 fun _ t => AccRow s t c o.d i fun j => if live j then some (word j) else none))

/-! ### Packets, messages and units -/

/-- The packet p of queue q begins now: it is next, may begin, and its queue is the one that the leader serves (R17, R74). -/
def Begins (s : State) (q : Nat) (p : Packet) : Prop := (s.queue q).exec = none ∧ s.beginning q = some p

/-- Queue q executes the packet p, which has taken its whole effect or not. -/
def Executes (t : State) (q : Nat) (p : Packet) (done : Bool) : Prop :=
  ∃ e, (t.queue q).exec = some e ∧ e.pkt = p ∧ e.done = done

/-- Queue q halts on its next packet, which has not begun, with a code in QERR; nothing else changes (R71). -/
def Rejects (i : Instr) (s : State) (q : Nat) (p : Packet) (code : Nat) : Prop :=
  exec i s = .next (s.setQueue q { s.queue q with
    halt := true, err := BitVec.ofNat 64 ((p.w 0 % 2 ^ 16) * 2 ^ 48 + code * 2 ^ 40) })

/-- The packet p of queue q begins, is none that R72 rejects by its form alone, and its effect waits for no ARRIVE (R75). -/
def Begun (s : State) (q : Nat) (p : Packet) : Prop :=
  Begins s q p ∧ p.cmd ≤ 9 ∧ p.reserved = false ∧ s.behindArrive p = false

/-- Message k is the next of its source, destination and channel, and u is the state without it (R138, R360). -/
def Arrives (s : State) (k : Nat) (m : Msg) (u : State) : Prop := s.deliverable k = some m ∧ u = s.dropMsg k

/-- Message k has come to core c, whose weave is the one it is for. -/
def Meets (s : State) (k c : Nat) (m : Msg) (u : State) : Prop :=
  Arrives s k m u ∧ m.dst = .core c ∧ s.meet c m = .here

/-- The debug service answers the request `tag` of operation `op` with a status and a datum; nothing else changes (R65). -/
def Answers (s : State) (op : Nat) (tag : BitVec 8) (status data : Nat) : State :=
  { s with port := { s.port with replies := s.port.replies ++
    [[BitVec.ofNat 64 (op * 2 ^ 60 + tag.toNat * 2 ^ 52 + status), BitVec.ofNat 64 data, 0, 0]] } }

end Sys2Proof.Machine
end

