-- ==== Sys2Proof/Certificates/Slice0/Obligations.lean ====
section
/-! DEFINITION. The statements about the machine, in the order of OBLIGATIONS.json. -/

section

open Sys2Proof Sys2Proof.Machine

/-! ### Encoding and decoding -/

/-- R141. The all-zero word, whatever stands behind it, decodes to NOP, whose only word is zero; NOP changes nothing but the
pc, which moves by 4. -/
def Obligations.NopIsTheZeroWord : Prop :=
  (∀ rest : List Word32, decode (0 :: rest) = .ok .nop) ∧ encode .nop = [0] ∧ ∀ s : State, exec .nop s = .next (s.advance 4)

/-- R124, R159, R177, R179, R180, R172, R98, R163. The words that the spec writes out for a dozen instructions decode to
those instructions, and the word 0x000003C0 to none. -/
def Obligations.SpecExampleWordsDecode : Prop :=
  decode [0x04629080] = .ok (.add { m := 2, d := 4, a := 5, b := 6 }) ∧
  decode [0xB0001CEA, 0x56789ABC, 0x00001234] =
    .ok (.movExt { form := .lit, w := { g := 11, d := 7 }, lit := 0x123456789ABC }) ∧
  decode [0x0602A5D5, 0x02000060, 0x00000040] =
    .ok (.fetch { w := { m := 3, d := 9, a := 5 }, x := { sl := 2, e := 3 }, imm := 0x40 }) ∧
  decode [0x04629081, 0x10000000, 0] = .ok (.addExt { w := { m := 2, d := 4, a := 5, b := 6 }, x := { xop := 1 } }) ∧
  decode [0x00010009, 0x01000080, 0x00000201] = .ok (.fork { w := { a := 2 }, x := { sl := 1, e := 4 }, imm := 0x201 }) ∧
  decode [0x04628015, 0x08001000, 0] = .ok (.sigv { w := { m := 2, a := 5, b := 6 }, x := { sr := 1, f := 4 } }) ∧
  decode [0x08018901, 0, 0x00000C08] = .ok (.bfx { w := { m := 4, d := 2, a := 3 }, imm := 0xC08 }) ∧
  decode [0x0FFFF440] = .ok (.br { m := 7, b := 31, a := 31, d := 29 }) ∧
  decode [0x084188E0] = .ok (.cmp { m := 4, d := 2, a := 3, b := 4 }) ∧
  decode [0x020104EC] = .ok (.clz { m := 1, d := 1, a := 2 }) ∧
  decode [0x00000004] = .ok (.endInstr {}) ∧ decode [0x02000004] = .ok (.endInstr { m := 1 }) ∧
  decode [0x00000068] = .ok (.rfe {}) ∧ decode [0x00144C64] = .ok (.trap { a := 8, b := 1, d := 19 }) ∧
  decode [0x0012D85C] = .ok (.mts { b := 1, a := 5, d := 22 }) ∧ decode [0x001B0C58] = .ok (.mfs { b := 1, a := 22, d := 3 }) ∧
  decode [0x000003C0] = .error (.unassigned 0xF0)

/-- R100 to R103, R117 to R122. For every well-formed instruction with every operand at every value its encoding admits, the
decoder reads back from its words, whatever words follow them, that instruction with those operands. -/
def Obligations.DecodeOfEncodeIsTheInstruction : Prop :=
  ∀ (i : Instr) (rest : List Word32), i.wf = true → i.isCore = true → decode (encode i ++ rest) = .ok i

/-- R100, R123, R124. The other direction: what the decoder accepts is a well-formed core instruction, and the words it read are
that instruction's only encoding. A word whose opcode the tables R117 to R122 do not assign in its length class is nothing's,
whatever its fields; OP 0x00 with a nonzero field is such a word, and every OP from 0xF0 on. -/
def Obligations.DecodedWordsAreTheEncoding : Prop :=
  (∀ (ws : List Word32) (i : Instr), decode ws = .ok i →
    i.isCore = true ∧ i.wf = true ∧ ∃ rest, ws = encode i ++ rest) ∧
  (∀ (w : Word32) (rest : List Word32) (i : Instr), w ≠ 0 → (opOf w = 0 ∨ 0xF0 ≤ opOf w) → decode (w :: rest) ≠ .ok i) ∧
  ∀ (w : Word32) (rest : List Word32) (i : Instr), w ≠ 0 → rowOf (lenOf w != 0) (opOf w) = none → decode (w :: rest) ≠ .ok i

/-! ### Steps -/

/-- R100, R123. When the words at the moving core's pc are a well-formed instruction's, all within the code, the step is that
instruction's effect at that state, and one core cycle passes; where that effect needs an access of the device's own whose turn at its
slice has not come, the step does nothing yet (assumption log, entry 83). -/
def Obligations.StepRunsTheDecodedInstruction : Prop :=
  ∀ (s s' : State) (c : Nat) (i : Instr), Moves s c s' → Issuing s' → i.wf = true → i.isCore = true →
    CodeAt s' (encode i) → s'.me.pl.pc + i.len ≤ s'.codeSize c s'.me.pl.sup →
    step s = s'.orStall (tickOut (exec i s')) ∧
    ∀ t, exec i s' = .next t → step s = .next (if t.stall then s' else { t with cycles := t.cycles + 1 })

/-- R100, R123 steps 1 and 2, R124. Words at the pc that are no instruction take the illegal-instruction trap, cause 0x01, with
word 0 in ETVAL; an instruction with a word beyond the end of the code takes the local-address trap, cause 0x05, at word 0. -/
def Obligations.BadWordsTrapAtTheFetch : Prop :=
  ∀ (s s' : State) (c : Nat) (w : Word32) (ws : List Word32) (e : DecodeError), Moves s c s' → Issuing s' →
    CodeAt s' (w :: ws) → (w :: ws).length = wordCount w →
    (decode (w :: ws) = .error e → s'.me.pl.pc + 4 * wordCount w ≤ s'.codeSize c s'.me.pl.sup →
      ∃ t, step s = tickOut (.next t) ∧ TrapTaken s' t 0x01 w.toNat) ∧
    (s'.codeSize c s'.me.pl.sup < s'.me.pl.pc + 4 * wordCount w →
      ∃ t, step s = tickOut (.next t) ∧ TrapTaken s' t 0x05 s'.me.pl.pc)

/-- The model's form of a machine of many agents (assumption log, entry 1). An entry of the schedule that names a command or an
event of well-formed units runs it, or, where an access of the device's own that it needs has to wait for its turn, is spent (entry 83);
an entry that names a core instruction, or units that do not exist, does nothing. -/
def Obligations.StepRunsTheScheduledEvent : Prop :=
  ∀ (s : State) (i : Instr) (rest : List Act), s.sched = .event i :: rest →
    let u := { s with sched := rest, stall := false }
    (i.isCore = false → i.wf = true → step s = u.orStall (exec i u) ∧
      ∀ t, exec i u = .next t → step s = .next (if t.stall then u else t)) ∧
    ((i.isCore = true ∨ i.wf = false) → step s = .next u)

/-- Every instruction, command and event runs on every state: no rule of the spec stops the machine, and no step is refused or
faults (what R18 leaves undefined is a free outcome: assumption log, entry 19). -/
def Obligations.StepsRunOnEveryState : Prop :=
  (∀ s : State, ∃ t, step s = .next t) ∧ ∀ (s : State) (i : Instr), ∃ t, exec i s = .next t

/-- R104. An instruction with a guard that does not hold, which passes the privilege checks that come before the guards,
changes nothing but the pc. -/
def Obligations.GuardNotHoldingChangesNothing : Prop :=
  ∀ (i : Instr) (s : State), i.wf = true → i.isCore = true → i ≠ .nop → ¬ Runs i s →
    (supervisorForm i = true → s.me.pl.sup = true) →
    (majorOf i = some 0x16 → sprAccess (fieldsOf i) s ((fieldsOf i).b * 32 + (fieldsOf i).a) false = none) →
    (majorOf i = some 0x17 → sprAccess (fieldsOf i) s ((fieldsOf i).b * 32 + (fieldsOf i).d) true = none) →
    exec i s = .next (s.advance i.len)

/-- R123 step 3. A supervisor-only form in user mode takes cause 0x03 with word 0 in ETVAL, whatever its guards: RFE, WAITI,
SYNCI, TLBI, CFLUSH.inv and CFLUSH.wbinv, SPINV.all. -/
def Obligations.SupervisorFormsTrapInUserMode : Prop :=
  ∀ (i : Instr) (s : State), i.wf = true → supervisorForm i = true → s.me.pl.sup = false →
    TrapsWith i s 0x03 ((encode i).headD 0).toNat

/-! ### Traps and the special registers -/

/-- R163, R421 to R423. SVC, TRAP and BRK take their trap at themselves: SVC cause 0x12 with the 18-bit number, BRK cause 0x11
with the 18-bit tag, TRAP the cause in word0[17:10] with the tag in word0[27:18]; EPC is their own offset. -/
def Obligations.TrapInstructionsTrap : Prop :=
  ∀ (i : Instr) (s : State), i.wf = true → Runs i s →
    let w : Word32 := (encode i).headD 0
    (majorOf i = some 0x18 → TrapsWith i s 0x12 (w.extractLsb' 10 18).toNat) ∧
    (majorOf i = some 0x19 → TrapsWith i s (w.extractLsb' 10 8).toNat (w.extractLsb' 18 10).toNat) ∧
    (majorOf i = some 0x1B → TrapsWith i s 0x11 (w.extractLsb' 10 18).toNat)

/-- R164, R424, R439, R440. RFE in supervisor mode with a threadlet under it. DISP 00: the privilege is PPRV's and the pc EPC's when EPC is a
permitted offset of the code it returns to, and the trap of R158 is taken at the RFE when it is not. DISP 01 and 10 end the
threadlet, keeping or freeing its frame; one whose frame a cancel flushed meanwhile ends with that flush. DISP 11 with ECAUSE 0x00
parks the core, when a spill or a fill under way has ended, or first stops its engines and waits while a unit is in flight; it takes
the reserved-field trap otherwise, but for cause 0x10 with RSTB: then the threadlet ends, its frame freed and its log entry released, and
a request fires it again, with its afterimage and its retry count plus 1, on the next core of the region in ascending core id, wrapping,
fenced clusters skipped; one without an entry, or restarted three times, ends as with DISP 10. With REC = 1 or HANDLE = 0, DISP 00, 01 and 10 send
the core back to the choice of what to issue, in user mode, a firmware core to EPC; the return from a recorded 0x0B first releases
the journal entry that AUXID names, and that from a recorded 0x0E lets a core out of the state in which it makes no move. A firmware
core's return to EPC is the model's reading (assumption log, entry 61). -/
def Obligations.RfeActsByItsDisposition : Prop :=
  ∀ (i : Instr) (s : State), i.wf = true → majorOf i = some 0x1A → Runs i s → s.me.pl.sup = true →
    let disp := (s.me.sup.estat.extractLsb' 38 2).toNat
    let recd := s.me.sup.estat.getLsbD 40
    let none_ := recd = true ∨ s.me.sup.estat.extractLsb' 0 32 = 0
    let epc := s.me.sup.epc.toNat
    let size := s.codeSize s.cur (s.me.sup.estat.getLsbD 44)
    let back := s.modMe fun c => { c with
      pl := { c.pl with sup := c.sup.estat.getLsbD 44, pc := c.sup.epc.toNat, pipe := .run } }
    let left (u : State) : Out := .next ((u.modMe fun c => { c with pl := { c.pl with sup := false, pipe := .idle } }).boundary s.cur)
    (¬ none_ →
      (disp = 0 → epc % 4 = 0 → epc < size → s.me.pl.doomed = false → s.me.pl.haltReq = false → exec i s = .next back) ∧
      (disp = 0 → epc % 4 ≠ 0 → TrapsWith i s 0x04 epc) ∧
      (disp = 0 → epc % 4 = 0 → size ≤ epc → TrapsWith i s 0x05 epc) ∧
      (disp = 1 → s.me.pl.doomed = false → exec i s = .next ((s.endThreadlet s.cur false).boundary s.cur)) ∧
      (disp = 2 → s.me.pl.doomed = false → exec i s = .next ((s.endThreadlet s.cur true).boundary s.cur)) ∧
      ((disp = 1 ∨ disp = 2) → s.me.pl.doomed = true → exec i s = .next ((s.endDoomed s.cur).boundary s.cur))) ∧
    (none_ → disp ≤ 2 → isFw s.cur = false →
      (¬ (recd = true ∧ (s.me.sup.ecause = 0x0B ∨ s.me.sup.ecause = 0x0E)) → exec i s = left s) ∧
      (recd = true → s.me.sup.ecause = 0x0B → exec i s = left (s.modMe (·.setJournal s.me.pl.auxid {}))) ∧
      (recd = true → s.me.sup.ecause = 0x0E → exec i s = left (s.modMe (·.modFe fun f => { f with exhausted := false })))) ∧
    (none_ → disp ≤ 2 → isFw s.cur = true → recd = false → s.me.pl.doomed = false → s.me.pl.haltReq = false →
      (epc % 4 = 0 → epc < size → exec i s = .next back) ∧
      (epc % 4 ≠ 0 → TrapsWith i s 0x04 epc) ∧ (epc % 4 = 0 → size ≤ epc → TrapsWith i s 0x05 epc)) ∧
    (disp = 3 → s.me.sup.ecause = 0 →
      let t := s.finishMoves s.cur
      (t.settling s.cur = false → exec i s = .next (t.park s.cur)) ∧
      (t.settling s.cur = true → exec i s = .next (t.modCore s.cur (·.modEng (·.stop s.cycles))))) ∧
    (disp = 3 → s.me.sup.ecause ≠ 0 → (s.me.sup.ecause ≠ 0x10 ∨ s.me.sup.estat.getLsbD 41 = false) →
      TrapsWith i s 0x02 s.me.sup.estat.toNat) ∧
    (disp = 3 → s.me.sup.ecause = 0x10 → s.me.sup.estat.getLsbD 41 = true →
      let log := (s.cluster (clusterOf s.cur)).log
      let entry := s.me.pl.after.bind (Sparse.get none log ·)
      (∀ n e j, s.me.pl.doomed = false → s.me.pl.haltReq = false → s.me.pl.after = some n → entry = some e → e.retry < 3 →
        s.regionOf s.cur = some j →
        let u := (s.modMe (·.modPl fun p => { p with after := none })).endThreadlet s.cur true
        let k := u.cluster (clusterOf s.cur)
        ∃ d, exec i s = .next ((u.setCluster (clusterOf s.cur) { k with log := Sparse.set none k.log n none }).send
            { src := .core s.cur, dst := .core d, chan := .request, region := some j
              body := .restart e.tix e.pri e.job (e.retry + 1) e.frame }) ∧
          let open_ (x : Nat) : Prop := x ∈ (s.region j).cores ∧ s.fw.fenced.testBit (clusterOf x) = false
          ((∃ x, open_ x) → open_ d) ∧ ∀ x, open_ x → (s.cur < d ∧ (s.cur < x → d ≤ x)) ∨ (d ≤ s.cur ∧ d ≤ x ∧ x ≤ s.cur)) ∧
      ((∀ e, entry = some e → 3 ≤ e.retry) → ¬ none_ → s.me.pl.doomed = false →
        exec i s = .next ((s.endThreadlet s.cur true).boundary s.cur)) ∧
      (¬ none_ → s.me.pl.doomed = true → exec i s = .next ((s.endDoomed s.cur).boundary s.cur)) ∧
      ((s.me.pl.doomed = true ∨ ∀ e, entry = some e → 3 ≤ e.retry) → none_ → isFw s.cur = false → exec i s = left s))

/-- R138, R165, R166. WAITI stops issue until something it waits for is there, and has no effect but the pc's when something is
there already. SYNCI sends one signal-channel message to every core of its scope instance, a firmware core itself among them, and
changes nothing else; a core that such a message reaches, whoever sent it, holds no code or constant line any more; while others of
the scope are awaited nothing is signalled, and the last of them signals the SYNCI's slot with status 0. That a WAITI resumes at once
for a message that waits to be taken at the core is the model's reading of what it waits for (assumption log, entry 73). -/
def Obligations.WaitiAndSynciAct : Prop :=
  (∀ (i : Instr) (s : State), i.wf = true → s.me.pl.sup = true →
    (majorOf i = some 0x1C → Runs i s →
      exec i s = .next ((s.modMe (·.modPl fun p => { p with waiti := !s.waking s.cur })).advance i.len)) ∧
    (majorOf i = some 0x1D → Issues i s →
      let cs := scopeCores (fieldsOf i).sc s.cur
      let u := issued s (slotRef i s)
      exec i s = .next (({ u with
        syncs := s.syncs ++ [{ id := s.syncNext, ref := slotRef i s, await := cs }]
        syncNext := s.syncNext + 1
        msgs := s.msgs ++ cs.map fun d =>
          { src := .core s.cur, dst := .core d, chan := .signal, body := .synci s.syncNext } } : State).advance i.len))) ∧
  (∀ sc c d, c < 4096 → (d ∈ scopeCores sc c ↔ validCore d = true ∧ sameInst sc c d = true)) ∧
  (∀ sc c, isFw c = true → c ∈ scopeCores sc c) ∧
  ∀ (s : State) (k d id : Nat) (m : Msg), s.deliverable k = some m → m.dst = .core d → m.body = .synci id →
    let t := s.deliverOrder k
    let u := (s.dropMsg k).modCore d (·.modPl fun p => { p with icache := [], ccache := [], waiti := false })
    (t.core d).pl.icache = [] ∧ (t.core d).pl.ccache = [] ∧
    ∀ o, s.syncs.find? (fun x => x.id == id) = some o →
      (o.await.filter (fun c => c != d) = [] →
        t = ({ u with syncs := s.syncs.filter fun x => x.id != id } : State).signal (.engine d) o.ref 0 0 0) ∧
      (o.await.filter (fun c => c != d) ≠ [] →
        t.msgs = u.msgs ∧ { o with await := o.await.filter fun c => c != d } ∈ t.syncs)

/-- R98, R162, R42. MFS and MTS. Whatever the guards: an unassigned number, and an MTS of a read-only register, take cause 0x01; an
access that the table does not permit a user threadlet takes cause 0x03 with the number. When the guards hold, a permitted MFS
writes gD with the register, zero-extended; a permitted MTS of a value with no bit outside the register's, which meets the
register's own condition, writes it; with such a bit, or where that condition fails, it takes cause 0x02 with the value: for FBASE
and FLIM the condition is that the pool begins and ends on whole blocks of 256 bytes, is 1 to 4,096 blocks long, and that no frame of
the core is allocated. -/
def Obligations.MfsAndMtsAct : Prop :=
  ∀ (i : Instr) (s : State), i.wf = true →
    let w : Word32 := (encode i).headD 0
    let rd := (fieldsOf i).b * 32 + (fieldsOf i).a
    let wr := (fieldsOf i).b * 32 + (fieldsOf i).d
    (majorOf i = some 0x16 → sprInfo rd = none → TrapsWith i s 0x01 w.toNat) ∧
    (majorOf i = some 0x17 → sprInfo wr = none → TrapsWith i s 0x01 w.toNat) ∧
    (majorOf i = some 0x17 → ∀ r, sprInfo wr = some r → r.ro = true → TrapsWith i s 0x01 w.toNat) ∧
    (majorOf i = some 0x16 → ∀ r, sprInfo rd = some r → s.me.pl.sup = false → r.ur = false → TrapsWith i s 0x03 rd) ∧
    (majorOf i = some 0x17 → ∀ r, sprInfo wr = some r → r.ro = false → s.me.pl.sup = false → r.uw = false →
      TrapsWith i s 0x03 wr) ∧
    (majorOf i = some 0x16 → Runs i s → ∀ r, sprInfo rd = some r → (s.me.pl.sup = true ∨ r.ur = true) →
      WritesG i s (BitVec.ofNat 64 (s.readSpr s.cur rd))) ∧
    (majorOf i = some 0x17 → Runs i s → ∀ r, sprInfo wr = some r → r.ro = false → (s.me.pl.sup = true ∨ r.uw = true) →
      opA i s &&& ~~~BitVec.ofNat 64 r.mask = 0 → s.sprCond s.cur wr (opA i s).toNat = true →
        exec i s = .next ((s.writeSpr s.cur wr (opA i s).toNat).advance i.len)) ∧
    (majorOf i = some 0x17 → Runs i s → ∀ r, sprInfo wr = some r → r.ro = false → (s.me.pl.sup = true ∨ r.uw = true) →
      (opA i s &&& ~~~BitVec.ofNat 64 r.mask ≠ 0 ∨ s.sprCond s.cur wr (opA i s).toNat = false) →
        TrapsWith i s 0x02 (opA i s).toNat) ∧
    ∀ v, let pool := fun b l => decide (b % 256 = 0 ∧ l % 256 = 0 ∧ b < l ∧ l - b ≤ 256 * 4096)
      let idle := s.me.fe.frames.all fun e => e.2.st == 0
      s.sprCond s.cur 0x010 v = (pool v s.me.spr.flim.toNat && idle) ∧
      s.sprCond s.cur 0x011 v = (pool s.me.spr.fbase.toNat v && idle)

/-- R97, R98. A special register reads as it was last written, for every number and value that an MTS may write; STEPCTL, which
acts, and the shutters, whose HITS a write clears, apart. -/
def Obligations.SpecialRegistersReadBack : Prop :=
  ∀ (s : State) (c n v : Nat) (r : SprInfo), sprInfo n = some r → r.ro = false → v &&& r.mask = v → n ≠ 0x110 →
    (n < 0x100 ∨ 0x108 ≤ n) → (s.writeSpr c n v).readSpr c n = v

/-- R9, R89, R95, R97, R99, R422. What reset leaves, where the spec gives it: no window enabled, no error word, no queue
enabled, no region loaded, no frame live, no message in flight, g0 zero and p0 set, and the special registers as the table has them:
RGNID 0x7F, FWLO 8, FWHI 16, every other one 0 but CORE_ID, which is fixed, and EVEC, which firmware writes. -/
def Obligations.ResetLeavesWhatTheSpecGives : Prop :=
  State.reset.port.inWin = [] ∧ State.reset.port.outWin = [] ∧ State.reset.port.err = 0 ∧
  (∀ q, State.reset.queue q = {}) ∧ (∀ r, State.reset.region r = {}) ∧ State.reset.msgs = [] ∧
  (∀ c f, ((State.reset.core c).frame f).st = 0) ∧
  (∀ c, (State.reset.core c).readP 0 = true ∧ (State.reset.core c).readG 0 = 0) ∧
  ∀ c, State.reset.readSpr c 0x001 = 0x7F ∧ State.reset.readSpr c 0x016 = 8 ∧ State.reset.readSpr c 0x017 = 16 ∧
    ∀ n r, sprInfo n = some r → n ∉ [0x000, 0x001, 0x016, 0x017, 0x032] → State.reset.readSpr c n = 0

/-! ### Integers, bits and predicates -/

/-- R170 to R172. ADD, SUB and MUL, in every form, at every width, signed and natural, saturating or not, complete with gD the
sum, difference or product on w bits, extended by M[2]; MULH, MULHN, DIV, DIVN, REM and REMN with the upper half of the product, the
quotient truncated toward zero (all ones for a zero divisor) or the remainder (the dividend for a zero divisor), extended as
the instruction reads them. Nothing else changes but the pc, and a destination g0 takes nothing. -/
def Obligations.ArithmeticResults : Prop :=
  ∀ (i : Instr) (s : State) (op : Nat), i.wf = true → majorOf i = some op → Runs i s →
    let a := (opA i s).setWidth (widthOf i)
    let b := (opB i s).setWidth (widthOf i)
    let signed := decide ((fieldsOf i).m < 4)
    (0x20 ≤ op → op ≤ 0x22 → WritesG i s (extendTo64 signed (arith op signed ((fieldsOf i).xop % 2 == 1) a b))) ∧
    (0x23 ≤ op → op ≤ 0x28 → WritesG i s (extendTo64 (op % 2 == 1) (upperOrDivide op a b)))

/-- R174 to R176. The five logical operations and SHL and ROT, extended by M[2]; SHR, zero-extended; SHA, sign-extended. MIN and
MAX compare as signed and sign-extend, MINN and MAXN compare as natural and zero-extend; ABS and NEG wrap to w bits and
sign-extend. -/
def Obligations.LogicShiftAndExtremumResults : Prop :=
  ∀ (i : Instr) (s : State) (op : Nat), i.wf = true → majorOf i = some op → Runs i s →
    let a := (opA i s).setWidth (widthOf i)
    let b := (opB i s).setWidth (widthOf i)
    let signed := decide ((fieldsOf i).m < 4)
    (0x29 ≤ op → op ≤ 0x2D → WritesG i s (extendTo64 signed (logic op a b))) ∧
    (0x2E ≤ op → op ≤ 0x31 →
      WritesG i s (extendTo64 (if op = 0x2F then false else if op = 0x30 then true else signed) (shifted op a b))) ∧
    (0x32 ≤ op → op ≤ 0x37 → WritesG i s (extendTo64 (op != 0x34 && op != 0x35) (extremum op a b)))

/-- R177, R178, R183. CMP writes pD with its condition, on 64 bits in the base form and with L = 0b10, on the width of XOP[1:0] with
L = 0b01 and 0b11; SEL writes gA or the second operand by predicate M; MOV writes the second operand; PAND, POR, PXOR, PNOT and
PMOV write pD. -/
def Obligations.CompareSelectAndPredicateResults : Prop :=
  ∀ (i : Instr) (s : State), i.wf = true → Runs i s →
    let k := fieldsOf i
    let p := s.me.readP k.a
    let q := s.me.readP k.b
    (majorOf i = some 0x38 → (k.l = 0 ∨ k.l = 2) → WritesP i s (condition k.m (opA i s) (opB i s))) ∧
    (majorOf i = some 0x38 → (k.l = 1 ∨ k.l = 3) →
      WritesP i s (condition k.m ((opA i s).setWidth (8 * 2 ^ k.xop)) ((opB i s).setWidth (8 * 2 ^ k.xop)))) ∧
    (majorOf i = some 0x39 → WritesG i s (if s.me.readP k.m then opA i s else opB i s)) ∧
    (majorOf i = some 0x3A → WritesG i s (opB i s)) ∧
    (majorOf i = some 0x46 → WritesP i s (p && q)) ∧ (majorOf i = some 0x47 → WritesP i s (p || q)) ∧
    (majorOf i = some 0x48 → WritesP i s (p != q)) ∧ (majorOf i = some 0x49 → WritesP i s (!p)) ∧
    (majorOf i = some 0x4A → WritesP i s p)

/-- R173, R179 to R182, R184. CLZ, CTZ, FFS, POPC and BREV work on every element of gA in its place; BFX extracts len bits from bit
lsb and extends them, BFI replaces those bits of gD and keeps the others; SEXT and ZEXT extend from 8, 16 or 32 bits; LEA
writes gA + B × 2^M + the sign-extended IMM32; MADD a × b + c on w bits, extended by M[2]; SLICE the home slice of gA. -/
def Obligations.BitFieldAndAddressResults : Prop :=
  ∀ (i : Instr) (s : State), i.wf = true → Runs i s →
    let k := fieldsOf i
    let w := widthOf i
    let lsb := k.imm % 64
    let len := k.imm / 256
    (∀ op, majorOf i = some op → 0x3B ≤ op → op ≤ 0x3F → ∃ v : Word, WritesG i s v ∧ ∀ j, j < 64 / w →
      v.extractLsb' (j * w) w = element op ((opA i s).extractLsb' (j * w) w)) ∧
    (majorOf i = some 0x40 → WritesG i s (extendTo64 (decide (4 ≤ k.m)) ((opA i s).extractLsb' lsb len))) ∧
    (majorOf i = some 0x41 → ∃ v : Word, WritesG i s v ∧ ∀ j, j < 64 →
      v.getLsbD j = if lsb ≤ j ∧ j < lsb + len then (opA i s).getLsbD (j - lsb) else (opD i s).getLsbD j) ∧
    (majorOf i = some 0x42 → WritesG i s (((opA i s).setWidth w).signExtend 64)) ∧
    (majorOf i = some 0x43 → WritesG i s (((opA i s).setWidth w).setWidth 64)) ∧
    (majorOf i = some 0x44 → WritesG i s (opA i s + (opB i s <<< k.m) + opImm i)) ∧
    (majorOf i = some 0x45 → WritesG i s (extendTo64 (decide (k.m < 4))
      ((opA i s).setWidth w * (opB i s).setWidth w + (opC i s).setWidth w))) ∧
    (majorOf i = some 0x4B → WritesG i s ((homeSliceOf (opA i s)).setWidth 64))

/-! ### Floating point -/

/-- R185 to R189, R239, R307, R308, R315. FADD, FSUB, FMUL, FDIV, FFMA, FSQRT, FMIN and FMAX complete with gD the result of R188 or R189,
rounded once by RM (RNE without word 1), and EXCFLAGS with the flags raised; with a raised flag enabled they take cause 0x0F instead, gD
not written. The result of R188 is the exact sum, product, sum of product and addend, quotient or square root of the operands, rounded
once, with the special cases of NaNs, infinities and signed zeros; FMIN and FMAX give one of their operands unchanged. -/
def Obligations.FloatArithmeticResults : Prop :=
  (∀ code ∈ [1, 2, 3, 11], ∀ mode draw : Nat, mode ≤ 4 → ArithmeticIsRight (fmtOf code) mode draw) ∧
  (∀ code ∈ [1, 2, 3, 11], ∀ (isMax : Bool) (x y : Nat), x < 2 ^ (fmtOf code).width → y < 2 ^ (fmtOf code).width →
    PicksExtreme (fmtOf code) isMax x y (fMinMax (fmtOf code) isMax x y)) ∧
  ((fmtOf 1).nan = 0x7FC00000 ∧ (fmtOf 11).nan = 0x7FF8000000000000 ∧ (fmtOf 2).nan = 0x7E00 ∧ (fmtOf 3).nan = 0x7FC0) ∧
  ∀ (i : Instr) (s : State), i.wf = true → Runs i s →
    let f := fmtK (fieldsOf i).m
    let rm := (fieldsOf i).xop % 8
    let a := floatOf i (opA i s)
    let b := floatOf i (opB i s)
    (majorOf i = some 0x60 → FloatResult i s (fAdd f rm 0 a b)) ∧
    (majorOf i = some 0x61 → FloatResult i s (fAdd f rm 0 a b.neg)) ∧
    (majorOf i = some 0x62 → FloatResult i s (fMul f rm 0 a b)) ∧
    (majorOf i = some 0x63 → FloatResult i s (fFma f rm 0 a b (floatOf i (opC i s)))) ∧
    (majorOf i = some 0x64 → FloatResult i s (fDiv f rm 0 a b)) ∧
    (majorOf i = some 0x65 → FloatResult i s (fSqrt f rm 0 a)) ∧
    (majorOf i = some 0x66 →
      FloatResult i s (fMinMax f false ((opA i s).toNat % 2 ^ f.width) ((opB i s).toNat % 2 ^ f.width))) ∧
    (majorOf i = some 0x67 →
      FloatResult i s (fMinMax f true ((opA i s).toNat % 2 ^ f.width) ((opB i s).toNat % 2 ^ f.width)))

/-- R190 to R192. FCMP writes pD with the condition of XOP; FCVT writes the converted value, from float or integer to float by
RM, and from float to integer, clipped to the destination's range; FABS clears the sign bit of the kind, FNEG inverts it, and
FCLASS writes the one-hot class, none of the three raising a flag. -/
def Obligations.FloatCompareConvertSignClassResults : Prop :=
  ∀ (i : Instr) (s : State), i.wf = true → Runs i s →
    let f := fmtK (fieldsOf i).m
    let rm := (fieldsOf i).xop % 8
    let ks := (fieldsOf i).c
    let x := (opA i s).toNat
    (majorOf i = some 0x68 →
      Raises i s (fCond (fieldsOf i).xop (floatOf i (opA i s)) (floatOf i (opB i s))).2
        (·.writeP (fieldsOf i).d (fCond (fieldsOf i).xop (floatOf i (opA i s)) (floatOf i (opB i s))).1)) ∧
    (majorOf i = some 0x69 → (fieldsOf i).m < 4 → ks < 4 → ks ≠ (fieldsOf i).m → FloatResult i s (roundV f rm 0 (valK ks x))) ∧
    (majorOf i = some 0x69 → ks = (fieldsOf i).m → floatOf i (opA i s) ≠ .nan false →
      FloatResult i s (roundV f rm 0 (floatOf i (opA i s)))) ∧
    (majorOf i = some 0x69 → 4 ≤ ks → FloatResult i s (roundV f rm 0 (intV (intK ks x)))) ∧
    (majorOf i = some 0x69 → 4 ≤ (fieldsOf i).m →
      FloatResult i s (((BitVec.ofInt 64 (toInt rm 0 (rangeK (fieldsOf i).m).1 (rangeK (fieldsOf i).m).2 (valK ks x)).1).toNat,
        (toInt rm 0 (rangeK (fieldsOf i).m).1 (rangeK (fieldsOf i).m).2 (valK ks x)).2))) ∧
    (majorOf i = some 0x6A → WritesG i s (BitVec.ofNat 64 (x % 2 ^ (f.width - 1)))) ∧
    (majorOf i = some 0x6B → ∃ v : Word, WritesG i s v ∧ ∀ j, j < 64 →
      v.getLsbD j = (decide (j < f.width) && ((opA i s).getLsbD j != decide (j = f.width - 1)))) ∧
    (majorOf i = some 0x6C → WritesG i s (BitVec.ofNat 64 (2 ^ classBit f (x % 2 ^ f.width))))

/-- R133, R186, R239, R315. Rounding is correct: when it does not overflow, the code that Round gives for an exact value holds
the value itself if it is representable, and else a neighbour on the side that the mode chooses, no other value of the format lying
between: toward zero in RTZ, upward in RUP, downward in RDN, and in RNE one at least as near as any other value of the format, and, where
another value is as near, the one whose code is even. -/
def Obligations.RoundingGivesTheNeighbourTheModeChooses : Prop :=
  ∀ (code mode : Nat) (neg : Bool) (m : Nat) (e : Int), code ∈ [1, 2, 3, 4, 5, 6, 11] → mode < 4 →
    let f := fmtOf code
    let r := roundTo f mode 0 neg m e
    let x : Rat := (if neg then -1 else 1) * (m : Rat) * (2 : Rat) ^ e
    let y := (unpack f r.1).rat
    r.2 &&& 4 = 0 →
      (∀ c n q k, c < 2 ^ f.width → unpack f c = .fin n q k →
        (mode = 0 → |x - y| ≤ |x - (unpack f c).rat|) ∧
        (mode = 0 → |x - y| = |x - (unpack f c).rat| → (unpack f c).rat ≠ y → r.1 % 2 = 0) ∧
        (mode = 1 → |(unpack f c).rat| ≤ |x| → |(unpack f c).rat| ≤ |y|) ∧
        (mode = 2 → x ≤ (unpack f c).rat → y ≤ (unpack f c).rat) ∧
        (mode = 3 → (unpack f c).rat ≤ x → (unpack f c).rat ≤ y)) ∧
      (mode = 1 → |y| ≤ |x|) ∧ (mode = 2 → x ≤ y) ∧ (mode = 3 → y ≤ x) ∧ (r.2 &&& 1 = 0 ↔ y = x)

/-! ### Threadlets, slots, branches -/

/-- R158, R159. BR, JAL, JALR and DBNZ to a permitted target move the pc there, with the link or the counter written; a target that
is no multiple of 4 takes cause 0x04, one outside the code cause 0x05, at the branch, nothing written; DBNZ falls through when
the counter reaches zero, and on g0 always branches. The model's choices: the order 0x04 before 0x05 for a target that is both
(assumption log, entry 23), and the clause of a JALR whose gA is 2^32 or more, as far as its ETVAL, the whole of gA, goes (entry 75). -/
def Obligations.BranchesMoveThePc : Prop :=
  ∀ (i : Instr) (s : State), i.wf = true → Runs i s →
    let k := fieldsOf i
    let w : Word32 := (encode i).headD 0
    let disp : Int := 4 * (BitVec.ofNat 32 k.imm).toInt
    let pc : Int := s.me.pl.pc
    let next : Word := BitVec.ofNat 64 (s.me.pl.pc + i.len)
    let goes (t : Int) (f : Core → Core) : Prop :=
      (t % 4 = 0 → 0 ≤ t → t < s.codeSize s.cur s.me.pl.sup →
        exec i s = .next (s.modMe fun c => (f c).modPl fun p => { p with pc := t.toNat })) ∧
      (t % 4 ≠ 0 → TrapsWith i s 0x04 (BitVec.ofInt 64 t).toNat) ∧
      (t % 4 = 0 → (t < 0 ∨ s.codeSize s.cur s.me.pl.sup ≤ t) →
        TrapsWith i s 0x05 (BitVec.ofInt 64 t).toNat)
    (majorOf i = some 0x10 → goes (pc + if k.l = 0 then 4 * (w.extractLsb' 10 18).toInt else disp) id) ∧
    (majorOf i = some 0x11 → goes (pc + if k.l = 0 then 4 * (w.extractLsb' 15 13).toInt else disp) (·.writeG k.d next)) ∧
    (majorOf i = some 0x12 → (opA i s).toNat < 2 ^ 32 →
      goes ((opA i s).toNat + (BitVec.ofNat 32 k.imm).toInt) (·.writeG k.d next)) ∧
    (majorOf i = some 0x12 → 2 ^ 32 ≤ (opA i s).toNat → TrapsWith i s 0x05 (opA i s).toNat) ∧
    (majorOf i = some 0x13 → opD i s ≠ 1 →
      goes (pc + if k.l = 0 then 4 * (w.extractLsb' 15 13).toInt else disp) (·.writeG k.d (opD i s - 1))) ∧
    (majorOf i = some 0x13 → opD i s = 1 → WritesG i s 0)

/-- R142, R35. END ends the running threadlet: its registers are discarded and the core is idle; END.k keeps the frame, Ready when
a firing of it is queued and Dormant otherwise; END.f, or a pending FREE, frees it, and its generation advances from 255 to
1. -/
def Obligations.EndDiscardsTheThreadlet : Prop :=
  ∀ (i : Instr) (s : State), i.wf = true → majorOf i = some 0x01 → Runs i s → s.me.pl.live = true →
    let fix := s.me.pl.fix
    let fr := s.me.frame fix
    ∃ t, exec i s = .next t ∧ t.me.regs = {} ∧ t.me.pl.live = false ∧ t.me.pl.pipe = .idle ∧ t.me.pl.sup = false ∧
      SameMemory s t ∧
      ((fieldsOf i).m = 0 → fr.freeP = false →
        t.me.frame fix = { fr with st := if s.me.fe.queued fix then 2 else 1, age := s.me.fe.seq }) ∧
      (((fieldsOf i).m = 1 ∨ fr.freeP = true) → (t.me.frame fix).st = 0 ∧
        (t.me.frame fix).gen = if fr.gen = 255 then 1 else fr.gen + 1)

/-- R24, R143, R144, R149, R153, R156, R157, R160, R161. The instructions that ask another unit for something complete by
sending it: FORK and DQSTEAL the request to the core named, FREE of another frame and BAR their signal, WDQ its query to the
die's Beacon, TERMW its slot to the die's detector, CANCEL its job to the front end, ROAM the threadlet itself; a core outside the
region, an unbound barrier and a forbidden handle, that of the slot to signal among them, take cause 0x06, a template at or above TPLCNT
0x02; ROAM takes 0x02 for a threadlet at or above TLCNT and in a weave without templates, and WDQ 0x05 or 0x04 for a local address
outside the map or misaligned. The model's choices here: the slot's handle is checked after the instruction's own operands, the
map before the alignment (assumption log, entry 23); ETVAL of 0x06 for a core id is the whole register (entry 72); the job of a FORK or
ROAM of a handler with no threadlet under it is 0 (entry 74); TERMW of a core in no region names region 0 (entry 61). -/
def Obligations.RequestsAreSent : Prop :=
  ∀ (i : Instr) (s : State), i.wf = true → Runs i s →
    let k := fieldsOf i
    let a := (opA i s).toNat
    let r := slotRef i s
    let h := a % 2 ^ 32
    (majorOf i = some 0x02 → s.coreOk a = true → k.imm % 256 < s.tplcnt → k.refOk s = true →
      Sends i s (handleCore r.handle) (toCore s a .request (.fork r (k.imm / 256) (k.imm % 256) s.curJob))) ∧
    (majorOf i = some 0x02 → s.coreOk a = false → TrapsWith i s 0x06 a) ∧
    (majorOf i = some 0x02 → s.coreOk a = true → s.tplcnt ≤ k.imm % 256 → TrapsWith i s 0x02 (k.imm % 256)) ∧
    (majorOf i = some 0x02 → s.coreOk a = true → k.imm % 256 < s.tplcnt → k.refOk s = false → TrapsWith i s 0x06 r.handle) ∧
    (majorOf i = some 0x0E → s.coreOk a = true → k.refOk s = false → TrapsWith i s 0x06 r.handle) ∧
    (majorOf i = some 0x0F → LocalOk (opD i s).toNat 16 16 → k.refOk s = false → TrapsWith i s 0x06 r.handle) ∧
    (majorOf i = some 0x14 → k.refOk s = false → TrapsWith i s 0x06 r.handle) ∧
    (majorOf i = some 0x15 → 1 ≤ a → a ≤ 65535 → k.refOk s = false → TrapsWith i s 0x06 r.handle) ∧
    (majorOf i = some 0x03 → s.handleOk s.cur h = true → (s.me.pl.live = true → h ≠ s.me.pl.handle) →
      Sends i s (handleCore h) (toCore s (handleCore h) .signal (.free h))) ∧
    (majorOf i = some 0x03 → s.handleOk s.cur h = true → s.me.pl.live = true → h = s.me.pl.handle →
      exec i s = .next ((s.modMe fun c => c.modFrame c.pl.fix fun e => { e with freeP := true }).advance i.len)) ∧
    (majorOf i = some 0x03 → s.handleOk s.cur h = false → TrapsWith i s 0x06 h) ∧
    (majorOf i = some 0x08 → (opB i s).toNat < s.tlcnt → s.tplcnt ≠ 0 →
      let d := s.roamTarget a
      exec i s = .next (((s.emit s.cur d 1).send (toCore s d .request (.roam
        ((setBits 29 k.imm).map fun j => (j + 1, (s.me.readG (j + 1)).toNat)) (opB i s).toNat s.curJob))).endThreadlet
          s.cur (k.m == 1))) ∧
    (majorOf i = some 0x08 → (s.tlcnt ≤ (opB i s).toNat ∨ s.tplcnt = 0) → TrapsWith i s 0x02 (opB i s).toNat) ∧
    (majorOf i = some 0x0F → localRange (opD i s).toNat 16 = false → TrapsWith i s 0x05 (opD i s).toNat) ∧
    (majorOf i = some 0x0F → localRange (opD i s).toNat 16 = true → (opD i s).toNat % 16 ≠ 0 →
      TrapsWith i s 0x04 (opD i s).toNat) ∧
    (majorOf i = some 0x0A → ∀ b, Sparse.get none s.me.net.bars k.barIx = some b →
      exec i s = .next (((s.emit s.cur (handleCore b.handle) 1).sendArrival (.core s.cur)
        { handle := b.handle, slot := b.slot, n := 1, src := s.cur, chan := .signal, absorb := 1, origin := s.cur,
          region := s.regionOf s.cur }).advance i.len)) ∧
    (majorOf i = some 0x0A → Sparse.get none s.me.net.bars k.barIx = none →
      TrapsWith i s 0x06 0) ∧
    (majorOf i = some 0x0E → s.coreOk a = true → k.refOk s = true →
      Sends i s (handleCore r.handle) (toCore s a .request (.steal k.imm r))) ∧
    (majorOf i = some 0x0E → s.coreOk a = false → TrapsWith i s 0x06 a) ∧
    (majorOf i = some 0x0F → LocalOk (opD i s).toNat 16 16 → k.refOk s = true →
      Sends i s (handleCore r.handle)
        { src := .core s.cur, dst := .beacon (dieOf s.cur), chan := .request, region := s.regionOf s.cur,
          body := .beacon { core := s.cur, merge := k.m == 1, query := a, dst := (opD i s).toNat, asid := s.me.net.asid,
                            epc := s.me.pl.pc, handle := s.me.pl.handle, ref := r } }) ∧
    (majorOf i = some 0x14 → k.refOk s = true →
      exec i s = .next ((s.send { src := .core s.cur, dst := .dusk (dieOf s.cur), chan := .signal,
                                  body := .termw ((s.regionOf s.cur).getD 0) k.sc s.cur r }).advance i.len)) ∧
    (majorOf i = some 0x15 → ∀ g, s.regionOf s.cur = some g → 1 ≤ a → a ≤ 65535 → k.refOk s = true →
      exec i s = .next (((issued s r).send { src := .core s.cur, dst := .frontEnd, chan := .signal,
                                             body := .cancelJob g a r }).advance i.len)) ∧
    (majorOf i = some 0x15 → (a = 0 ∨ 65535 < a) → TrapsWith i s 0x02 a)

/-- R145 to R148, R54, R442. With SR = 1, SIG, SIGV and ARM send the named frame one update on the signal channel: a decrement, a
decrement behind its deposits, a whole slot word; a handle that R54 forbids takes cause 0x06. With SR = 0 the update acts on the
issuing frame at issue, deposits first, then the decrement and the firing it records, and is dropped as an orphan where that frame is
not live; unless a shutter, a halt (a stepped threadlet's) or an earlier update of the frame's own that is held holds it: then it joins
the held arrivals, and issue waits while their list is full; and unless an earlier one of its own waits for room, or for the frame:
then issue waits, or it joins the pending arrivals. A SIG below the slot's COUNT takes its number off it. SLOTRD reads a slot of the
issuing frame. ARM checks its value before its handle, which is the model's choice (assumption log, entry 23). In a handler with no threadlet under it
SR = 0 names the null handle, and SLOTRD reads the frame index that ran last, which is the model's choice too (entry 74). -/
def Obligations.SlotInstructionsUpdateSlots : Prop :=
  ∀ (i : Instr) (s : State), i.wf = true → Runs i s →
    let k := fieldsOf i
    let r := slotRef i s
    let fix := handleFix r.handle
    let word := if k.m = 0 then k.imm else (opA i s).toNat
    let update (n : Nat) (deps : List (Nat × Nat)) : Arrival :=
      { handle := r.handle, slot := r.slot, n := n, deposits := deps, src := s.cur, chan := .signal, absorb := k.x.sr.toNat,
        origin := s.cur, region := r.region }
    let place := 32 + 8 * k.imm
    let deps := if k.m = 0 then [] else if k.m = 1 then [(place, (opA i s).toNat)]
      else [(place, (opA i s).toNat), (place + 8, (opB i s).toNat)]
    let sends (a : Arrival) : Prop := k.x.sr = 1 → k.refOk s = true →
      Sends i s (handleCore r.handle)
        { src := .core s.cur, dst := .core (handleCore r.handle), chan := .signal, body := .arrival a, region := r.region }
    let free (m : Msg) : Prop := s.me.net.region ≠ none ∧ s.me.holds m = false ∧ s.me.fe.released.any m.sameLine = false ∧
      s.me.away m = false ∧ s.me.fe.pending.any m.sameLine = false
    let here (b : Body) (act : State → State × List NewFiring) : Prop := k.x.sr = 0 → k.refOk s = true →
      let m : Msg := { src := .core s.cur, dst := .core s.cur, chan := .signal, body := b, region := r.region, own := true }
      let u := act (s.modMe (·.modPl fun p => { p with waiti := false }))
      let waits := s.me.away m || s.me.fe.pending.any m.sameLine
      (s.me.net.region = none → exec i s = .next ((act s).1.advance i.len)) ∧
      (free m → exec i s = .next ((u.1.fireAll s.cur u.2).advance i.len)) ∧
      (s.me.net.region ≠ none → s.me.holds m = true → s.me.fe.held.length < 256 →
        ∃ t, exec i s = .next t ∧ t.me.fe.held = s.me.fe.held ++ [{ m with tested := true }] ∧ t.me.pl.pc = s.me.pl.pc + i.len ∧
          SameMemory s t) ∧
      (s.me.net.region ≠ none → s.me.holds m = true → 256 ≤ s.me.fe.held.length → exec i s = .next s) ∧
      (s.me.net.region ≠ none → s.me.holds m = false → s.me.fe.released.any m.sameLine = true → exec i s = .next s) ∧
      (s.me.net.region ≠ none → s.me.holds m = false → s.me.fe.released.any m.sameLine = false → waits = true →
        (s.me.fe.pending.length < 128 →
          ∃ t, exec i s = .next t ∧ t.me.fe.pending = s.me.fe.pending ++ [m] ∧ t.me.pl.pc = s.me.pl.pc + i.len) ∧
        (128 ≤ s.me.fe.pending.length → exec i s = .next s))
    let acts (a : Arrival) : Prop := here (.arrival a) fun u =>
      if u.me.live r.handle then (u.deposit s.cur fix a).decrement s.cur fix r.slot a.n else (u.dropArrival s.cur a, [])
    (majorOf i = some 0x04 → sends (update k.imm []) ∧ acts (update k.imm [])) ∧
    (majorOf i = some 0x05 → sends (update 1 deps) ∧ acts (update 1 deps)) ∧
    (majorOf i = some 0x04 → k.x.sr = 0 → k.refOk s = true → NoSave s →
      free { src := .core s.cur, dst := .core s.cur, chan := .signal, body := .arrival (update k.imm []), region := r.region,
             own := true } →
      s.me.live r.handle = true → k.imm < slotCount (s.me.slotWord fix r.slot) →
      ∃ t, exec i s = .next t ∧ t.me.slotWord fix r.slot = s.me.slotWord fix r.slot - k.imm) ∧
    (majorOf i = some 0x06 → word < 2 ^ 31 → slotTix word < s.tlcnt → k.x.sr = 1 → k.refOk s = true →
      Sends i s (handleCore r.handle)
        { src := .core s.cur, dst := .core (handleCore r.handle), chan := .signal,
          body := .arm r.handle r.slot word, region := r.region }) ∧
    (majorOf i = some 0x06 → word < 2 ^ 31 → slotTix word < s.tlcnt → here (.arm r.handle r.slot word) fun u =>
      (if u.me.live r.handle then u.scrWrite s.cur (u.me.frameAddr fix + 4 * r.slot) (natLE 4 word)
       else u.modCore s.cur (·.orphan s.cur .signal r.slot 1 r.handle), [])) ∧
    (majorOf i = some 0x06 → (2 ^ 31 ≤ word ∨ s.tlcnt ≤ slotTix word) → TrapsWith i s 0x02 word) ∧
    ((majorOf i = some 0x04 ∨ majorOf i = some 0x05 ∨ majorOf i = some 0x06 ∧ word < 2 ^ 31 ∧ slotTix word < s.tlcnt) →
      k.refOk s = false → TrapsWith i s 0x06 r.handle) ∧
    (majorOf i = some 0x07 → WritesG i s (BitVec.ofNat 64 (s.me.slotWord s.me.pl.fix k.x.sl.toNat)))

/-- R150, R152, R154, R155, R355. PRIO sets PRIO to M; BARCFG binds the entry named to the handle, slot and count given, for a handle in
the scope instance; DQPUSH writes its two words behind the last entry and counts it, DQPOP takes the last entry, and each sets
its predicate false, and nothing else, when the deque is full, empty or has no room. A word with an uncorrectable error takes cause
0x10: one of the header, and, where an entry is accessed, one of that entry. -/
def Obligations.PriorityBarrierAndDequeResults : Prop :=
  ∀ (i : Instr) (s : State), i.wf = true → Runs i s →
    let k := fieldsOf i
    let h := (opA i s).toNat % 2 ^ 32
    let entry : BarEnt := { handle := h, slot := k.imm / 16 % 8, count := k.imm / 65536 }
    let n := s.me.dqCap
    let u := s.reach s.cur s.me.spr.dqbase.toNat 16
    let base := u.me.spr.dqbase.toNat
    let tail := (u.me.dqTop + u.me.dqCnt) % n
    let last := (u.me.dqTop + (u.me.dqCnt - 1)) % n
    let v := u.reach s.cur (u.me.dqEntry tail) 16
    let w := u.reach s.cur (u.me.dqEntry last) 16
    (majorOf i = some 0x09 →
      exec i s = .next ((s.modMe fun c => { c with spr := { c.spr with prio := BitVec.ofNat 2 k.m } }).advance i.len)) ∧
    (majorOf i = some 0x0B → s.handleOk s.cur h = true → sameInst k.sc s.cur (handleCore h) = true →
      exec i s = .next ((s.modMe (·.modNet fun t =>
        { t with bars := Sparse.set none t.bars (16 * (k.sc - 2) + k.imm % 16) (some entry) })).advance i.len)) ∧
    (majorOf i = some 0x0B → (s.handleOk s.cur h = false ∨ sameInst k.sc s.cur (handleCore h) = false) →
      TrapsWith i s 0x06 h) ∧
    (majorOf i = some 0x0C → n = 0 → WritesP i s false) ∧
    (majorOf i = some 0x0C → n ≠ 0 → u.me.dqHeadBad = false → n ≤ u.me.dqCnt →
      exec i s = .next ((u.modMe (·.writeP k.d false)).advance i.len)) ∧
    (majorOf i = some 0x0C → n ≠ 0 → u.me.dqHeadBad = false → u.me.dqCnt < n → v.me.dqEntryBad tail = false →
      exec i s = .next ((((v.scrWrite s.cur (u.me.dqEntry tail) (natLE 8 (opA i v).toNat ++ natLE 8 (opB i v).toNat)).scrWrite
        s.cur (base + 8) (natLE 4 (u.me.dqCnt + 1))).modMe (·.writeP k.d true)).advance i.len)) ∧
    (majorOf i = some 0x0D → n = 0 → exec i s = .next ((s.modMe (·.writeP k.a false)).advance i.len)) ∧
    (majorOf i = some 0x0D → n ≠ 0 → u.me.dqHeadBad = false → u.me.dqCnt = 0 →
      exec i s = .next ((u.modMe (·.writeP k.a false)).advance i.len)) ∧
    (majorOf i = some 0x0D → n ≠ 0 → u.me.dqHeadBad = false → u.me.dqCnt ≠ 0 → w.me.dqEntryBad last = false →
      exec i s = .next (((w.scrWrite s.cur (base + 8) (natLE 4 (u.me.dqCnt - 1))).modMe fun c =>
        ((c.writeG k.d (BitVec.ofNat 64 (c.scr.readN (u.me.dqEntry last) 8))).writeG (k.d + 1)
          (BitVec.ofNat 64 (c.scr.readN (u.me.dqEntry last + 8) 8))).writeP k.a true).advance i.len)) ∧
    ((majorOf i = some 0x0C ∨ majorOf i = some 0x0D) → n ≠ 0 → u.me.dqHeadBad = true →
      ∃ t, exec i s = .next t ∧ TrapTaken u t 0x10 base) ∧
    (majorOf i = some 0x0C → n ≠ 0 → u.me.dqHeadBad = false → u.me.dqCnt < n → v.me.dqEntryBad tail = true →
      ∃ t, exec i s = .next t ∧ TrapTaken v t 0x10 (u.me.dqEntry tail)) ∧
    (majorOf i = some 0x0D → n ≠ 0 → u.me.dqHeadBad = false → u.me.dqCnt ≠ 0 → w.me.dqEntryBad last = true →
      ∃ t, exec i s = .next t ∧ TrapTaken w t 0x10 (u.me.dqEntry last))

/-! ### Local memory -/

/-- R198, R257, R355. LD writes gD with the bytes at its aligned local address, byte 0 lowest, zero- or sign-extended, and ST stores
the low bytes of gD there; in the descriptor window LD.n64 and ST.n64 move a whole tile descriptor, another size takes cause 0x04 and
LD.i64 cause 0x05; a read of a word with an uncorrectable error takes cause 0x10. -/
def Obligations.LoadsAndStoresMoveLocalBytes : Prop :=
  ∀ (i : Instr) (s : State), i.wf = true → Runs i s →
    let k := fieldsOf i
    let v := addressOf i s
    let n := 2 ^ k.m
    let u := s.localReach s.cur v n
    let place := (v - 0x800000) / 8
    (majorOf i = some 0x70 → inWindow v = false → LocalOk v n n → u.localBad u.cur v n = false →
      ∃ x : BitVec (8 * n), (∀ j, j < n → x.extractLsb' (8 * j) 8 = u.localByte u.cur (v + j)) ∧
        exec i s = .next ((u.modMe (·.writeG k.d (extendTo64 (k.xop % 2 == 1) x))).advance i.len)) ∧
    (majorOf i = some 0x70 → inWindow v = false → LocalOk v n n → u.localBad u.cur v n = true →
      ∃ t, exec i s = .next t ∧ TrapTaken u t 0x10 v) ∧
    (majorOf i = some 0x70 → inWindow v = true → n = 8 → v % 8 = 0 → k.xop % 2 = 0 → WritesG i s (s.me.td place)) ∧
    (majorOf i = some 0x70 → inWindow v = true → n = 8 → v % 8 = 0 → k.xop % 2 = 1 → TrapsWith i s 0x05 v) ∧
    (majorOf i = some 0x71 → inWindow v = false → LocalOk v n n → n = 8 →
      exec i s = .next ((s.localWrite s.cur v (natLE n (opD i s).toNat)).advance i.len)) ∧
    (majorOf i = some 0x71 → inWindow v = false → LocalOk v n n → n ≠ 8 → u.localBad u.cur v n = false →
      exec i s = .next ((u.localWrite u.cur v (natLE n (opD i s).toNat)).advance i.len)) ∧
    (majorOf i = some 0x71 → inWindow v = false → LocalOk v n n → n ≠ 8 → u.localBad u.cur v n = true →
      ∃ t, exec i s = .next t ∧ TrapTaken u t 0x10 v) ∧
    (majorOf i = some 0x71 → inWindow v = true → n = 8 → v % 8 = 0 →
      (opD i s >>> 41 = 0 ∧ (opD i s).extractLsb' 28 4 ≤ 10 →
        exec i s = .next ((s.modMe (·.setTd place (opD i s))).advance i.len)) ∧
      (¬ (opD i s >>> 41 = 0 ∧ (opD i s).extractLsb' 28 4 ≤ 10) → TrapsWith i s 0x02 (opD i s).toNat)) ∧
    ((majorOf i = some 0x70 ∨ majorOf i = some 0x71) → inWindow v = true → (n ≠ 8 ∨ v % 8 ≠ 0) → TrapsWith i s 0x04 v)

/-- R198, R327. The frame of ST on the scratchpads: with no region swapped out, an aligned ST that finds no uncorrectable error
changes the bytes that its local address names, in the core that the map gives, to those of gD, and no other byte of any scratchpad,
no byte of global memory, and no register, flag, special register or other unit. -/
def Obligations.StoresChangeOnlyTheirBytes : Prop :=
  ∀ (i : Instr) (s t : State), i.wf = true → majorOf i = some 0x71 → Runs i s → NoSave s → inWindow (addressOf i s) = false →
    LocalOk (addressOf i s) (2 ^ (fieldsOf i).m) (2 ^ (fieldsOf i).m) →
    s.localBad s.cur (addressOf i s) (2 ^ (fieldsOf i).m) = false → exec i s = .next t →
    (∀ c a, (∀ j, j < 2 ^ (fieldsOf i).m → resolveLocal s.cur (addressOf i s + j) ≠ some (c, a)) →
      (t.core c).scr.byte a = (s.core c).scr.byte a) ∧
    (∀ c a j, j < 2 ^ (fieldsOf i).m → resolveLocal s.cur (addressOf i s + j) = some (c, a) →
      (t.core c).scr.byte a = (opD i s).extractLsb' (8 * j) 8) ∧
    (∀ c, t.core c = { s.core c with
      scr := (t.core c).scr
      pl := { (s.core c).pl with pc := if c = s.cur then s.me.pl.pc + i.len else (s.core c).pl.pc } }) ∧
    t = { s with cores := t.cores }

/-- R193. Address checks come before any effect: a global address of 2^48 or above takes cause 0x05 and one that is not aligned
to the access cause 0x04; for a local address, first the map (0x05), then the alignment (0x04); each with the address in ETVAL. That the
range or the map comes before the alignment, and the global address before the local one, is the model's choice (assumption log,
entry 23). -/
def Obligations.AddressChecksTrap : Prop :=
  ∀ (i : Instr) (s : State) (op : Nat), i.wf = true → majorOf i = some op → Runs i s →
    let ea := addressOf i s
    let n := 2 ^ (fieldsOf i).m
    let v := (opD i s).toNat
    (op ∈ [0x72, 0x73, 0x74, 0x75, 0x76, 0x77, 0x7A, 0x7B, 0x7C, 0x7D] → 2 ^ 48 ≤ ea → TrapsWith i s 0x05 ea) ∧
    (op ∈ [0x72, 0x73, 0x75, 0x76, 0x77, 0x7A, 0x7B, 0x7C] → ea < 2 ^ 48 → ea % n ≠ 0 → TrapsWith i s 0x04 ea) ∧
    (op ∈ [0x70, 0x71] → inWindow ea = false → localRange ea n = false → TrapsWith i s 0x05 ea) ∧
    (op ∈ [0x70, 0x71] → inWindow ea = false → localRange ea n = true → ea % n ≠ 0 → TrapsWith i s 0x04 ea) ∧
    ((op ∈ [0x72, 0x75, 0x7B] ∨ op = 0x7A ∧ (fieldsOf i).d ≠ 0) → GlobalOk ea n → localRange v n = false → TrapsWith i s 0x05 v) ∧
    ((op ∈ [0x72, 0x75, 0x7B] ∨ op = 0x7A ∧ (fieldsOf i).d ≠ 0) → GlobalOk ea n → localRange v n = true → v % n ≠ 0 →
      TrapsWith i s 0x04 v) ∧
    (op ∈ [0x73, 0x76, 0x77] → 3 < (fieldsOf i).m → GlobalOk ea n → localRange v n = false → TrapsWith i s 0x05 v) ∧
    (op ∈ [0x73, 0x76, 0x77] → 3 < (fieldsOf i).m → GlobalOk ea n → localRange v n = true → v % n ≠ 0 → TrapsWith i s 0x04 v)

/-! ### Global memory -/

/-- R200, R203, R209, R211, R23. FETCH, LDF, AOP and ACAS complete by sending their access to the home slice, with the operands,
the local address that takes the answer (none for an AOP with D = 0) and the slot to signal; a FETCH of a constant that the core
holds is answered from there. -/
def Obligations.GlobalReadsAreRequested : Prop :=
  ∀ (i : Instr) (s : State), i.wf = true → Issues i s →
    let k := fieldsOf i
    let ea := addressOf i s
    let n := 2 ^ k.m
    let v := (opD i s).toNat
    let r := slotRef i s
    let u := issued s r
    let access (kind : AccKind) : Access :=
      { kind := kind, core := s.cur, va := ea, size := n, asid := s.me.net.asid, ref := some r, dst := some v,
        th := k.x.th.toNat, scope := k.sc, epc := s.me.pl.pc, handle := s.me.pl.handle, region := s.regionOf s.cur,
        tid := s.me.pl.tid, tag := s.me.net.ord }
    let asks (a : Access) : Prop := exec i s = .next ((u.sendAccess a).advance i.len)
    let pair (x : Nat) : Nat := (s.me.readG x).toNat + if k.m = 4 then (s.me.readG (x + 1)).toNat * 2 ^ 64 else 0
    GlobalOk ea n →
    (majorOf i = some 0x75 → LocalOk v n n → s.constHit s.cur ea n = none →
      asks { access .fetch with acq := k.xop % 2 == 1 }) ∧
    (majorOf i = some 0x75 → LocalOk v n n → ∀ bs, s.constHit s.cur ea n = some bs →
      exec i s = .next ((u.sendArrival (.engine s.cur) { signalArrival r 0 0 0 with scratch := [(s.cur, v, bs)] }).advance i.len)) ∧
    (majorOf i = some 0x72 → LocalOk v n n → asks (access .ldf)) ∧
    (majorOf i = some 0x7A → k.d ≠ 0 → LocalOk v n n →
      asks { access (.aop k.xop) with b := (opB i s).toNat, c := (opC i s).toNat }) ∧
    (majorOf i = some 0x7A → k.d = 0 →
      asks { access (.aop k.xop) with b := (opB i s).toNat, c := (opC i s).toNat, dst := none }) ∧
    (majorOf i = some 0x7B → LocalOk v n n → asks { access .acas with b := pair k.b, c := pair k.c })

/-- R201, R202, R204 to R206. POST, STF, STN and FEOP take a free journal entry, which holds the store, and send it; they hold
issue while the journal is full. The data is the low bytes of gD, or for 16, 32 and 64 bytes what stands at the local address
gD. The model's choices: where that has an uncorrectable error the store is refused where it stands, its entry has STATE 2 and
REASON 3, the trap 0x0B is recorded, and nothing is sent (assumption log, entry 38); the entry of a FEOP has SIZE 0 and DATA 0 (entry
81). -/
def Obligations.PostedStoresEnterTheJournal : Prop :=
  ∀ (i : Instr) (s : State), i.wf = true → Runs i s →
    let k := fieldsOf i
    let ea := addressOf i s
    let n := 2 ^ k.m
    let v := (opD i s).toNat
    let u := s.localReach s.cur v n
    let entry (kind size data : Nat) : JEntry :=
      { state := 1, kind := kind, size := size, va := ea, epc := s.me.pl.pc, handle := s.me.pl.handle, data := data, ord := s.me.net.ord }
    let access (kind : AccKind) (size : Nat) (data : List Byte) (e : Nat) : Access :=
      { kind := kind, core := s.cur, va := ea, size := size, asid := s.me.net.asid, data := data, th := k.x.th.toNat,
        scope := k.sc, epc := s.me.pl.pc, handle := s.me.pl.handle, region := s.regionOf s.cur, tid := s.me.pl.tid,
        tag := s.me.net.ord, entry := e }
    let goes (u : State) (j : JEntry) (a : Nat → Access) : Prop :=
      (∀ e, u.me.journalFree = some e → exec i s = .next (((u.modMe (·.setJournal e j)).sendAccess (a e)).advance i.len)) ∧
      (u.me.journalFree = none → exec i s = .next u)
    let stores (kind : AccKind) (jkind : Nat) (rel : Bool) : Prop :=
      (k.m ≤ 3 → GlobalOk ea n →
        goes s (entry jkind k.m (v % 2 ^ (8 * n))) fun e => { access kind n (natLE n v) e with rel := rel }) ∧
      (3 < k.m → GlobalOk ea n → LocalOk v n n → u.localBad u.cur v n = false →
        goes u (entry jkind k.m v) fun e => { access kind n (u.localRead u.cur v n) e with rel := rel }) ∧
      (3 < k.m → GlobalOk ea n → LocalOk v n n → u.localBad u.cur v n = true →
        let j : JEntry := { entry jkind k.m v with state := 2, reason := 3 }
        (∀ e, u.me.journalFree = some e → exec i s = .next (((u.modMe fun c =>
          (c.setJournal e j).modNet fun n => { n with ord := n.ord + 1 }).post s.cur true 0x0B 6 e j.epc j.handle j.word0 v).advance
            i.len)) ∧
        (u.me.journalFree = none → exec i s = .next u))
    (majorOf i = some 0x73 → stores .stf 2 false) ∧
    (majorOf i = some 0x76 → stores .post (k.xop % 2) (k.xop % 2 == 1)) ∧
    (majorOf i = some 0x77 → stores .stn 4 false) ∧
    (majorOf i = some 0x74 → ea < 2 ^ 48 → goes s (entry 3 0 0) (access (.feop (k.m == 1)) 1 []))

/-- R205, R207, R208, R359. FENCE and DRAIN: with no store of the journal that they cover still to be performed at the scope, the
signal goes out at once; while one is, the fence waits in the network interface, and no signal goes out. FENCE covers POST, STF and
FEOP, which at .co to .pk are performed too once the Belide port has accepted them; DRAIN covers STN. -/
def Obligations.FencesWaitForTheirStores : Prop :=
  ∀ (i : Instr) (s : State) (op : Nat), i.wf = true → majorOf i = some op → op = 0x78 ∨ op = 0x79 → Issues i s →
    s.me.net.fences = [] →
    let r := slotRef i s
    let sc := (fieldsOf i).sc
    let done (e : JEntry) : Bool := e.state != 1 || (e.port && decide (sc < 6))
    let flight := s.me.net.journal.any fun e =>
      (if op = 0x78 then e.2.state == 1 && e.2.kind == 4 else !done e.2 && e.2.kind != 4) &&
        decide (e.2.ord < s.me.net.ord)
    ∃ t, exec i s = .next t ∧ t.me.pl.pc = s.me.pl.pc + i.len ∧ t.me.regs = s.me.regs ∧ t.me.net.journal = s.me.net.journal ∧
      SameMemory s t ∧
      (flight = false → t.me.net.fences = [] ∧ t.msgs = s.msgs ++
        [{ src := .engine s.cur, dst := .core (handleCore r.handle), chan := .signal, body := .arrival (signalArrival r 0 0 0),
           region := r.region }]) ∧
      (flight = true → t.msgs = s.msgs ∧
        t.me.net.fences = [{ drain := op == 0x78, scope := sc, upto := s.me.net.ord, ref := r }])

/-- R213, R230, R231. PREF brings at most 16,384 lines into their home slices and changes no memory; TLBI drops the cached leaves it
names at every slice of its scope and no other, and signals through a message; CFLUSH works on every line that a slice holds under an
address of its range and signals status 0, or status 3 with CAUSE 0x05 for a range that runs beyond the address space, and signals
at once for a length of 0. TLBI with a nonzero gB[63:16] takes cause 0x02, `.all` too, which is the model's choice (entry 24), and a
page beyond 2^48 cause 0x05; that the ASID is checked before the page, and the slot's handle last, is the model's choice too (entry 23). A
CFLUSH does not issue while a write that comes first for it has been passed, which an early end of a fence of a narrower scope may have
done (entry 58). That PREF acts at issue, by asking for a line through a miss register where one is free, and passes over
lines else; that CFLUSH acts whole at issue; and that a line is found by the addresses and ASIDs it was used under, are the model's
choices (assumption log, entry 24). -/
def Obligations.CacheInstructionsAct : Prop :=
  ∀ (i : Instr) (s : State), i.wf = true → Runs i s →
    let k := fieldsOf i
    let ea := addressOf i s
    let len := (opB i s).toNat
    let lines := if len = 0 then 1 else min 16384 ((ea + len - 1) / 64 + 1 - ea / 64)
    let r := slotRef i s
    let va := (opA i s).toNat
    let asid := (opB i s).toNat
    let inScope (h : Nat) : Prop := h < 256 ∧ (k.sc = 4 → h / 64 = dieOf s.cur)
    let named (e : Tlb) : Bool := k.m == 2 || e.asid == asid && (k.m == 1 || va - va % pageSize e.size == e.va)
    let u := issued s r
    (majorOf i = some 0x7D → ea < 2 ^ 48 →
      exec i s = .next (((List.range lines).foldl
        (fun t j => t.prefetch t.me.net.asid (64 * (ea / 64 + j)) k.x.th.toNat) s).advance i.len)) ∧
    (majorOf i = some 0x88 → s.me.pl.sup = true → k.refOk s = true → asid < 2 ^ 16 → (k.m = 0 → va < 2 ^ 48) →
      ∃ t, exec i s = .next t ∧ t.me.pl.pc = s.me.pl.pc + i.len ∧
        t.msgs.length = s.msgs.length + 1 ∧ t.msgs.getLast? = some
          { src := .core s.cur, dst := .slice 0, chan := .signal,
            body := .access { kind := .tlbi, core := s.cur, tag := s.me.net.ord, ref := some r, region := s.regionOf s.cur } } ∧
        (∀ h, inScope h → (t.slice h).tlb = (s.slice h).tlb.filter fun e => !named e) ∧
        ∀ h, ¬ inScope h → { t.slice h with misses := [], held := [], ldf := [] } = { s.slice h with misses := [], held := [], ldf := [] }) ∧
    (majorOf i = some 0x88 → s.me.pl.sup = true → 2 ^ 16 ≤ asid → TrapsWith i s 0x02 asid) ∧
    (majorOf i = some 0x88 → s.me.pl.sup = true → asid < 2 ^ 16 → k.m = 0 → 2 ^ 48 ≤ va → TrapsWith i s 0x05 va) ∧
    ((majorOf i = some 0x88 ∧ asid < 2 ^ 16 ∧ (k.m = 0 → va < 2 ^ 48) ∨ majorOf i = some 0x89) →
      (majorOf i = some 0x89 ∧ k.m = 0 ∨ s.me.pl.sup = true) → k.refOk s = false → TrapsWith i s 0x06 r.handle) ∧
    (majorOf i = some 0x89 → (k.m = 0 ∨ s.me.pl.sup = true) → k.refOk s = true → s.flushWaits = true → exec i s = .next s) ∧
    (majorOf i = some 0x89 → (k.m = 0 ∨ s.me.pl.sup = true) → k.refOk s = true → s.flushWaits = false →
      (len = 0 → exec i s = .next ((u.signal (.engine s.cur) r 0 0 0).advance i.len)) ∧
      (len ≠ 0 → 2 ^ 48 < va + len → exec i s = .next ((u.signal (.engine s.cur) r 3 0x05 0).advance i.len)) ∧
      (len ≠ 0 → va + len ≤ 2 ^ 48 →
        exec i s = .next ((((u.namedLines s.me.net.asid va len).foldl (fun t e => t.flushLine e.1 e.2 k.m) u).signal
          (.engine s.cur) r 0 0 0).advance i.len)))

/-- R212, R214, R215, R216, R217, R305. GET, PUT, COPY and BUPD enter the copy engine with their operands while fewer than 32
operations are there, those that await another part among them, and hold issue otherwise; GET, PUT and BUPD of nothing signal at
once, or, where completions of the core's engines wait for room in its held-arrival list, behind them; a GET or PUT that names another part waits for that part's acknowledgement, with the pieces it has to move, of which a PUT reads
one after another; a part number beyond 16 bits, a reserved bit of an index descriptor or an element size outside 1 to 65,536 takes
cause 0x02; an index descriptor with an uncorrectable error ends the transfer with status 3 and CAUSE 0x10. The model's choices: that
descriptor is read at issue (assumption log, entry 38), and so is the index list of a transfer with another part (entry 41); the part
number is checked before the global address and that before the local one, the slot's handle last (entry 23). -/
def Obligations.TransfersEnterTheCopyEngine : Prop :=
  ∀ (i : Instr) (s : State), i.wf = true → Issues i s →
    let k := fieldsOf i
    let ea := addressOf i s
    let r := slotRef i s
    let a := (opA i s).toNat
    let b := (opB i s).toNat
    let d := (opD i s).toNat
    let part := (opC i s).toNat
    let z := 2 ^ k.m
    let get := majorOf i = some 0x7E
    let put := majorOf i = some 0x7F
    let room := (s.me.ops .copy).length + s.me.eng.remote.length < 32
    let enters (f : State → State) : Prop := (room → Enters i s f) ∧ (¬ room → exec i s = .next s)
    let waits (u : State) (code cause : Nat) : Prop := (issued u r).waitsRoom s.cur (signalArrival r code cause 0) none = true
    let ended (u : State) (x : Ending) : State := ((issued u r).modMe (·.startOp .copy
      (((fieldsOf i).engOp (issued u r) r).over { x with place := some (issued u r).me.eng.nextPlace }))).advance i.len
    let none_ (u : State) : Prop :=
      (¬ waits u 0 0 → exec i s = .next (((issued u r).signal (.engine s.cur) r 0 0 0).advance i.len)) ∧
      (waits u 0 0 → room → exec i s = .next (ended u {}))
    (majorOf i = some 0x80 → LocalOk a 96 32 →
      enters (·.startWithSnaps s.cur .copy (opOf i s) [k.imm % 16, k.imm / 16 % 16])) ∧
    (majorOf i = some 0x7C → ea < 2 ^ 48 → ea % z = 0 → part = 0 → b % z = 0 → none_ s) ∧
    (majorOf i = some 0x7C → ea < 2 ^ 48 → ea % z = 0 → part ≠ 0 → LocalOk b (part * z) z →
      enters (·.modMe (·.startOp .copy (opOf i s)))) ∧
    ((get ∨ put) → 2 ^ 16 ≤ part → TrapsWith i s 0x02 part) ∧
    ((get ∨ put) → k.m = 0 → part < 2 ^ 16 → ea < 2 ^ 48 → b = 0 → none_ s) ∧
    ((get ∨ put) → k.m = 0 → part < 2 ^ 16 → ea < 2 ^ 48 → b ≠ 0 → localRange d b = false → TrapsWith i s 0x05 d) ∧
    ((get ∨ put) → k.m = 0 → part = 0 → ea < 2 ^ 48 → b ≠ 0 → localRange d b = true →
      enters (·.modMe (·.startOp .copy { opOf i s with lanes := [] }))) ∧
    ((get ∨ put) → k.m = 0 → part ≠ 0 → part < 2 ^ 16 → ea < 2 ^ 48 → b ≠ 0 → localRange d b = true →
      (room → exec i s = .next (((issued s r).modMe (·.modEng fun e => { e with nextId := e.nextId + 1, remote := e.remote ++
        [{ get := decide get, part := part, pieces := [(d, ea, b)], asid := s.me.net.asid,
           todo := (splitPieces d ea (b / 32 + 3) 0 b).map fun p => (d + p.1, p.1, p.2), since := s.cycles, served := s.cycles,
           prio := s.me.spr.prio.toNat, id := s.me.eng.nextId, epc := s.me.pl.pc, handle := s.me.pl.handle, ref := r }] })).advance i.len)) ∧
      (¬ room → exec i s = .next s)) ∧
    ((get ∨ put) → k.m = 1 → part < 2 ^ 16 → LocalOk b 16 16 →
      let u := s.localReach s.cur b 16
      let at_ := u.localN u.cur b 4
      let n := u.localN u.cur (b + 4) 2
      let size := u.localN u.cur (b + 8) 4
      let w0 := u.localN u.cur b 8
      let w1 := u.localN u.cur (b + 8) 8
      (u.localBad u.cur b 16 = true →
        (¬ waits u 3 0x10 → exec i s = .next ((((issued u r).post u.cur false 0x10 Engine.copy.src 0 u.me.pl.pc u.me.pl.handle b
          (statusWord 3 0x10 0)).signal (.engine u.cur) r 3 0x10 0).advance i.len)) ∧
        (waits u 3 0x10 → room → exec i s = .next (ended u { code := 3, cause := 0x10, recd := some b }))) ∧
      (u.localBad u.cur b 16 = false → 2 ^ 48 ≤ w0 → ∃ t, exec i s = .next t ∧ TrapTaken u t 0x02 w0) ∧
      (u.localBad u.cur b 16 = false → w0 < 2 ^ 48 → (size = 0 ∨ 65536 < size) →
        ∃ t, exec i s = .next t ∧ TrapTaken u t 0x02 w1) ∧
      (u.localBad u.cur b 16 = false → w0 < 2 ^ 48 → size ≠ 0 → size ≤ 65536 → ea < 2 ^ 48 → n = 0 → none_ u) ∧
      (u.localBad u.cur b 16 = false → w0 < 2 ^ 48 → size ≠ 0 → size ≤ 65536 → ea < 2 ^ 48 → n ≠ 0 → LocalOk at_ (4 * n) 4 →
        localRange d (n * size) = true → room →
        (part = 0 → exec i s = .next (((issued u r).modMe (·.startOp .copy { (fieldsOf i).engOp u r with
          lanes := [n, at_, u.localN u.cur (b + 12) 4, size] })).advance i.len)) ∧
        (part ≠ 0 → ∀ v, v = (issued u r).localReach s.cur at_ (4 * n) → v.localBad s.cur at_ (4 * n) = false →
          ∃ t x, exec i s = .next t ∧ t.me.eng.remote = s.me.eng.remote ++ [x] ∧ t.me.pl.pc = s.me.pl.pc + i.len ∧
            x.get = decide get ∧ x.indexed = true ∧ x.part = part ∧ x.ref = r ∧ x.pieces = (List.range n).map fun j =>
              (d + j * size, (ea + v.localN s.cur (at_ + 4 * j) 4 * u.localN u.cur (b + 12) 4) % 2 ^ 64, size))))

/-! ### Queues, streams, reductions -/

/-- R24, R220 to R223, R225, R227, R404. ENQ sends its value to the core of the queue named; DEQ takes the head entry of a local
queue, with its predicate false, and nothing else, where there is none or a stream holds the queue; a control entry of a queue with
GLEN set leaves it for its handler, with the predicate false; QCFG writes the configuration, whose handler must be a glint handler of
the weave where GLEN is set, and which that field may set in no weave without templates (R24), and empties the queue when asked to; SBIND binds a register to the stream that its descriptor gives,
unless an operation on the register's stream is in flight (cause 0x02) or a place it names is refused: the core of a queue (cause 0x06);
a channel's destination core outside the region (0x06), a ring beyond that core's scratchpad (0x05), a handle that R54 forbids (0x06).
SUNB unbinds or asks. An ENQ whose slot's handle R54 forbids takes cause 0x06. The model's choices: the order of ENQ's checks, the slot's
handle last (assumption log, entry 23); ETVAL of cause 0x06 is the whole queue address or word (entry 72); the causes and the order of a
channel's checks (entry 77). -/
def Obligations.QueuesAndStreamsAct : Prop :=
  ∀ (i : Instr) (s : State), i.wf = true → Runs i s →
    let k := fieldsOf i
    let a := (opA i s).toNat
    let b := (opB i s).toNat
    let r := slotRef i s
    let q := s.me.lq k.a
    let u := s.localReach s.cur a 64
    let words := (List.range 8).map fun j => u.localN u.cur (a + 8 * j) 8
    (majorOf i = some 0x81 → a < 2 ^ 15 → validCore (a % 4096) = true → k.refOk s = true →
      exec i s = .next (((issued s r).send
        { src := .core s.cur, dst := .core (a % 4096), chan := .request, region := s.regionOf (a % 4096),
          outside := s.regionOf (a % 4096) != s.regionOf s.cur,
          body := .enq (a / 4096) b (k.m % 2 == 1) false r 0 }).advance i.len)) ∧
    (majorOf i = some 0x81 → 2 ^ 15 ≤ a → TrapsWith i s 0x02 a) ∧
    (majorOf i = some 0x81 → a < 2 ^ 15 → validCore (a % 4096) = false → TrapsWith i s 0x06 a) ∧
    (majorOf i = some 0x81 → a < 2 ^ 15 → validCore (a % 4096) = true → k.refOk s = false → TrapsWith i s 0x06 r.handle) ∧
    (majorOf i = some 0x82 → (s.me.queueBound k.a = true ∨ q.entries = []) → exec i s =
      .next ((s.modMe (·.writeP k.m false)).advance i.len)) ∧
    (majorOf i = some 0x82 → s.me.queueBound k.a = false → ∀ v rest, q.entries = (v, false) :: rest →
      ∃ t, exec i s = .next t ∧ t.me.readG k.d = (if k.d = 0 then 0 else BitVec.ofNat 64 v) ∧
        (k.m ≠ 0 → t.me.readP k.m = true) ∧ (t.me.lq k.a).entries = rest ∧ t.me.net.taken = s.me.net.taken + 1 ∧
        t.msgs = s.msgs ∧ SameMemory s t) ∧
    (majorOf i = some 0x82 → s.me.queueBound k.a = false → ∀ v rest, q.entries = (v, true) :: rest → cfgGlen q.cfg = false →
      ∃ t, exec i s = .next t ∧ t.me.readG k.d = (if k.d = 0 then 0 else BitVec.ofNat 64 v) ∧
        (k.m ≠ 0 → t.me.readP k.m = true) ∧ (t.me.lq k.a).entries = rest ∧ t.msgs = s.msgs ∧ SameMemory s t) ∧
    (majorOf i = some 0x82 → s.me.queueBound k.a = false → ∀ v rest, q.entries = (v, true) :: rest → cfgGlen q.cfg = true →
      exec i s = .next (((s.takeEntry s.cur k.a).modMe (·.writeP k.m false)).advance i.len) ∧
      s.takeEntry s.cur k.a = (s.modMe fun c => (c.setLq k.a { q with entries := rest, rptr := (q.rptr + 1) % 2 ^ 64 }).modNet
        fun n => { n with taken := n.taken + 1 }).glint s.cur q.cfg v) ∧
    (majorOf i = some 0x83 → b < 2 ^ 48 → b / 2 % 256 = 0 →
      (cfgGlen b = true → cfgGtix b < s.tlcnt ∧ (s.weaveOf s.cur).glint (cfgGtix b) = true ∧ s.tplcnt ≠ 0) →
      ∃ t, exec i s = .next t ∧ (t.me.lq k.a).cfg = b / 2 * 2 ∧
        (t.me.lq k.a).entries = (if b % 2 = 1 then [] else q.entries) ∧ ∀ j, j ≠ k.a → t.me.lq j = s.me.lq j) ∧
    (majorOf i = some 0x83 → (2 ^ 48 ≤ b ∨ b / 2 % 256 ≠ 0 ∨ cfgGlen b = true ∧
      (s.tlcnt ≤ cfgGtix b ∨ (s.weaveOf s.cur).glint (cfgGtix b) = false ∨ s.tplcnt = 0)) → TrapsWith i s 0x02 b) ∧
    (majorOf i = some 0x84 → LocalOk a 64 64 → u.localBad u.cur a 64 = false → ((streamWords k.m words).all (·.2)) = true →
      let ring := words.getD 0 0 % 2 ^ 32
      let h := words.getD 3 0 % 2 ^ 32
      let queue := k.m = 1 ∧ (words.getD 0 0).testBit 52 = true
      let known := ¬ queue ∨ validCore (words.getD 1 0 % 4096) = true
      let near := u.inRegion u.cur (words.getD 1 0) = true
      let fits := ring + 64 * words.getD 2 0 ≤ 0x100000
      (u.me.streamBusy k.d = false → known → (k.m = 2 → near ∧ fits ∧ u.handleOk u.cur h = true) →
        ∃ t, exec i s = .next t ∧ ∃ x, t.me.stream k.d = some x ∧ x.kind = k.m ∧ x.words = words ∧ x.used = 0 ∧ x.line = 0) ∧
      (u.me.streamBusy k.d = true → ∃ t, exec i s = .next t ∧ TrapTaken u t 0x02 k.d) ∧
      (u.me.streamBusy k.d = false → ¬ known → ∃ t, exec i s = .next t ∧ TrapTaken u t 0x06 (words.getD 1 0)) ∧
      (u.me.streamBusy k.d = false → k.m = 2 → ¬ near → ∃ t, exec i s = .next t ∧ TrapTaken u t 0x06 (words.getD 1 0)) ∧
      (u.me.streamBusy k.d = false → k.m = 2 → near → ¬ fits → ∃ t, exec i s = .next t ∧ TrapTaken u t 0x05 ring) ∧
      (u.me.streamBusy k.d = false → k.m = 2 → near → fits → u.handleOk u.cur h = false →
        ∃ t, exec i s = .next t ∧ TrapTaken u t 0x06 h)) ∧
    (majorOf i = some 0x85 → k.m = 0 → s.me.streamBusy k.a = true → WritesG i s 1) ∧
    (majorOf i = some 0x85 → k.m = 0 → s.me.streamBusy k.a = false →
      exec i s = .next ((s.modMe fun c => ((c.setStream k.a none).writeF k.a 0).writeG k.d 0).advance i.len)) ∧
    (majorOf i = some 0x85 → k.m = 1 → s.me.stream k.a = none → WritesG i s 0) ∧
    (majorOf i = some 0x85 → k.m = 1 → ∀ x, s.me.stream k.a = some x →
      WritesG i s (BitVec.ofNat 64 (min x.used (2 ^ 32 - 1) * 2 ^ 32 + (if s.me.streamBusy k.a then 8 else 0) + x.kind + 1)))

/-- R228, R229. REDSEND sends its n elements, read at issue, to the cluster's router under the tree id, and REDCFG sends the tree
entry that its descriptor gives; REDSEND of no element or of more than 256 bytes takes cause 0x02, one whose operands lie outside the
map or are misaligned 0x05 or 0x04, one whose slot's handle R54 forbids 0x06, in that order, which is the model's choice (assumption
log, entry 23); REDCFG of a root whose handle R54
forbids takes cause 0x06, and of one whose RADDR lies outside the root core's own scratchpad cause 0x05, which is the model's choice of
cause and order (entry 77). -/
def Obligations.ReductionsAreSent : Prop :=
  ∀ (i : Instr) (s : State), i.wf = true → Runs i s →
    let k := fieldsOf i
    let a := (opA i s).toNat
    let n := (opB i s).toNat
    let w := vtWidth k.m / 8
    let r := slotRef i s
    let u := (issued s r).localReach s.cur a (n * w)
    let v := s.localReach s.cur a 64
    let words := (List.range 8).map fun j => v.localN v.cur (a + 8 * j) 8
    let toRouter (t : State) (b : Body) : Msg :=
      { src := .core s.cur, dst := .router (clusterOf s.cur), chan := .reduce, body := b, region := t.regionOf s.cur }
    (majorOf i = some 0x86 → (n = 0 ∨ 256 < n * w) → TrapsWith i s 0x02 n) ∧
    (majorOf i = some 0x86 → n ≠ 0 → n * w ≤ 256 →
      (localRange a (n * w) = false → TrapsWith i s 0x05 a) ∧
      (localRange a (n * w) = true → a % 64 ≠ 0 → TrapsWith i s 0x04 a) ∧
      (LocalOk a (n * w) 64 → k.refOk s = false → TrapsWith i s 0x06 r.handle)) ∧
    (majorOf i = some 0x86 → n ≠ 0 → n * w ≤ 256 → LocalOk a (n * w) 64 → k.refOk s = true → u.localBad u.cur a (n * w) = false →
      exec i s = .next ((u.send (toRouter u (.contribution (k.imm % 64)
        { input := s.cur % 32, op := k.xop, vt := k.m, elems := (List.range n).map fun j => u.localN u.cur (a + w * j) w,
          epc := s.me.pl.pc, handle := s.me.pl.handle } (some r)))).advance i.len)) ∧
    (majorOf i = some 0x87 → LocalOk a 64 64 → v.localBad v.cur a 64 = false → redcfgBad v words = none →
      let root := words.getD 0 0 / 2 ^ 28 % 8 = 0
      let known := v.handleOk v.cur (words.getD 1 0 % 2 ^ 32) = true
      let own := words.getD 2 0 % 2 ^ 32 < 0x100000
      ((root → known ∧ own) → exec i s = .next ((v.send (toRouter v (.treeEntry (k.imm % 64) words))).advance i.len)) ∧
      (root → ¬ known → ∃ t, exec i s = .next t ∧ TrapTaken v t 0x06 (words.getD 1 0 % 2 ^ 32)) ∧
      (root → known → ¬ own → ∃ t, exec i s = .next t ∧ TrapTaken v t 0x05 (words.getD 2 0 % 2 ^ 32)))

/-! ### Vectors -/

/-- R232 to R234, R239 to R241, R248, R249. In register mode the floating-point vector instructions complete with, in each enabled lane,
what the scalar rule (the one FloatArithmeticResults states) gives on that lane under the format of the type, the rounding mode and the
lane's random bits; disabled lanes keep their value, and EXCFLAGS takes the flags of the enabled ones. VSQRT of FP16 and BF16 lanes is
rounded once, by RM, which is the model's choice (assumption log, entry 21). -/
def Obligations.VectorFloatResults : Prop :=
  ∀ (i : Instr) (s : State) (op : Nat), i.wf = true → majorOf i = some op → Runs i s → Unbound i s →
    let k := fieldsOf i
    let f := vtFmt k.m
    let w := vtWidth k.m
    let n := vtLanes k.m
    let rm := k.xop % 8
    let rnd (j : Nat) : Nat := if rm = 4 then randBits s.me.spr.rngseed.toNat s.me.spr.rngstrm.toNat j else 0
    let a (j : Nat) : Nat := (laneOf w (s.me.readF k.a) j).toNat
    let b (j : Nat) : Nat := (laneOf w (s.me.readF k.b) j).toNat
    let c (j : Nat) : Nat := (laneOf w (s.me.readF k.c) j).toNat
    let lanes (r : Nat → Nat × Nat) : Prop :=
      VectorResult i s w n (laneFlags i s n fun j => (r j).2) fun j => BitVec.ofNat w (r j).1
    (op = 0xA0 → lanes fun j => fAdd f rm (rnd j) (unpack f (a j)) (unpack f (b j))) ∧
    (op = 0xA1 → lanes fun j => fAdd f rm (rnd j) (unpack f (a j)) (unpack f (b j)).neg) ∧
    (op = 0xA2 → lanes fun j => fMul f rm (rnd j) (unpack f (a j)) (unpack f (b j))) ∧
    (op = 0xA3 → lanes fun j => fFma f rm (rnd j) (unpack f (a j)) (unpack f (b j)) (unpack f (c j))) ∧
    (op = 0xA4 → lanes fun j => fMinMax f false (a j) (b j)) ∧
    (op = 0xA5 → lanes fun j => fMinMax f true (a j) (b j)) ∧
    (op = 0xA6 → lanes fun j => (a j % 2 ^ (w - 1), 0)) ∧
    (op = 0xA7 → lanes fun j => (a j ^^^ 2 ^ (w - 1), 0)) ∧
    (op = 0xB8 → lanes fun j => fSqrt f rm (rnd j) (unpack f (a j))) ∧
    (0xB4 ≤ op → op ≤ 0xBC → op ≠ 0xB8 → lanes fun j => sfLane f op k.m (a j))

/-- R248, R249. The special inputs of VEXP2, VLOG2, VRCP, VRSQ, VSIN, VCOS, VTANH and VSIGM, in FP32, FP16 and BF16: NaN gives the canonical
NaN, with INV for a signalling one; the infinities and the zeros give the table's results and flags; VLOG2 and VRSQ of a negative
number are NaN with INV; VEXP2 of an integer whose power the format holds is that power, and beyond the format +∞ with OVF and INX;
VLOG2 of 2^k is k, VRCP of ±2^k whose reciprocal is normal is ±2^−k and VRSQ of 4^k is 2^−k, for every power of the format; VSIN and
VCOS from 2^18 on are the NaN with its lowest bit set. On every other number the result is an FP32 code within 1 ulp of the value, or
2 ulp for VSIN, VCOS, VTANH and VSIGM, rounded once by RNE to the lane (R248): of 1/x and 1/√x themselves, and of the value that the
model computes in fixed point for each function; a finite result raises INX, a subnormal or zero one UNF too, +∞ OVF and INX. The
model's readings (assumption log, entry 21): an ulp is one step of the FP32 code; and VEXP2 of an integer whose power is subnormal
raises no flag, since R249 lists it as exact, although the result is subnormal. -/
def Obligations.SpecialFunctionExactCases : Prop :=
  ∀ (vt x : Nat), vt < 3 → x < 2 ^ vtWidth vt →
    let f := vtFmt vt
    let sign := 2 ^ (vtWidth vt - 1)
    let one := (roundTo f 0 0 false 1 0).1
    let half := (roundTo f 0 0 false 1 (-1)).1
    let power (z : Int) : Nat := (roundTo f 0 0 false 1 z).1
    let integer (z : Int) : Nat := (roundV f 0 0 (intV z)).1
    let v := unpack f x
    (∀ op sn, 0xB4 ≤ op → op ≤ 0xBC → op ≠ 0xB8 → v = .nan sn → sfLane f op vt x = (f.nan, if sn then fINV else 0)) ∧
    (v = .inf false → sfLane f 0xB4 vt x = (f.infBits, 0) ∧ sfLane f 0xB5 vt x = (f.infBits, 0) ∧ sfLane f 0xB6 vt x = (0, 0) ∧
      sfLane f 0xB7 vt x = (0, 0) ∧ sfLane f 0xB9 vt x = (f.nan, fINV) ∧ sfLane f 0xBA vt x = (f.nan, fINV) ∧
      sfLane f 0xBB vt x = (one, 0) ∧ sfLane f 0xBC vt x = (one, 0)) ∧
    (v = .inf true → sfLane f 0xB4 vt x = (0, 0) ∧ sfLane f 0xB5 vt x = (f.nan, fINV) ∧ sfLane f 0xB6 vt x = (sign, 0) ∧
      sfLane f 0xB7 vt x = (f.nan, fINV) ∧ sfLane f 0xB9 vt x = (f.nan, fINV) ∧ sfLane f 0xBA vt x = (f.nan, fINV) ∧
      sfLane f 0xBB vt x = (one + sign, 0) ∧ sfLane f 0xBC vt x = (0, 0)) ∧
    (∀ ng e, v = .fin ng 0 e → sfLane f 0xB4 vt x = (one, 0) ∧ sfLane f 0xB5 vt x = (f.infBits + sign, fDZ) ∧
      sfLane f 0xB6 vt x = (f.infBits + (if ng then sign else 0), fDZ) ∧
      sfLane f 0xB7 vt x = (f.infBits + (if ng then sign else 0), fDZ) ∧
      sfLane f 0xB9 vt x = ((if ng then sign else 0), 0) ∧ sfLane f 0xBA vt x = (one, 0) ∧
      sfLane f 0xBB vt x = ((if ng then sign else 0), 0) ∧ sfLane f 0xBC vt x = (half, 0)) ∧
    (∀ m e, v = .fin true m e → m ≠ 0 → sfLane f 0xB5 vt x = (f.nan, fINV) ∧ sfLane f 0xB7 vt x = (f.nan, fINV)) ∧
    (∀ ng m e, v = .fin ng m e → (2 : Rat) ^ 18 ≤ |v.rat| →
      sfLane f 0xB9 vt x = (f.nan + 1, fINV) ∧ sfLane f 0xBA vt x = (f.nan + 1, fINV)) ∧
    (∀ m e, v = .fin false m e → (2 : Rat) ^ (f.eb - 1) ≤ v.rat → sfLane f 0xB4 vt x = (f.infBits, fOVF + fINX)) ∧
    (∀ z : Int, f.emin ≤ z → z < 2 ^ (f.eb - 1) → sfLane f 0xB4 vt (integer z) = (power z, 0) ∧
      sfLane f 0xB5 vt (power z) = (integer z, 0) ∧
      (f.emin + f.mb ≤ -z → -z < 2 ^ (f.eb - 1) →
        sfLane f 0xB6 vt (power z) = (power (-z), 0) ∧ sfLane f 0xB6 vt (power z + sign) = (power (-z) + sign, 0)) ∧
      (z % 2 = 0 → sfLane f 0xB7 vt (power z) = (power (-(z / 2)), 0))) ∧
    ∀ (op : Nat) (ng : Bool) (m : Nat) (e : Int), 0xB4 ≤ op → op ≤ 0xBC → op ≠ 0xB8 → v = .fin ng m e → m ≠ 0 →
      ¬ (op = 0xB4 ∧ ((∃ z : Int, v.rat = z ∧ f.emin ≤ z) ∨ (2 : Rat) ^ (f.eb - 1) ≤ v.rat)) →
      ¬ ((op = 0xB5 ∨ op = 0xB7) ∧ ng = true) → ¬ (op = 0xB5 ∧ ∃ z : Int, v.rat = (2 : Rat) ^ z) →
      ¬ (op = 0xB6 ∧ ∃ z : Int, |v.rat| = (2 : Rat) ^ z ∧ f.emin + f.mb ≤ -z ∧ -z < 2 ^ (f.eb - 1)) →
      ¬ (op = 0xB7 ∧ ∃ z : Int, v.rat = (2 : Rat) ^ (2 * z)) → ¬ ((op = 0xB9 ∨ op = 0xBA) ∧ (2 : Rat) ^ 18 ≤ |v.rat|) →
      let r := sfLane f op vt x
      let value := sfValue op ng m e
      ∃ c, c < 2 ^ 32 ∧ r.1 = (roundV f 0 0 (unpack (fmtOf 1) c)).1 ∧
        Within32 (if op < 0xB8 then 1 else 2) c (FV.fin value.1 value.2.1 value.2.2).rat ∧
        (op = 0xB6 → Within32 1 c (1 / v.rat)) ∧
        (op = 0xB7 → magnitude32 (c - 1) ^ 2 * v.rat ≤ 1 ∧ (c + 1 < 0x7F800000 → 1 ≤ magnitude32 (c + 1) ^ 2 * v.rat)) ∧
        r.2 = if f.infBits ≤ r.1 % sign then fOVF + fINX else if r.1 % sign < 2 ^ f.mb then fUNF + fINX else fINX

/-- R232, R233, R241, R243, R250, R253. In register mode the integer, bitwise, selecting and moving vector instructions complete with each
enabled lane the instruction's function of its own lanes, no flag raised: VAND to VIMUL on the width of the type, saturating where they
say so; VSEL by the bits of gC; VPERM with the lane that B names, 0 beyond the last; VBCAST and VMOV; VRAND with the random bits of
gA plus the lane number. -/
def Obligations.VectorIntegerAndMoveResults : Prop :=
  ∀ (i : Instr) (s : State) (op : Nat), i.wf = true → majorOf i = some op → Runs i s → Unbound i s →
    let k := fieldsOf i
    let w := vtWidth k.m
    let n := vtLanes k.m
    let a (j : Nat) : BitVec w := laneOf w (s.me.readF k.a) j
    let b (j : Nat) : BitVec w := laneOf w (s.me.readF k.b) j
    let lanes (r : Nat → BitVec w) : Prop := VectorResult i s w n 0 r
    (0xAA ≤ op → op ≤ 0xB0 → lanes fun j => intLane op (k.xop % 2 == 1) (a j) (b j)) ∧
    (op = 0xA9 → lanes fun j => if (opC i s).getLsbD j then a j else b j) ∧
    (op = 0xBD → lanes fun j => if (b j).toNat < n then a (b j).toNat else 0) ∧
    (op = 0xBE → lanes fun _ => (opB i s).setWidth w) ∧
    (op = 0xBF → lanes a) ∧
    (op = 0xC4 → lanes fun j =>
      let u := randBits s.me.spr.rngseed.toNat s.me.spr.rngstrm.toNat (((opA i s).toNat + j) % 2 ^ 64)
      BitVec.ofNat w (if k.m = 5 then u else (roundTo (fmtOf 1) 0 0 false (u / 256) (-24)).1))

/-- R242, R244 to R247, R255. In register mode VCMP writes gD with one bit for each enabled lane whose condition holds; VCVT
converts lane by lane and leaves zeros beyond the source's lanes; VRED of integers gives the sum, sign-extended lesser, greater, and, or,
exclusive or of the enabled lanes; VSCAN gives each enabled lane the run of those before it, with or without itself; VDOT
adds the products of its group to each 32-bit lane, exactly and rounded once, or wrapping. -/
def Obligations.VectorAcrossLanesResults : Prop :=
  ∀ (i : Instr) (s : State), i.wf = true → Runs i s → Unbound i s →
    let k := fieldsOf i
    let f := vtFmt k.m
    let w := vtWidth k.m
    let n := vtLanes k.m
    let xop := k.xop % 8
    let mask := maskOf i s
    let a (j : Nat) : BitVec w := laneOf w (s.me.readF k.a) j
    let b (j : Nat) : BitVec w := laneOf w (s.me.readF k.b) j
    let on := (List.range n).filter fun j => mask.getLsbD j
    let run (j : Nat) : Nat := (on.filter (· < j)).foldl (fun r e => (vecCombine xop k.m r (a e).toNat).1) (vecIdentity xop k.m)
    let tree6 := tree (vecCombine xop k.m) 6 ((List.range n).map fun j => if mask.getLsbD j then some (a j).toNat else none)
    (majorOf i = some 0xA8 → ∃ v : Word, (∀ j, j < 64 → v.getLsbD j = (decide (j < n) && mask.getLsbD j &&
        if vtFloat k.m then (fCond k.xop (unpack f (a j).toNat) (unpack f (b j).toNat)).1
        else condition (vcmpCode k.xop) (a j) (b j))) ∧
      Raises i s (laneFlags i s n fun j =>
        if vtFloat k.m then (fCond k.xop (unpack f (a j).toNat) (unpack f (b j).toNat)).2 else 0) (·.writeG k.d v)) ∧
    (majorOf i = some 0xB1 →
      let r (j : Nat) : Nat × Nat :=
        if j < min n (vtLanes k.c) then
          vcvtLane k.m k.c xop (if xop = 4 then randBits s.me.spr.rngseed.toNat s.me.spr.rngstrm.toNat j else 0)
            (laneOf (vtWidth k.c) (s.me.readF k.a) j).toNat
        else (0, 0)
      VectorResult i s w n (laneFlags i s n fun j => (r j).2) fun j => BitVec.ofNat w (r j).1) ∧
    (majorOf i = some 0xB2 → vtFloat k.m = true →
      Raises i s tree6.2 (·.writeG k.d (BitVec.ofNat 64 (tree6.1.getD (vecIdentity xop k.m))))) ∧
    (majorOf i = some 0xB2 → vtFloat k.m = false → WritesG i s
      (if xop = 0 then on.foldl (fun x j => x + (a j).signExtend 64) 0
      else if xop = 1 then (on.foldl (fun x j => if (a j).slt x then a j else x) (BitVec.intMax w)).signExtend 64
      else if xop = 2 then (on.foldl (fun x j => if x.slt (a j) then a j else x) (BitVec.intMin w)).signExtend 64
      else if xop = 3 then (on.foldl (fun x j => x &&& a j) (BitVec.allOnes w)).signExtend 64
      else if xop = 4 then (on.foldl (fun x j => x ||| a j) 0).signExtend 64
      else (on.foldl (fun x j => x ^^^ a j) 0).signExtend 64)) ∧
    (majorOf i = some 0xB3 →
      VectorResult i s w n (on.foldl (fun x j => x ||| (vecCombine xop k.m (run j) (a j).toNat).2) 0)
        fun j => BitVec.ofNat w (if k.xop / 8 % 2 = 1 then run j else run (j + 1))) ∧
    (majorOf i = some 0xC6 →
      let g := if w = 16 then 2 else 4
      let d (j : Nat) : BitVec 32 := laneOf 32 (s.me.readF k.d) j
      let group (j : Nat) : List Nat := (List.range g).map (g * j + ·)
      let exact (j : Nat) : Nat × Nat := finish (fmtOf 1) 0 0 (sumV ((unpack (fmtOf 1) (d j).toNat, false) ::
        (group j).map fun e => mulV (unpack f (a e).toNat) (unpack f (b e).toNat)))
      (k.m = 7 → VectorResult i s 32 16 0 fun j =>
        (group j).foldl (fun x e => x + (a e).signExtend 32 * (b e).signExtend 32) (d j)) ∧
      (k.m ≠ 7 → VectorResult i s 32 16 (laneFlags i s 16 fun j => (exact j).2) fun j => BitVec.ofNat 32 (exact j).1))

/-- R251, R252, R355. In register mode VLD and VGATH complete with each enabled lane read from its local address; VST and VSCAT write
the enabled lanes to theirs, in ascending lane order, and with no region swapped out change no other byte of any scratchpad and no
register; a misaligned base takes cause 0x04, an address outside the map cause 0x05 (of VLD and VST first, which is the model's choice:
assumption log, entry 23), for a gather the first such address before any lane moves, and a word with an uncorrectable error cause 0x10 where a load, a gather or a merging store reads it: a VST a 64-bit word
of which it writes one half, a VSCAT its enabled places with a lane disabled (that reading: assumption log, entry 46). Where enabled
places of a scatter resolve to one byte, by one address or by an alias of it, the highest lane stands. The stored values are stated
where the place exists: a firmware core has its 256 KiB alone (assumption log, entry 61). -/
def Obligations.VectorMemoryResults : Prop :=
  ∀ (i : Instr) (s : State), i.wf = true → Runs i s → Unbound i s →
    let k := fieldsOf i
    let v := (opA i s).toNat
    let w := vtWidth k.m
    let e := w / 8
    let mask := maskOf i s
    let on := (List.range (vtLanes k.m)).filter fun j => mask.getLsbD j
    let place (j : Nat) : Nat := v + (laneOf w (s.me.readF k.b) j).toNat * e
    let words := (List.range 16).filter fun j => mask.getLsbD j
    let u := words.foldl (fun t j => t.localReach t.cur (v + 4 * j) 4) s
    let x := on.foldl (fun t j => t.localReach t.cur (place j) e) s
    let half := (List.range 8).filter fun j => mask.getLsbD (2 * j) != mask.getLsbD (2 * j + 1)
    let y := half.foldl (fun t j => t.localReach t.cur (v + 8 * j) 8) s
    let only (t : State) (stored : List Nat) : Prop :=
      (∀ c a, (∀ l ∈ stored, resolveLocal s.cur l ≠ some (c, a)) → (t.core c).scr.byte a = (s.core c).scr.byte a) ∧
      t.me.regs = s.me.regs ∧ t.me.pl = { s.me.pl with pc := s.me.pl.pc + i.len } ∧ t.mem = s.mem ∧ t.msgs = s.msgs
    (majorOf i = some 0xC0 → LocalOk v 64 64 → (∀ j ∈ words, u.localBad u.cur (v + 4 * j) 4 = false) →
      ∃ r : Line, (∀ j, j < 16 → laneOf 32 r j =
          if mask.getLsbD j then BitVec.ofNat 32 (u.localN u.cur (v + 4 * j) 4) else laneOf 32 (s.me.readF k.d) j) ∧
        exec i s = .next ((u.modMe (·.writeF k.d r)).advance i.len)) ∧
    (majorOf i = some 0xC2 → v % e = 0 → (∀ j ∈ on, localRange (place j) e = true) →
      (∀ j ∈ on, x.localBad x.cur (place j) e = false) →
      ∃ r : Line, (∀ j, j < vtLanes k.m → laneOf w r j =
          if mask.getLsbD j then BitVec.ofNat w (x.localN x.cur (place j) e) else laneOf w (s.me.readF k.d) j) ∧
        exec i s = .next ((x.modMe (·.writeF k.d r)).advance i.len)) ∧
    (majorOf i = some 0xC1 → NoSave s → LocalOk v 64 64 → (∀ j ∈ half, y.localBad y.cur (v + 8 * j) 8 = false) →
      ∃ t, exec i s = .next t ∧ only t (((List.range 64).filter fun q => mask.getLsbD (q / 4)).map (v + ·)) ∧
        ∀ j, j < 64 → mask.getLsbD (j / 4) = true → (resolveLocal s.cur (v + j)).isSome = true →
          t.localByte s.cur (v + j) = (s.me.readF k.d).extractLsb' (8 * j) 8) ∧
    (majorOf i = some 0xC3 → NoSave s → v % e = 0 → (∀ j ∈ on, localRange (place j) e = true) →
      (on.length < vtLanes k.m → ∀ j ∈ on, x.localBad x.cur (place j) e = false) →
      ∃ t, exec i s = .next t ∧ only t (on.flatMap fun j => (List.range e).map (place j + ·)) ∧
        ∀ j ∈ on, (∀ m ∈ on, j < m → resolveLocal s.cur (place m) ≠ resolveLocal s.cur (place j)) → ∀ q, q < e →
          (resolveLocal s.cur (place j + q)).isSome = true →
          t.localByte s.cur (place j + q) = (s.me.readF k.d).extractLsb' (8 * (e * j + q)) 8) ∧
    ((majorOf i = some 0xC0 ∨ majorOf i = some 0xC1) → localRange v 64 = false → TrapsWith i s 0x05 v) ∧
    ((majorOf i = some 0xC0 ∨ majorOf i = some 0xC1) → localRange v 64 = true → v % 64 ≠ 0 → TrapsWith i s 0x04 v) ∧
    ((majorOf i = some 0xC2 ∨ majorOf i = some 0xC3) → v % e ≠ 0 → TrapsWith i s 0x04 v) ∧
    ((majorOf i = some 0xC2 ∨ majorOf i = some 0xC3) → v % e = 0 → ∀ j ∈ on, localRange (place j) e = false →
      (∀ m ∈ on, m < j → localRange (place m) e = true) → TrapsWith i s 0x05 (place j)) ∧
    (majorOf i = some 0xC0 → LocalOk v 64 64 → ∀ j ∈ words, u.localBad u.cur (v + 4 * j) 4 = true →
      (∀ m ∈ words, m < j → u.localBad u.cur (v + 4 * m) 4 = false) →
      ∃ t, exec i s = .next t ∧ TrapTaken u t 0x10 (v + 4 * j)) ∧
    (majorOf i = some 0xC2 → v % e = 0 → (∀ j ∈ on, localRange (place j) e = true) → ∀ j ∈ on, x.localBad x.cur (place j) e = true →
      (∀ m ∈ on, m < j → x.localBad x.cur (place m) e = false) → ∃ t, exec i s = .next t ∧ TrapTaken x t 0x10 (place j)) ∧
    (majorOf i = some 0xC1 → LocalOk v 64 64 → ∀ j ∈ half, y.localBad y.cur (v + 8 * j) 8 = true →
      (∀ m ∈ half, m < j → y.localBad y.cur (v + 8 * m) 8 = false) →
      ∃ t, exec i s = .next t ∧ TrapTaken y t 0x10 (v + 8 * j)) ∧
    (majorOf i = some 0xC3 → v % e = 0 → (∀ j ∈ on, localRange (place j) e = true) → on.length < vtLanes k.m →
      ∀ j ∈ on, x.localBad x.cur (place j) e = true → (∀ m ∈ on, m < j → x.localBad x.cur (place m) e = false) →
      ∃ t, exec i s = .next t ∧ TrapTaken x t 0x10 (place j))

/-- R254. VQNT in register mode: with an enabled element that is a NaN or an infinity, the scale byte is 0xFF and every code 0, with INV;
with none enabled or all of them zero it is 0x7F and every code 0; otherwise, where 2^l ≤ amax < 2^(l+1), the scale byte is e + 127 for
e = l − Emax between −127 and 127, and the code of an enabled element is its quotient by 2^e rounded by RM to the format, saturated to
±Qmax with INX, and 0 for a disabled one. Each is stored: the scale at the local address gB, the codes packed from bit 0 of fD, the rest
of it zero. With a raised flag enabled, cause 0x0F is taken and neither is stored; a gB outside the local map takes cause 0x05. -/
def Obligations.VectorQuantizeResults : Prop :=
  ∀ (i : Instr) (s : State), i.wf = true → majorOf i = some 0xC5 → Runs i s → Unbound i s →
    let k := fieldsOf i
    let v := (opB i s).toNat
    let w := vtWidth k.m
    let n := vtLanes k.m
    let bitsOf := if k.c = 6 then 4 else 8
    let elems := (List.range n).map fun j =>
      ((maskOf i s).getLsbD j, unpack (vtFmt k.m) (laneOf w (s.me.readF k.a) j).toNat,
        if k.xop % 8 = 4 then randBits s.me.spr.rngseed.toNat s.me.spr.rngstrm.toNat j else 0)
    let r := qntBlock k.c (k.xop % 8) elems
    let u := s.modMe (·.orFlags r.2.2)
    (localRange v 1 = false → TrapsWith i s 0x05 v) ∧
    (LocalOk v 1 1 →
    (s.me.spr.excen &&& BitVec.ofNat 6 r.2.2 = 0 →
      ∃ x : Line, (∀ j, j < n → x.extractLsb' (bitsOf * j) bitsOf = BitVec.ofNat bitsOf (r.2.1.getD j 0)) ∧ x.toNat < 2 ^ (bitsOf * n) ∧
        exec i s = .next (((u.localWrite u.cur v [BitVec.ofNat 8 r.1]).modMe (·.writeF k.d x)).advance i.len)) ∧
    (s.me.spr.excen &&& BitVec.ofNat 6 r.2.2 ≠ 0 → ∃ t, exec i s = .next t ∧ TrapTaken u t 0x0F r.2.2) ∧
    let odd := elems.any fun e => e.1 && (e.2.1.isNan || e.2.1.isInf)
    let (emax, top, sign) : Int × Nat × Nat :=
      if k.c = 4 then (8, 0x7E, 0x80) else if k.c = 5 then (15, 0x7B, 0x80) else if k.c = 6 then (2, 7, 8) else (6, 127, 0)
    let quotient (e : Int) (j : Nat) : Nat × Nat := match elems.getD j (false, .nan false, 0) with
      | (true, .fin ng m q, rnd) =>
        if k.c = 7 then
          let t := toInt (k.xop % 8) rnd (-127) 127 (.fin ng m (q - e))
          ((t.1 % 256).toNat, if t.2 = 0 then 0 else fINX)
        else
          let t := roundTo (fmtOf k.c) (k.xop % 8) rnd ng m (q - e)
          if t.2 &&& fOVF = 0 then t else ((if ng then sign else 0) + top, fINX)
      | _ => (0, 0)
    (odd = true → r.1 = 0xFF ∧ (∀ c ∈ r.2.1, c = 0) ∧ r.2.2 = fINV) ∧
    (odd = false → (∀ e ∈ elems, e.1 = true → e.2.1.rat = 0) → r.1 = 0x7F ∧ (∀ c ∈ r.2.1, c = 0) ∧ r.2.2 = 0) ∧
    (odd = false → ∀ l : Int, (∃ e ∈ elems, e.1 = true ∧ (2 : Rat) ^ l ≤ |e.2.1.rat|) →
      (∀ e ∈ elems, e.1 = true → |e.2.1.rat| < (2 : Rat) ^ (l + 1)) →
      let e := max (-127) (min 127 (l - emax))
      r.1 = (e + 127).toNat ∧ (∀ j, j < n → r.2.1.getD j 0 = (quotient e j).1) ∧
        r.2.2 = (List.range n).foldl (fun fl j => fl ||| (quotient e j).2) 0))

/-- R109, R225, R235 to R238. With a register bound to a stream among its operands, a vector instruction in base form takes cause 0x01;
one that may have no bound operand, or that names a register with an operation in flight or a stream of the wrong direction, cause
0x02 with that register, and one without a bound destination, or none of whose operands has a length, with fD (that ETVAL is these
register numbers is the model's choice: assumption log, entry 45); and otherwise it joins the vector engine's operations, its streams busy, with the slot to signal. -/
def Obligations.StreamModeIssues : Prop :=
  ∀ (i : Instr) (s : State) (op : Nat), i.wf = true → majorOf i = some op → 0xA0 ≤ op → op ≤ 0xC6 → Runs i s → ¬ Unbound i s →
    let k := fieldsOf i
    let bs := k.bound s
    let bad (e : Nat × Nat × Stream) : Bool := vecUnbound op || s.me.streamBusy e.2.1 || (e.2.2.dst != (e.1 == 0))
    (k.l % 2 = 0 → TrapsWith i s 0x01 ((encode i).headD 0).toNat) ∧
    (k.l % 2 = 1 → ∀ e, bs.find? bad = some e → TrapsWith i s 0x02 e.2.1) ∧
    (k.l % 2 = 1 → bs.find? bad = none → s.me.stream k.d = none → TrapsWith i s 0x02 k.d) ∧
    (k.l % 2 = 1 → bs.find? bad = none → s.me.stream k.d ≠ none → streamLength op k.m k.c bs = none → TrapsWith i s 0x02 k.d) ∧
    (k.l % 2 = 1 → bs.find? bad = none → s.me.stream k.d ≠ none → k.refOk s = true →
      ∀ n, streamLength op k.m k.c bs = some n → (op = 0xC5 → localRange (opB i s).toNat ((n + 31) / 32) = true) →
      ∃ t, exec i s = .next t ∧ t.me.pl.pc = s.me.pl.pc + i.len ∧ t.me.regs.g = s.me.regs.g ∧ t.me.regs.f = s.me.regs.f ∧
        SameMemory s t ∧ t.msgs = s.msgs ∧
        (∃ o, t.me.eng.vector = s.me.eng.vector ++ [o] ∧ o.opc = op ∧ o.td1 = n ∧ o.ref = slotRef i s ∧ o.streams.map (·.1) = bs.map (·.1)) ∧
        ∀ e ∈ bs, t.me.streamBusy e.2.1 = true)

/-! ### Tiles, sparsity, shapes -/

/-- R258 to R260, R266 to R269, R271, R272, R276, R280 to R284. When its operands pass their checks, an instruction of the tensor engine enters the
engine's queue of 16 with its operands and the descriptors as they stand at issue, a full queue holding issue; TACST, TCVT, TRED and
TTRN set the rows of a full/empty destination empty. A TMMAS one of whose masks has an uncorrectable error enters without masks and ends
at its turn, which is the model's choice (assumption log, entry 38). -/
def Obligations.TensorInstructionsEnterTheQueue : Prop :=
  ∀ (i : Instr) (s : State), i.wf = true → Issues i s →
    let k := fieldsOf i
    let a := (opA i s).toNat
    let tdD := (s.me.td k.d).toNat
    let tdA := (s.me.td k.a).toNat
    let tdB := (s.me.td k.b).toNat
    let fmt (v : Nat) (ok : Nat → Bool) : Prop := tdFail v (ok (tdFmt v)) = none
    let entry := k.imm % 16
    let seg : Option Nat := if k.imm.testBit 4 then some entry else none
    let o := opOf i s
    let full := 16 ≤ (s.me.ops .tensor).length
    let enters (f : State → State) : Prop := (¬ full → Enters i s f) ∧ (full → exec i s = .next s)
    let empties (t : State) : State := t.emptyRows tdD
    let operand (f : Nat) : Bool := decide (2 ≤ f) && decide (f ≤ 8)
    let matrix : Prop := fmt tdA operand ∧ fmt tdB (fun f => operand f && pairOk (tdFmt tdA) f) ∧ tdCols tdA = tdCols tdB
    (majorOf i = some 0xD1 → LocalOk a 1024 64 → enters (tensorStart · o none)) ∧
    (majorOf i = some 0xD2 → fmt tdD (fun f => decide (f ≤ 10) &&
        (!s.me.kindKnown k.a || (tacstElem (s.me.acc k.a).kind f 0 0 0).isSome)) → tdK tdD ≤ 16 → enters fun t => tensorStart (empties t) { o with td1 := tdD } (if k.m = 1 then some entry else none)) ∧
    (majorOf i = some 0xD4 → matrix → enters (tensorStart · { o with td1 := tdA, td2 := tdB } none)) ∧
    (majorOf i = some 0xD5 → matrix → LocalOk (opC i s).toNat (8 * tdRows tdB) 8 →
      let u := s.localReach s.cur (opC i s).toNat (8 * tdRows tdB)
      let masks := (List.range (tdRows tdB)).map fun j => u.localN u.cur ((opC i s).toNat + 8 * j) 8
      (¬ full → exec i s = .next ((tensorStart (issued u (slotRef i s)) { k.engOp u (slotRef i s) with
        td1 := tdA, td2 := tdB
        lanes := if u.localBad u.cur (opC i s).toNat (8 * tdRows tdB) then [] else masks } none).advance i.len)) ∧
      (full → exec i s = .next u)) ∧
    (majorOf i = some 0xD6 → fmt tdA operand → GlobalOk (opB i s).toNat 64 → enters (tensorStart · { o with td1 := tdA } none)) ∧
    (majorOf i = some 0xD9 → k.m % 2 = 0 → tdK tdD ≤ 16 →
      fmt tdD (fun f => decide (f ≤ 10) &&
        (!s.me.kindKnown k.a || tcvtPairs (k.m / 2 % 2 == 1) (if (s.me.acc k.a).kind = .tri then 10 else 1) f)) →
      enters fun t => tensorStart (empties t) { o with td1 := tdD } none) ∧
    (majorOf i = some 0xD9 → k.m % 2 = 1 → fmt tdA (fun f => decide (1 ≤ f) && decide (f ≤ 10)) →
      fmt tdD (fun f => decide (1 ≤ f) && decide (f ≤ 10) && f != 8 && tcvtPairs (k.m / 2 % 2 == 1) (tdFmt tdA) f) →
      tdRows tdD = tdRows tdA → tdK tdD = tdK tdA → tilesMeet tdD tdA = false →
      enters fun t => tensorStart (empties t) { o with td1 := tdD, td2 := tdA } none) ∧
    (majorOf i = some 0xDA → fmt tdD (fun f => decide (1 ≤ f) && decide (f ≤ 3)) →
      enters fun t => tensorStart (empties t) { o with td1 := tdD } seg) ∧
    (majorOf i = some 0xDB → fmt tdA (fun f => decide (1 ≤ f) && decide (f ≤ 3)) → enters (tensorStart · { o with td1 := tdA } (some entry))) ∧
    (majorOf i = some 0xDC → enters (tensorStart · o (some entry))) ∧
    (majorOf i = some 0xDD → fmt tdD (fun f => [1, 2, 3, 9, 10].contains f) →
      fmt tdA (fun f => [1, 2, 3, 9, 10].contains f && f == tdFmt tdD) → tdRows tdD = tdK tdA → tdK tdD = tdRows tdA →
      tilesMeet tdD tdA = false → enters fun t => tensorStart (empties t) { o with td1 := tdD, td2 := tdA } none) ∧
    (majorOf i = some 0xDE → LocalOk a 16 16 → enters (tensorStart · o (some entry))) ∧
    (majorOf i = some 0xDF → enters (tensorStart · o none))

/-- R264, R265, R268, R274, R275, R286 to R289, R305. TACZ enters the tensor engine; TEXLOG reads an entry of the tile exception log and may clear
it; SPCOMP asks Prism; SPINV drops the directory entries of a record, or all; SHLD, which may read either line of its record first,
SHINV and SHBND enter the shape cache; TLD and RGLD enter the copy engine while it has one of its 32 places free (R305); their own
operands out of range take cause 0x05, misaligned ones 0x04. The model's choices: their own checks come in the order of their operands
and before the slot's handle (assumption log, entry 23); the shape cache takes any number of operations, and SHLD the lines of its
record in an order that is left open (entry 43); SPINV acts at issue (entry 48). -/
def Obligations.TileAndShapeInstructionsAct : Prop :=
  ∀ (i : Instr) (s : State), i.wf = true → Runs i s →
    let k := fieldsOf i
    let a := (opA i s).toNat
    let b := (opB i s).toNat
    let tdD := (s.me.td k.d).toNat
    let al := if tdWide tdD then 4 else 2
    let r := slotRef i s
    let cl := clusterOf s.cur
    let hit (e : PEnt) : Prop := e.kind ≠ 0 ∧ (k.m = 1 ∨ e.asid = s.me.net.asid ∧ e.va = a)
    let room := (s.me.ops .copy).length + s.me.eng.remote.length < 32
    (majorOf i = some 0xD3 → (s.me.ops .tensor).length < 16 →
      exec i s = .next ((s.modMe (·.startOp .tensor (k.engOp s {}))).advance i.len)) ∧
    (majorOf i = some 0xD3 → 16 ≤ (s.me.ops .tensor).length → exec i s = .next s) ∧
    (majorOf i = some 0xE4 → exec i s = .next ((s.modMe fun c =>
      (if k.m = 1 then c.modEng fun e => { e with tlog := Sparse.set 0 e.tlog k.a 0 } else c).writeG k.d
        (Sparse.get 0 c.eng.tlog k.a)).advance i.len)) ∧
    (majorOf i = some 0xD7 → GlobalOk a 64 → k.refOk s = true → Sends i s (handleCore r.handle)
      { src := .core s.cur, dst := .prism cl, chan := .request,
        body := .prism { core := s.cur, spcomp := true, asid := s.me.net.asid, va := a, epc := s.me.pl.pc,
                         handle := s.me.pl.handle, ref := r } }) ∧
    (majorOf i = some 0xD8 → (k.m = 0 ∨ s.me.pl.sup = true) → Sparse.wf {} (s.cluster cl).dir = true →
      ∃ t, exec i s = .next t ∧
        (∀ n, (hit (Sparse.get {} (s.cluster cl).dir n) → Sparse.get {} (t.cluster cl).dir n = {}) ∧
          (¬ hit (Sparse.get {} (s.cluster cl).dir n) →
            Sparse.get {} (t.cluster cl).dir n = Sparse.get {} (s.cluster cl).dir n)) ∧
        (t.cluster cl).store = (s.cluster cl).store ∧ t.cores = (s.advance i.len).cores) ∧
    (majorOf i = some 0xE0 → GlobalOk a 64 → k.refOk s = true → ∃ second, second < 2 ∧
      Enters i s fun t => ({ t with draws := t.draws + 1 } : State).shapeIssue s.cur { opOf i s with sub := second }) ∧
    (majorOf i = some 0xE1 → exec i s = .next ((s.shapeIssue s.cur (k.engOp s {})).advance i.len)) ∧
    (majorOf i = some 0xE2 → b < 2 ^ 32 → (s.me.shape k.d).valid = true → a < (s.me.shape k.d).entries → k.refOk s = true →
      Enters i s fun t => t.shapeIssue s.cur (opOf i s)) ∧
    (majorOf i = some 0xE2 → 2 ^ 32 ≤ b → TrapsWith i s 0x02 b) ∧
    (majorOf i = some 0xE2 → b < 2 ^ 32 → s.me.ops .shape = [] → (s.me.shape k.d).valid = false → TrapsWith i s 0x08 k.d) ∧
    (majorOf i = some 0xD0 → tdFail tdD (decide (tdFmt tdD ≤ 10)) = none → k.refOk s = true → room →
      (k.m = 0 → GlobalOk a al → b % al = 0 →
        Enters i s fun t => (t.emptyRows tdD).modMe (·.startOp .copy { opOf i s with td1 := tdD })) ∧
      (k.m ≠ 0 → LocalOk a 96 32 →
        Enters i s fun t => (t.emptyRows tdD).startWithSnaps s.cur .copy { opOf i s with td1 := tdD } [k.imm % 16])) ∧
    (majorOf i = some 0xD0 → tdFail tdD (decide (tdFmt tdD ≤ 10)) = none →
      (k.m = 0 → 2 ^ 48 ≤ a → TrapsWith i s 0x05 a) ∧
      (k.m = 0 → a < 2 ^ 48 → a % al ≠ 0 → TrapsWith i s 0x04 a) ∧
      (k.m = 0 → GlobalOk a al → b % al ≠ 0 → TrapsWith i s 0x04 b) ∧
      (k.m ≠ 0 → localRange a 96 = false → TrapsWith i s 0x05 a) ∧
      (k.m ≠ 0 → localRange a 96 = true → a % 32 ≠ 0 → TrapsWith i s 0x04 a)) ∧
    (majorOf i = some 0xE3 → tdFail tdD (decide (tdFmt tdD ≠ 0) && decide (tdFmt tdD ≤ 10)) = none →
      (localRange a 8 = false → TrapsWith i s 0x05 a) ∧ (localRange a 8 = true → a % 8 ≠ 0 → TrapsWith i s 0x04 a) ∧
      (LocalOk a 8 8 → localRange b 4 = false → TrapsWith i s 0x05 b) ∧
      (LocalOk a 8 8 → localRange b 4 = true → b % 4 ≠ 0 → TrapsWith i s 0x04 b)) ∧
    ((majorOf i = some 0xD7 ∨ majorOf i = some 0xE0) →
      (2 ^ 48 ≤ a → TrapsWith i s 0x05 a) ∧ (a < 2 ^ 48 → a % 64 ≠ 0 → TrapsWith i s 0x04 a)) ∧
    (majorOf i = some 0xE3 → tdFail tdD (decide (tdFmt tdD ≠ 0) && decide (tdFmt tdD ≤ 10)) = none → LocalOk a 8 8 → LocalOk b 4 4 →
      k.refOk s = true → room →
      Enters i s fun t => (t.emptyRows tdD).startWithSnaps s.cur .copy { opOf i s with td1 := tdD } [k.imm % 16]) ∧
    (∀ c x, (majorOf i = some 0xD0 ∧ tdFail tdD (decide (tdFmt tdD ≤ 10)) = some (c, x) ∨
        majorOf i = some 0xE3 ∧ tdFail tdD (decide (tdFmt tdD ≠ 0) && decide (tdFmt tdD ≤ 10)) = some (c, x)) → TrapsWith i s c x)

/-! ### Commands -/

/-- R20, R71, R72, R76, R77, R83, R84, R370. NOPC, WAITQ, SIGNAL, STAMP, FENCEC, GATES and ARRIVE, when the packet begins and no rule rejects it: NOPC, and
WAITQ whose target is reached, take their whole effect at once; a blocked WAITQ stages what is behind it; SIGNAL and STAMP write their word
at PHASE 1, FETIME of the leader's die for STAMP; FENCEC takes up the stores and the bank operations issued by now; GATES opens or closes the region's gates;
ARRIVE sends the root its values, or completes with no effect for a cancelled job. A word that a packet writes in vain fails it at the
PHASE it has come to. A packet whose turn has come and whose CMD is reserved, or that has a reserved bit or word set, begins not: its queue
halts, and QERR holds its sequence number and CODE 0x02 or 0x01; FENCEC with a reserved scope, STAMP with a misaligned VA, WAITQ on its
own queue above its QCMPL, and ARRIVE with a count over 4, a value beyond it or no such root get CODE 0x03, GATES or ARRIVE of a region
that is not loaded CODE 0x04. The model's choices: an ARRIVE is at PHASE 2 from its send (assumption log, entry
65); a SIGNAL or STAMP is at PHASE 1 until a piece of its word is written (entry 26). -/
def Obligations.QueueCommandsTakeEffect : Prop :=
  (∀ (s : State) (q : Nat) (p : Packet), Begun s q p →
    let u := s.start q p
    let i := p.regionId
    let r := s.region i
    let n := bits (p.w 1) 18 16
    let now := s.fetime s.fw.holder.toNat % 2 ^ 64
    let target := (s.queue (p.w 1)).cmpl.toNat
    (p.cmd = 0 → exec (.nopc q) s = .next (u.packetDone q) ∧ Executes (u.packetDone q) q p true) ∧
    (p.cmd = 4 → p.w 2 ≤ target → exec (.waitq q) s = .next (u.packetDone q) ∧ Executes (u.packetDone q) q p true) ∧
    (p.cmd = 4 → target < p.w 2 → p.w 1 ≠ q →
      exec (.waitq q) s = .next (((u.queue q).accepted.take 8).foldl (fun t x => t.stageImage q x) u) ∧
        (u.queue q).accepted = (s.queue q).accepted.drop 1 ∧ Executes u q p false) ∧
    (p.cmd = 5 → exec (.signal q) s = .next (u.packetWord q (p.w 1) (p.w 2))) ∧
    (p.cmd = 9 → p.w 1 % 8 = 0 → exec (.stamp q) s =
      .next ((u.modExec q fun e => { e with stamp := now, phase := 1 }).packetWord q (p.w 1) now)) ∧
    (p.cmd = 8 → (p.w 1 = 5 ∨ p.w 1 = 6) →
      exec (.fencec q) s = .next ((u.mapAccess fun a =>
        if a.kind.isBank then { a with marks := a.marks ++ [fenceMark q p.seq] } else a).modExec q fun e =>
          { e with fence := s.journals.map fun k => (k.1, k.2.net.ord, k.2.eng.nextId), fenceParked := s.parkedWrites })) ∧
    (p.cmd = 2 → (p.w 1).testBit 8 = true → s.loaded i = true →
      exec (.gatesOpen q) s = .next ((u.openGates i).packetDone q) ∧
        ((∀ cl, (s.cluster cl).ingress = []) →
          ((u.openGates i).packetDone q).region i = { r with gates := true, busy := some q } ∧
            Executes ((u.openGates i).packetDone q) q p true)) ∧
    (p.cmd = 2 → (p.w 1).testBit 8 = false → s.loaded i = true →
      ∃ t, exec (.gatesClose q) s = .next t ∧ t.region i = { r with gates := false, busy := some q } ∧ Executes t q p true ∧
        t.cores = s.cores ∧ t.clusters = s.clusters ∧ t.msgs = s.msgs) ∧
    (p.cmd = 3 → i < 96 → r.state ≠ 0 → n ≤ 4 → (∀ j, n ≤ j → j < 4 → p.w (2 + j) = 0) → bits (p.w 1) 15 8 < r.roots.length →
      (p.job ≠ 0 → p.job ∈ r.cjobs → exec (.arrive q) s = .next (u.packetDone q)) ∧
      (p.job = 0 ∨ p.job ∉ r.cjobs →
        let h := r.root (bits (p.w 1) 15 8)
        exec (.arrive q) s = .next ((u.modExec q fun e => { e with phase := 2 }).send
          { src := .frontEnd, dst := .core (handleCore h), chan := .signal, region := some i, outside := true
            body := .arrival {
              handle := h, slot := bits (p.w 1) 21 19, n := 1
              deposits := (List.range n).map fun j => (32 + 8 * j, p.w (2 + j))
              region := some i, queue := some q, job := p.job } })))) ∧
  (∀ (t : State) (q va v : Nat), va % 64 ≤ 56 →
    let x := t.modExec q fun e => { e with phase := max e.phase 1 }
    ((x.queue q).exec.map (·.got)).bind (·.lookup va) = none →
    let w := x.gWritePiece (x.queue q).asid.toNat va (natLE 8 v) { turn := true, front := true }
    (w.2 = .ok () → t.packetWord q va v =
      ((w.1.modExec q fun e => { e with got := (va, []) :: e.got }).modExec q fun e => { e with phase := 2 }).packetDone q) ∧
    ∀ c y, w.2 = .error (.cause c y) → t.packetWord q va v = w.1.failAt q c) ∧
  ∀ (s : State) (q : Nat) (p : Packet), Begins s q p →
    (9 < p.cmd → Rejects (.packetComplete q) s q p 0x02) ∧
    (p.cmd = 0 → p.reserved = true → Rejects (.nopc q) s q p 0x01) ∧
    (p.cmd = 4 → p.reserved = true → Rejects (.waitq q) s q p 0x01) ∧
    (p.cmd = 5 → p.reserved = true → Rejects (.signal q) s q p 0x01) ∧
    (p.cmd = 8 → p.reserved = true → Rejects (.fencec q) s q p 0x01) ∧
    (p.cmd = 8 → p.reserved = false → p.w 1 ≠ 5 → p.w 1 ≠ 6 → Rejects (.fencec q) s q p 0x03) ∧
    (p.cmd = 9 → p.reserved = false → p.w 1 % 8 ≠ 0 → Rejects (.stamp q) s q p 0x03) ∧
    (p.cmd = 2 → p.reserved = true → (p.w 1).testBit 8 = true → Rejects (.gatesOpen q) s q p 0x01) ∧
    (p.cmd = 2 → p.reserved = true → (p.w 1).testBit 8 = false → Rejects (.gatesClose q) s q p 0x01) ∧
    (p.cmd = 3 → p.reserved = true → Rejects (.arrive q) s q p 0x01) ∧
    (p.cmd = 9 → p.reserved = true → Rejects (.stamp q) s q p 0x01) ∧
    (p.cmd = 4 → p.reserved = false → p.w 1 = q → (s.queue q).cmpl.toNat < p.w 2 → Rejects (.waitq q) s q p 0x03) ∧
    (p.cmd = 3 → p.reserved = false →
      let r := s.region p.regionId
      let n := bits (p.w 1) 18 16
      let free : Prop := 96 ≤ p.regionId ∨ r.state = 0
      let bad : Prop := 4 < n ∨ (∃ j, n ≤ j ∧ j < 4 ∧ p.w (2 + j) ≠ 0) ∨ (¬ free ∧ r.roots.length ≤ bits (p.w 1) 15 8)
      (bad → Rejects (.arrive q) s q p 0x03) ∧ (¬ bad → free → Rejects (.arrive q) s q p 0x04)) ∧
    (p.cmd = 2 → p.reserved = false → (p.w 1).testBit 8 = true → s.loaded p.regionId = false → Rejects (.gatesOpen q) s q p 0x04) ∧
    (p.cmd = 2 → p.reserved = false → (p.w 1).testBit 8 = false → s.loaded p.regionId = false → Rejects (.gatesClose q) s q p 0x04)

/-- R20, R71, R72, R77, R79, R80, R82, R83. LOADW, SWAP and CANCEL, when the packet begins and no rule rejects it. LOADW of an image that reads and
passes R21 to R25, R131 and R132 loads its clusters and awaits every core's acknowledgement; a malformed one halts the queue, CODE 0x05. With image
VA 0 a loaded region forgets its cancelled jobs, drops what its gates hold and awaits every core; a swapped-out one is discarded. A SWAP
with room for the save evicts the victim and awaits every core. CANCEL tells every core of the region, or records the flush for a
swapped-out one; with CLR the job leaves the set, and no core refuses it any more. The model's choices: that last clause (assumption log,
entry 59); PHASE 1 and the core named by a malformed image's failure (entry 27); a discard writes RESTORED first (entry 31); LOADW, SWAP
and CANCEL act over the clusters of a die whose follower firmware has stopped (entry 80). A packet of the three that breaks one of R77,
R79 and R82, or has a reserved bit or word set, begins not, and its queue halts with the first code that applies: 0x01, 0x03, 0x04,
0x0A, 0x08. -/
def Obligations.RegionCommandsTakeEffect : Prop :=
  (∀ (s : State) (q : Nat) (p : Packet), Begun s q p →
    let u := s.start q p
    let v := u.modExec q fun e => { e with phase := 1 }
    let i := p.regionId
    let r := s.region i
    let asid := bits (p.w 5) 15 0
    let job := bits (p.w 1) 31 16
    let vic := u.region p.victim
    let inc := u.region p.incoming
    (p.cmd = 1 → p.image ≠ 0 → i ≤ 95 → p.clusters ≠ 0 → bits (p.w 3) 63 32 = 0 → r.state = 0 → s.taken p.clusters = false →
      s.fw.fenced &&& p.clusters = 0 →
      let x := v.readImage q asid p.image (setBits 96 p.clusters)
      (∀ w, x.2 = .ok w → exec (.loadw q) s =
        .next (((((x.1.freeJobs i).loadRegion i p.clusters asid p.image w q p.seq).clearTrees i).llBeginAll i).modExec q fun e =>
          { e with phase := 2, await := w.places.map (·.1) })) ∧
      ∀ c, x.2 = .error (.malformed c) → exec (.loadw q) s = .next (x.1.failPacket q 0x05 1 c 0)) ∧
    (p.cmd = 1 → p.image = 0 → i ≤ 95 → r.state = 1 → r.gates = false → exec (.loadwUnload q) s =
      .next (((u.setRegion i { u.region i with cjobs := [] }).dropIngress i).modExec q fun e =>
        { e with phase := 2, await := r.cores })) ∧
    (p.cmd = 1 → p.image = 0 → i ≤ 95 → r.state = 2 → ∀ sv, r.save = some sv →
      let x := v.packetStore q r.asid (sv.va + 120) (natLE 8 (sv.commitWord true))
      ∀ done, x.2 = .ok done → exec (.loadwUnload q) s = .next ((x.1.discardRegion i (u.region i) sv).packetDone q) ∧
        (x.1.discardRegion i (u.region i) sv).region i = { llwin := r.llwin }) ∧
    (p.cmd = 6 → p.w 1 ≠ 0 → p.w 6 = 0 → p.w 4 % 4096 = 0 → p.w 5 % 4096 = 0 → s.loaded p.victim = true → p.incoming ≤ 95 →
      (s.region p.incoming).state = 0 → u.saveShort p = false →
      let x := v.readImage q (bits (p.w 3) 15 0) p.image vic.clusterList
      ∀ w, x.2 = .ok w → exec (.swap q) s = .next ((x.1.setRegion p.incoming {
        state := 1, clusters := vic.clusters, asid := bits (p.w 3) 15 0, image := p.image, llwin := 2 ^ 20, weave := w
        roots := w.roots.map fun _ => 0, busy := some q }).swapBegin q p vic.cores)) ∧
    (p.cmd = 6 → p.w 1 = 0 → p.w 6 ≠ 0 → p.w 6 % 4096 = 0 → p.w 4 % 4096 = 0 → p.w 5 % 4096 = 0 → p.incoming ≤ 95 →
      (s.region p.incoming).state = 2 →
      (∃ sv, (s.region p.incoming).save = some sv ∧ sv.committed = true ∧ sv.va = p.w 6) →
      (s.loaded p.victim = true ∧ (s.region p.incoming).clusters = (s.region p.victim).clusters ∨
        p.victim = 0xFF ∧ p.w 4 = 0 ∧ p.w 5 = 0 ∧ s.taken (s.region p.incoming).clusters = false ∧
          s.fw.fenced &&& (s.region p.incoming).clusters = 0) →
      let x := v.packetRead q inc.asid (p.w 6) 128
      ∀ bs, x.2 = .ok bs →
        (headerMatches p.incoming bs = true → x.1.saveShort p = false →
          exec (.swapRestore q) s = .next (x.1.swapBegin q p inc.cores)) ∧
        (headerMatches p.incoming bs = false → exec (.swapRestore q) s = .next (x.1.failPacket q 0x04 0 0 0))) ∧
    (p.cmd = 7 → i ≤ 95 → job ≠ 0 → (p.w 1).testBit 32 = false → r.state = 1 → (job ∈ r.cjobs ∨ r.cjobs.length < 16) →
      ∃ t, exec (.cancel q) s = .next t ∧ job ∈ (t.region i).cjobs ∧ Executes t q p false ∧
        t.msgs = s.msgs ++ r.cores.map (fun c =>
          { src := .frontEnd, dst := .core c, chan := .signal, body := .cancel i job, region := some i }) ∧
        (t.region i).cancels = r.cancels ++ [{ job := job, await := r.cores, queue := some q }]) ∧
    (p.cmd = 7 → i ≤ 95 → job ≠ 0 → (p.w 1).testBit 32 = false → r.state = 2 → (job ∈ r.cjobs ∨ r.cjobs.length < 16) →
      ∀ sv, r.save = some sv → ∃ t, exec (.cancel q) s = .next t ∧ job ∈ (t.region i).cjobs ∧ Executes t q p true ∧ t.msgs = s.msgs ∧
        (t.region i).save = some { sv with cancels := sv.cancels ++ r.cores.map fun c => (c, job) }) ∧
    (p.cmd = 7 → i ≤ 95 → job ≠ 0 → (p.w 1).testBit 32 = true → r.state ≠ 0 →
      ∃ t, exec (.cancelClr q) s = .next t ∧ (t.region i).cjobs = r.cjobs.filter (· != job) ∧ Executes t q p true ∧ t.msgs = s.msgs ∧
        ∀ c ∈ r.cores, s.regionOf c = some i → job ∉ (t.core c).fe.cancelled)) ∧
  ∀ (s : State) (q : Nat) (p : Packet), Begins s q p →
    let i := p.regionId
    let r := s.region i
    let inc := s.region p.incoming
    let loadw := if p.image = 0 then Instr.loadwUnload q else .loadw q
    let swap := if p.restores then Instr.swapRestore q else .swap q
    let clr := (p.w 1).testBit 32
    let cancel := if clr then Instr.cancelClr q else .cancel q
    (p.reserved = true → (p.cmd = 1 → Rejects loadw s q p 0x01) ∧ (p.cmd = 6 → Rejects swap s q p 0x01) ∧
      (p.cmd = 7 → Rejects cancel s q p 0x01)) ∧
    (p.reserved = false →
      (p.cmd = 1 → p.image ≠ 0 →
        let range : Prop := 95 < i ∨ p.clusters = 0 ∨ bits (p.w 3) 63 32 ≠ 0
        let used : Prop := r.state ≠ 0 ∨ s.taken p.clusters = true
        (range → Rejects loadw s q p 0x03) ∧ (¬ range → used → Rejects loadw s q p 0x04) ∧
        (¬ range → ¬ used → s.fw.fenced &&& p.clusters ≠ 0 → Rejects loadw s q p 0x0A)) ∧
      (p.cmd = 1 → p.image = 0 → (95 < i ∨ r.state = 0 ∨ r.state = 1 ∧ r.gates = true) → Rejects loadw s q p 0x04) ∧
      (p.cmd = 6 →
        let range : Prop := (p.w 1 = 0 ∧ p.w 6 = 0) ∨ (p.w 1 ≠ 0 ∧ p.w 6 ≠ 0) ∨
          p.w 4 % 4096 ≠ 0 ∨ p.w 5 % 4096 ≠ 0 ∨ p.w 6 % 4096 ≠ 0 ∨ (95 < p.victim ∧ p.victim ≠ 0xFF) ∨ 95 < p.incoming ∨
          (p.victim = 0xFF ∧ (p.w 1 ≠ 0 ∨ p.w 4 ≠ 0 ∨ p.w 5 ≠ 0))
        let wrong : Prop := (p.victim ≠ 0xFF ∧ s.loaded p.victim = false) ∨ (p.w 1 ≠ 0 ∧ inc.state ≠ 0) ∨
          (p.w 1 = 0 ∧ ((∀ v, inc.save = some v → ¬ (v.committed = true ∧ v.va = p.w 6 ∧ inc.state = 2)) ∨
            (p.victim ≠ 0xFF ∧ inc.clusters ≠ (s.region p.victim).clusters) ∨ (p.victim = 0xFF ∧ s.taken inc.clusters = true)))
        (range → Rejects swap s q p 0x03) ∧ (¬ range → wrong → Rejects swap s q p 0x04) ∧
        (¬ range → ¬ wrong → p.victim = 0xFF → s.fw.fenced &&& inc.clusters ≠ 0 → Rejects swap s q p 0x0A)) ∧
      (p.cmd = 7 →
        let job := bits (p.w 1) 31 16
        let range : Prop := job = 0 ∨ 95 < i
        (range → Rejects cancel s q p 0x03) ∧ (¬ range → r.state = 0 → Rejects cancel s q p 0x04) ∧
        (¬ range → r.state ≠ 0 → clr = false → job ∉ r.cjobs → 16 ≤ r.cjobs.length → Rejects cancel s q p 0x08)))

/-- R15 to R17, R62, R74, R77, R87 to R89, R447. For an enabled queue under a leader, a header with the number that the queue awaits is accepted, and
only such a one; a slot that cannot be read halts the queue with CODE 0x06. A packet that has come to the point that R77 states for its
command is counted in QCMPL, and the next one's wait begins; a packet that has waited 200 µs becomes urgent. The leader renews its
lease; a follower whose firmware runs takes a lapsed one with a new EPOCH, resets the queue table when it is the first, and goes on from
what its predecessor left otherwise. An access of the host within a line goes to its slice through the window that holds it, or is
logged in the error word. The model's choices: all eight words are taken at acceptance (assumption log, entry 63); an unreadable slot
overwrites QERR of a queue that is halted already (entry 64); each die keeps the EPOCH of the lease it took last (entry 29). -/
def Obligations.PacketsAndLeaseAdvance : Prop :=
  ∀ (s : State),
    (∀ q : Nat,
      let h := s.queue q
      (s.leads = true → h.en = true → h.unread = false →
        let x := s.gRead h.asid.toNat (h.slotVa h.seq.toNat) 64 { turn := true, front := true, own := true }
        (x.2 = .error .busy → exec (.packetAccept q) s = .next s) ∧
        (∀ bs, x.2 = .ok bs →
          let p : Packet := { words := wordsOf bs, since := x.1.cycles }
          let u := (x.1.unpush q p.seq).setQueue q { h with accepted := h.accepted ++ [p], seq := h.seq + 1 }
          (p.seq ≠ h.seq.toNat → exec (.packetAccept q) s = .next x.1) ∧
          (p.seq = h.seq.toNat → h.outstanding < h.size.toNat → exec (.packetAccept q) s =
            .next (if h.waits && decide (h.accepted.length < 8) then u.stageImage q p else u))) ∧
        ∀ e, x.2 = .error e → e ≠ .busy → exec (.packetAccept q) s =
          .next (x.1.setQueue q { h with halt := true, err := qerr h.seq.toNat 0x06 0 0 e.frontCause })) ∧
      (∀ e, h.exec = some e → s.leads = true → e.again = false → s.finished q e = true →
        let u := s.completePacket q
        ((e.pkt.cmd ≠ 1 ∨ e.pkt.image ≠ 0 ∨ e.done = true) →
          exec (.packetComplete q) s = .next (if e.pkt.cmd = 4 then u.unstage else u) ∧
          (u.queue q).cmpl = h.cmpl + 1 ∧ (u.queue q).exec = none ∧ (u.queue q).accepted.length = h.accepted.length ∧
          (∀ p ps, h.accepted = p :: ps → (u.queue q).accepted = { p with since := s.cycles } :: ps) ∧ u.cores = s.cores) ∧
        (e.pkt.cmd = 1 → e.pkt.image = 0 → e.done = false →
          exec (.packetComplete q) s = .next ((s.freeRegion e.pkt.regionId).completePacket q))) ∧
      (∀ p ps, h.exec = none → h.accepted = p :: ps → p.since + 800000 ≤ s.cycles →
        exec (.packetAging q) s = .next (s.setQueue q { h with accepted := { p with urgent := true } :: ps }))) ∧
    (∀ die : Nat,
      let expiry : BitVec 48 := BitVec.ofNat 48 (s.fetime die + 4000000)
      let f := { s.fw with holder := BitVec.ofNat 2 die, epoch := s.fw.epoch + 1, ready := true, expiry := expiry }
      let u := { s with fw := f }.setDie die { s.die die with fwEpoch := s.fw.epoch + 1 }
      (s.fw.ready = true → s.fw.holder.toNat = die → s.fwRuns die = true →
        s.reached die (s.fw.expiry.toNat + 2 ^ 48 - 3000000) = true →
        exec (.leaseRenew die) s = .next { s with fw := { s.fw with expiry := expiry } }) ∧
      (s.fwRuns die = true → s.reached die s.fw.expiry.toNat = true → s.startedUp = true →
        (s.fw.ready = false → exec (.leaseCheck die) s = .next { u with queues := [] }) ∧
        (s.fw.ready = true → s.fw.holder.toNat ≠ die →
          exec (.leaseCheck die) s = .next ((s.queues.map (·.1)).foldl State.takeOver u)))) ∧
    ∀ (write : Bool) (addr : Nat) (bs : List Byte), bs ≠ [] → addr % 64 + bs.length ≤ 64 →
      let w := findWindow s.port.inWin (fun w => bits w.w0.toNat 63 12 * 4096) addr
      (∀ win, w = some win →
        let va := bits win.w1.toNat 47 0 + addr % winSize win
        let asid := bits win.w2.toNat 15 0
        (write = true → ∀ e ∈ s.queues, e.2.early asid va bs = false) →
        exec (.hostWindowAccess write addr bs) s = .next { s with
          port := { s.port with issued := s.port.issued + 1 }
          msgs := s.msgs ++ [{
            src := .host, dst := .slice (homeSlice va), chan := .request
            body := .access {
              kind := if write then .hostWrite else .hostRead
              core := 0xFFF, va := va, size := bs.length, asid := asid, data := if write then bs else [], tag := s.port.issued } }] }) ∧
      (w = none → write = true → exec (.hostWindowAccess write addr bs) s = .next (s.logError 1 addr)) ∧
      (w = none → write = false → exec (.hostWindowAccess write addr bs) s =
        .next ((s.logError 1 addr).hostAnswer (List.replicate bs.length 0xFF)))

/-- R65 to R67, R69, R70, R73, R92. The leader answers each request of the debug service that finds no other waiting: a read with the word
at its address or STATUS 2, and no other change; a write with the STATUS that its address and value give; the enables, the windows, the
error word and the resumptions of a queue take effect, a resumption of a queue that is not halted as a write without one; a change of ASID
while the queue is enabled or executes a packet, and a write of its ring, size, priority, number or count then, is refused with STATUS 1 and
changes nothing; ACT = 11 and a reserved bit of QCTL are answered with STATUS 3. An attestation carries the signed report. With no leader
the request waits. The model's choices: for a write that two of these refuse, STATUS 3 stands before 1 (assumption log, entry 88); STATUS 5
for a nonzero reserved bit of an attestation's word 1, and a free value for what has no layout (entry 34). -/
def Obligations.DebugServiceAnswers : Prop :=
  ∀ (s : State) (tag : BitVec 8),
    let w0 (op : Nat) : Nat := op * 2 ^ 60 + tag.toNat * 2 ^ 52
    (s.leads = false → ∀ saddr : BitVec 48, exec (.debugRead tag saddr) s = .next { s with
      port := { s.port with pending := s.port.pending ++ [[BitVec.ofNat 64 (w0 1 + saddr.toNat), 0, 0, 0, 0, 0]] } }) ∧
    (s.leads = true → s.port.pending = [] →
      (∀ saddr : BitVec 48,
        (∀ v, s.readAddr saddr.toNat = .word v → exec (.debugRead tag saddr) s = .next (Answers s 1 tag 0 v)) ∧
        (s.readAddr saddr.toNat = .absent → exec (.debugRead tag saddr) s = .next (Answers s 1 tag 2 0)) ∧
        (s.readAddr saddr.toNat = .open_ →
          ∃ v, exec (.debugRead tag saddr) s = .next (Answers { s with draws := s.draws + 1 } 1 tag 0 v))) ∧
      (∀ (saddr : BitVec 48) (data : BitVec 64),
        let x := s.writeAddr saddr.toNat data.toNat
        exec (.debugWrite tag saddr data) s = .next (Answers x.1 2 tag x.2 0) ∧
        (s.readAddr saddr.toNat = .absent → exec (.debugWrite tag saddr data) s = .next (Answers s 2 tag 2 0))) ∧
      (∀ (out : Bool) (i n : Nat) (data : BitVec 64), i < 64 → n < 3 →
        let saddr : BitVec 48 := BitVec.ofNat 48 (7 * 2 ^ 44 + (if out then 2 ^ 14 else 0) + i * 2 ^ 8 + n)
        let ws := if out then s.port.outWin else s.port.inWin
        let w := (Sparse.get {} ws i).put n data.toNat
        let ws' := Sparse.set {} ws i w
        (w.ok out = true → exec (.windowWrite tag saddr data) s = .next (Answers
          { s with port := if out then { s.port with outWin := ws' } else { s.port with inWin := ws' } } 2 tag 0 0)) ∧
        (w.ok out = false → exec (.windowWrite tag saddr data) s = .next (Answers s 2 tag 3 0))) ∧
      (exec (.errorWordClear tag 0) s = .next (Answers { s with port := { s.port with err := 0 } } 2 tag 0 0)) ∧
      (∀ data : BitVec 64, data ≠ 0 → exec (.errorWordClear tag data) s = .next (Answers s 2 tag 3 0)) ∧
      (∀ (q : Nat) (data : BitVec 64), q < 4096 → data.extractLsb' 32 32 = 0 → data.extractLsb' 4 12 = 0 →
        let h := s.queue q
        let asid : BitVec 16 := data.extractLsb' 16 16
        let en := data.getLsbD 0
        let changed : HQueue := { h with asid := asid, en := en }
        (asid = h.asid ∨ h.en = false ∧ h.exec = none) →
        (data.extractLsb' 2 2 = 0#2 → exec (.qctlEnable tag q data) s = .next (Answers (s.setQueue q changed) 2 tag 0 0)) ∧
        (data.extractLsb' 2 2 = 1#2 → h.halt = true → ∃ t, exec (.qctlResumeRetry tag q data) s = .next (Answers t 2 tag 0 0) ∧
          t.queue q = { changed with halt := false } ∧ t = { s with queues := t.queues }) ∧
        (data.extractLsb' 2 2 = 2#2 → h.halt = true → ∃ t, exec (.qctlResumeSkip tag q data) s = .next (Answers t 2 tag 0 0) ∧
          t = { s with queues := t.queues } ∧ (t.queue q).halt = false ∧ (t.queue q).cmpl = h.cmpl + 1 ∧
          (h.unread = true → (t.queue q).seq = h.seq + 1 ∧ (t.queue q).accepted = h.accepted) ∧
          (h.unread = false → (t.queue q).seq = h.seq ∧
            (t.queue q).accepted.map (·.words) = (h.accepted.drop 1).map (·.words)))) ∧
      (∀ (q : Nat) (data : BitVec 64), q < 4096 →
        let h := s.queue q
        let act := data.extractLsb' 2 2
        let saddr (n : Nat) : BitVec 48 := BitVec.ofNat 48 (q * 2 ^ 32 + n)
        let ill : Prop := data.extractLsb' 32 32 ≠ 0 ∨ data.extractLsb' 4 12 ≠ 0
        let row (st : Nat) (t : State) : Prop :=
          (act = 0#2 → exec (.qctlEnable tag q data) s = .next (Answers t 2 tag st 0)) ∧
          (act = 1#2 → exec (.qctlResumeRetry tag q data) s = .next (Answers t 2 tag st 0)) ∧
          (act = 2#2 → exec (.qctlResumeSkip tag q data) s = .next (Answers t 2 tag st 0)) ∧
          exec (.debugWrite tag (saddr 6) data) s = .next (Answers t 2 tag st 0)
        let busy : Prop := h.en = true ∨ h.exec ≠ none
        ((ill ∨ act = 3#2) → row 3 s) ∧
        (¬ ill → act ≠ 3#2 → data.extractLsb' 16 16 ≠ h.asid → busy → row 1 s) ∧
        (¬ ill → (act = 1#2 ∨ act = 2#2) → (data.extractLsb' 16 16 = h.asid ∨ ¬ busy) → h.halt = false →
          row 0 (s.setQueue q { h with asid := data.extractLsb' 16 16, en := data.getLsbD 0 })) ∧
        (busy → ∀ n, (n = 0 ∧ data.toNat < 2 ^ 48 ∧ data.toNat % 4096 = 0) ∨ (n = 1 ∧ ∃ e, 4 ≤ e ∧ e ≤ 12 ∧ data.toNat = 2 ^ e) ∨ (n = 2 ∧ data.toNat < 4) ∨
            (n = 3 ∧ data.toNat < 2 ^ 16) ∨ n = 5 →
          exec (.debugWrite tag (saddr n) data) s = .next (Answers s 2 tag 1 0))) ∧
      (∀ (data : BitVec 64) (nonce : BitVec 256),
        (data.extractLsb' 8 56 = 0 → exec (.debugAttest tag data nonce) s = .next { s with port := { s.port with
          replies := s.port.replies ++ [[BitVec.ofNat 64 (w0 3), 0, 0, 0] ++
            (wordsOf (s.report data.toNat nonce)).map (BitVec.ofNat 64)] } }) ∧
        (data.extractLsb' 8 56 ≠ 0 → exec (.debugAttest tag data nonce) s = .next (Answers s 3 tag 5 0))))

/-- R63, R86, R89, R90, R94, R330, R331, R351, R354, R356, R420, R440. Power-on reset, by itself or asked for over I3C, leaves the reset state but for HBM's
contents, the boot flash, the host's memory and what was sent; a boot ROM starts verified firmware in its private SRAM and fences the
die where it is not verified; stacks train and clusters power up in their order and time; firmware loads keys and configures slices; the
I3C items, the address and the alarm act; a fenced cluster takes no placement; an access to a block claims it; a struck word or line is
corrected, or found bad when it is read. The model's choices: how a struck place is numbered, and that a controller leaves an
uncorrectable error to the next reader (assumption log, entry 9); what power-on keeps (entry 32); when keys and configurations are taken
(entry 33); the numbers of the I3C items (entry 34); the firmware core, its SRAM and its pc (entry 61). -/
def Obligations.StartUpAndBoardActs : Prop :=
  ∀ s : State,
    (∀ i, i = Instr.powerOnReset ∨ i = Instr.i3cResetRequest → ∃ t, exec i s = .next t ∧
      t.queues = [] ∧ t.regions = [] ∧ t.cores = [] ∧ t.clusters = [] ∧ t.slices = [] ∧ t.msgs = [] ∧ t.links = [] ∧ t.syncs = [] ∧
      t.cycles = 0 ∧ t.port.inWin = [] ∧ t.port.outWin = [] ∧ t.port.err = 0 ∧ t.port.hostMem = s.port.hostMem ∧
      t.port.replies = s.port.replies ∧ t.fw = { boots := s.fw.boots + 1 } ∧ t.mem.keys = [] ∧
      (∀ d, d < 4 → t.die d = { flash := (s.die d).flash }) ∧
      (∀ pa, Sparse.wf 0 s.mem.cells = true → t.mem.byte pa = if pa < 0xC000000000 then s.mem.byte pa else 0)) ∧
    (∀ die, (s.die die).boot = 0 →
      let d := s.die die
      (d.flash.verified die = true → exec (.bootVerify die) s = .next (s.startFirmware die) ∧
        (s.startFirmware die).die die = { d with boot := 1, firmware := d.flash.image } ∧
        ((s.startFirmware die).core (fwCore die)).pl.sup = true ∧ ((s.startFirmware die).core (fwCore die)).pl.pc = 0 ∧
        ∀ a, a < 0x40000 → ((s.startFirmware die).core (fwCore die)).scr.byte a = d.flash.image.getD a 0) ∧
      (d.flash.verified die = false → exec (.bootVerify die) s =
        .next ({ s with fw := { s.fw with fenced := s.fw.fenced ||| dieClusters die } }.setDie die { d with boot := 2 }))) ∧
    (∀ stack, s.fw.trained = stack → Sparse.wf false s.mem.empty = true → ∃ t, exec (.hbmTraining stack) s = .next t ∧
      t.fw = { s.fw with trained := stack + 1 } ∧ t.mem.cells = s.mem.cells ∧ t.cores = s.cores ∧
      ∀ line, Sparse.get false t.mem.empty line =
        if line < 0xC000000000 / 64 ∧ line / 4 % 12 = stack then false else Sparse.get false s.mem.empty line) ∧
    (∀ cl, s.fw.powered = cl → 120000000 + 20000 * cl ≤ s.cycles →
      exec (.clusterPowerUp cl) s = .next { s with fw := { s.fw with powered := cl + 1 } }) ∧
    (∀ die id pair, s.fwRuns die = true → exec (.keyLoad die id pair) s =
      .next { s with mem := { s.mem with keys := Sparse.set none s.mem.keys (256 * die + id) (some (.loaded pair)) } }) ∧
    (∀ (h : Nat) (data : BitVec 64), (∀ r ∈ s.regions, r.2.state ≠ 1) → s.fwRuns (h / 64) = true → data.extractLsb' 48 16 = 0 →
      data.extractLsb' 0 12 = 0 →
      let l := s.slice h
      let u := s.setSlice h { l with config := data }
      exec (.sliceConfigurationWrite h data) s = .next (u.shrink h l.lines.length) ∧
        (l.lines.length ≤ (u.slice h).capacity → u.shrink h l.lines.length = u)) ∧
    (∀ d, d < 4 →
      exec (.i3cRead d) s = .next (s.i3cAnswer (s.die d).temp) ∧
      exec (.i3cRead (4 + d)) s = .next (s.i3cAnswer (s.die d).power) ∧
      exec (.i3cRead (8 + d)) s = .next (s.i3cAnswer (Config.code 0 (s.die d).boot))) ∧
    exec (.i3cRead 12) s = .next (s.i3cAnswer (BitVec.ofNat 64 s.fw.fenced)) ∧
    exec (.i3cRead 13) s = .next (s.i3cAnswer (BitVec.ofNat 64 (s.fw.fenced / 2 ^ 64))) ∧
    exec (.i3cRead 14) s = .next (s.i3cAnswer (if s.fw.ready then 1 else 0)) ∧
    (∀ a : BitVec 7, exec (.i3cDynamicAddressAssignment a) s = .next { s with fw := { s.fw with i3cAddr := a } }) ∧
    (∀ die, exec (.thermalAlarm die) s = .next (s.setDie die { s.die die with alarm := true })) ∧
    (∀ cl,
      let u := { s with fw := { s.fw with fenced := s.fw.fenced ||| 2 ^ cl } }
      exec (.clusterFence cl) s = .next ((coresOf cl).foldl State.fenceCore u) ∧
        ((∀ c ∈ coresOf cl, (s.core c).pl.live = false) → (coresOf cl).foldl State.fenceCore u = u)) ∧
    (∀ c b, (s.regionOf c).isSome = true →
      exec (.blockClaim c b) s = .next (s.claimBlock c b) ∧ (NoSave s → s.claimBlock c b = s)) ∧
    (∀ loc c w, softLoc loc = .scratch c w →
      (∀ n, 0 < n → Sparse.get false (s.core c).scr.bad w = false → ∃ t, exec (.softError loc n) s = .next t ∧
        (∀ a, (t.core c).scr.byte a = (s.core c).scr.byte a) ∧
        Sparse.get false (t.core c).scr.bad w = (decide (2 ≤ n) || Sparse.get false (s.core c).scr.soft w) ∧
        Sparse.get false (t.core c).scr.soft w = !Sparse.get false (t.core c).scr.bad w) ∧
      (Sparse.get false (s.core c).scr.soft w = true → ∃ t, exec (.scrub loc) s = .next t ∧
        Sparse.get false (t.core c).scr.soft w = false ∧ (t.core c).scr.bad = (s.core c).scr.bad ∧
        (t.core c).scr.corrected = ((s.core c).scr.corrected + 1) % 2 ^ 32)) ∧
    (∀ loc line place n, softLoc loc = .memory line place → 0 < n → Sparse.get false s.mem.bad line = false →
      let e := Sparse.get 0 s.mem.soft line
      (∀ t, s.protection line = .sram t →
        exec (.softError loc n) s = .next { s with mem := s.mem.struck line (strikeWord e (place % 8) n) }) ∧
      (s.protection line = .hbm → exec (.softError loc n) s = .next { s with mem := s.mem.struck line (strikeSymbol e place n) }) ∧
      (s.protection line = .none → exec (.softError loc n) s = .next s)) ∧
    (∀ loc line place, softLoc loc = .memory line place → ∃ t, exec (.scrub loc) s = .next t ∧
      Sparse.get 0 t.mem.soft line = 0 ∧
      (Sparse.get false s.mem.bad line = false → t = s.correctLine line) ∧
      (Sparse.get false s.mem.bad line = true → (∃ h, s.protection line = .sram h) → t.poisoned line = true)) ∧
    (∀ loc h line w c, softLoc loc = .cached h line w → s.cline h line = some c →
      (c.bad = false → ∀ n, 0 < n → exec (.softError loc n) s = .next (s.setCline h line (some (match strikeWord c.soft w n with
        | some e => { c with soft := e }
        | none => { c with soft := 0, bad := true })))) ∧
      ∃ t, exec (.scrub loc) s = .next t ∧ t.poisoned line = (c.bad || s.poisoned line) ∧
        ∀ x, t.cline h line = some x → x.soft = 0 ∧ x.bad = c.bad)

/-! ### Cores, routers, engines, slices and shared units -/

/-- R41, R43, R44, R46, R49, R50, R58, R82, R138, R143, R144, R147, R156, R220, R294, R306, R404, R406. A message that is the next of its
channel acts on the core it has come to, in whose way nothing stands (no shutter, no halt, nothing held or pending): an arrival deposits and
decrements, is an orphan for a frame that is not live, or waits for one that is away; ARM writes the slot's word; FREE frees the frame, or
marks one that runs or is in transfer; a FORK or ROAM allocates its frame and answers or fires, a FORK without an index or a block waiting in
the backlog; an entry joins its queue, or is refused; a
steal takes the oldest entry; a cancel flushes the job and is acknowledged; a watermark report begins or ends the throttling of a region. -/
def Obligations.MessagesActAtTheirCore : Prop :=
  (∀ (s u : State) (k c : Nat) (m : Msg), Meets s k c m u →
    let x := u.core c
    let v := u.modCore c (·.modPl fun p => { p with waiti := false })
    let fix := handleFix m.handle
    let alive := x.live m.handle
    let st := (x.frame fix).st
    let y := match m.src with | .core z => v.absorb z c 1 | _ => v
    let source := match m.src with | .core z => z | _ => 0xFFF
    let quiet : Prop := x.net.region ≠ none ∧ x.fe.held = [] ∧ x.pl.halted = false ∧ x.sup.shtcmp = [] ∧ x.fe.pending = [] ∧
      x.fe.released = []
    let room : Prop := x.fe.backlog = [] ∧ x.wantFill = none ∧ x.fe.exhausted = false ∧ x.fe.closing = false
    (∀ a, m.body = .arrival a → a.scratch = [] → a.flags = 0 →
      (quiet → alive = true → st < 4 →
        let d := (v.deposit c fix a).decrement c fix a.slot a.n
        exec (.arrival k) s = .next ((d.1.countArrival c a).fireAll c d.2)) ∧
      (quiet → alive = false → exec (.arrival k) s = .next (v.dropArrival c a)) ∧
      (quiet → alive = true → 4 ≤ st →
        exec (.arrival k) s = .next ((v.setCore c ((v.core c).modFe fun f =>
          { f with pending := [if m.late then m else (v.core c).awaits m] })).startFill c fix)) ∧
      (x.net.region ≠ none → x.pl.halted = true → x.fe.closing = false → x.fe.held.length < 256 → ∃ t, exec (.arrival k) s = .next t ∧
        (t.core c).fe.held = x.fe.held ++ [(v.core c).awaits m] ∧ (t.core c).scr = x.scr ∧ (t.core c).fe.frames = x.fe.frames)) ∧
    (∀ h slot w, m.body = .arm h slot w → quiet →
      (alive = true → st < 4 → exec (.armMessage k) s = .next (y.scrWrite c (x.frameAddr fix + 4 * slot) (natLE 4 w))) ∧
      (alive = false → exec (.armMessage k) s = .next (y.modCore c (·.orphan source m.chan slot 1 h)))) ∧
    (∀ h, m.body = .free h → quiet →
      (alive = true → (st = 3 ∨ st = 4 ∨ st = 6) →
        exec (.freeMessage k) s = .next ((y.modCore c (·.modFrame fix fun e => { e with freeP := true })).drainPending c)) ∧
      (alive = true → st ≠ 3 → st ≠ 4 → st ≠ 6 → exec (.freeMessage k) s = .next ((y.freeFrame c fix false).drainPending c)) ∧
      (alive = false → exec (.freeMessage k) s = .next ((y.modCore c (·.orphan source m.chan 0 1 h)).drainPending c))) ∧
    (∀ r word tpl job, m.body = .fork r word tpl job → room →
      (u.jobCancelled c job = true → x.freeIndex ≠ none → x.freeBlock ≠ none →
        exec (.forkRequest k) s = .next (v.forkDone c r word 0 7)) ∧
      (x.freeIndex = none ∨ x.freeBlock = none →
        exec (.forkRequest k) s = .next (v.setCore c ((v.core c).modFe fun f => { f with backlog := [m] }))) ∧
      (u.jobCancelled c job = false → NoSave s → ∀ f b, x.freeIndex = some f → x.freeBlock = some b →
        ∃ t, exec (.forkRequest k) s = .next t ∧
          ((t.core c).frame f).st = 1 ∧ ((t.core c).frame f).tpl = tpl ∧ ((t.core c).frame f).job = job ∧
          ((t.core c).frame f).block = b ∧ ((t.core c).frame f).gen = (x.frame f).gen ∧
          t.msgs.getLast? = some { src := r.completer c, dst := .core (handleCore r.handle), chan := .signal, region := r.region
                                   body := .arrival { signalArrival r 0 0 0 with
                                     deposits := [(32 + 8 * word, mkHandle c f (x.frame f).gen)] } })) ∧
    (∀ regs tix job, m.body = .roam regs tix job → room → u.jobCancelled c job = false →
      let w := v.weaveOf c
      ∀ a f, v.allocFrame c (v.template c (w.dtpl tix)) (w.dtpl tix) job = some (a, f) →
        exec (.roamArrival k) s = .next ((a.draw.1.absorb source c 1).fireDirect c f { tix := tix, pri := a.draw.2 % 4, regs := regs })) ∧
    (∀ q e ctl stream r id, m.body = .enq q e ctl stream r id → x.net.region ≠ none →
      let l := x.lq q
      (l.entries.length < 16 → exec (.enqArrival k) s =
        .next (((v.modCore c (·.setLq q { l with entries := l.entries ++ [(e, ctl)] })).boundSlot c l.cfg).enqDone c stream r id 0 0)) ∧
      (16 ≤ l.entries.length → exec (.enqArrival k) s = .next (v.enqDone c stream r id 1 0))) ∧
    (∀ word r, m.body = .steal word r →
      let base := x.spr.dqbase.toNat
      let h := v.reach c base 16
      let n := (h.core c).dqCap
      let entry := (h.core c).dqEntry ((h.core c).dqTop % n)
      let z := h.reach c entry 16
      let answer (t : State) (w0 w1 m : Nat) : State :=
        t.sendArrival (r.completer c) { signalArrival r 0 0 m with deposits := [(32 + 8 * word, w0), (40 + 8 * word, w1)] }
      (x.dqCap = 0 → exec (.steal k) s = .next (answer v 0 0 0)) ∧
      (x.dqCap ≠ 0 → n = x.dqCap → (h.core c).spr.dqbase = x.spr.dqbase → (h.core c).dqHeadBad = false →
        ((h.core c).dqCnt = 0 → exec (.steal k) s = .next (answer h 0 0 0)) ∧
        ((h.core c).dqCnt ≠ 0 → (z.core c).dqEntryBad ((h.core c).dqTop % n) = false →
          let w := (z.scrWrite c base (natLE 4 (((h.core c).dqTop + 1) % n))).scrWrite c (base + 8) (natLE 4 ((h.core c).dqCnt - 1))
          exec (.steal k) s = .next (answer w ((w.core c).scr.readN entry 8) ((w.core c).scr.readN (entry + 8) 8) 1))))) ∧
  (∀ (s u : State) (k c i job : Nat) (m : Msg), Arrives s k m u → m.dst = .core c → m.body = .cancel i job →
    (s.regionOf c = some i → exec (.cancelAcknowledge k) s =
      .next (((u.modCore c (·.modPl fun p => { p with waiti := false })).flushJob c job).ackCancel i c job)) ∧
    (s.regionOf c ≠ some i → exec (.cancelAcknowledge k) s = .next ((u.setRegion i { s.region i with
      save := (s.region i).save.map fun v => { v with cancels := v.cancels ++ [(c, job)] } }).ackCancel i c job))) ∧
  ∀ (s u : State) (k c i : Nat) (low : Bool) (m : Msg), Arrives s k m u → m.src = .core c → m.body = .watermark low →
    m.region = some i → (s.region i).state ≠ 0 → c ∈ (s.region i).cores →
    ∃ t, exec (.watermarkReport k) s = .next t ∧ (c ∈ (t.region i).throttle ↔ low = true) ∧
      (∀ d, d ≠ c → (d ∈ (t.region i).throttle ↔ d ∈ (s.region i).throttle)) ∧ t.cores = s.cores ∧ t.queues = s.queues

/-- R34, R43, R44, R46, R49, R77, R80, R298 to R300, R302, R422, R426, R430, R441. What a core's frame engine and pipeline do between instructions: the
backlog, spills and fills; issue of the highest level's head, whose registers hold the frame's address and handle, and promotion;
the acknowledgement of an unload and of a load; the entry of a pre-emption and of a recorded trap; halt, go, step and release, in which, as
at a go of a core that runs, what the pending-arrival buffer has no room for stays released and is applied when it has. -/
def Obligations.CoresActBetweenInstructions : Prop :=
  ∀ (s : State) (c : Nat),
    let k := s.core c
    let freed := (s.wake c).modCore c (·.modFe fun f => { f with released := [], held := [] })
    let r := freed.enterList c (k.fe.released ++ k.fe.held.map fun m => { m with passed := true })
    let boundary : Prop := k.pl.pipe = .idle ∧ k.pl.sup = false ∧ (k.pl.halted = false ∨ k.pl.stepping = true) ∧ k.pl.preempt = false
    (k.fe.exhausted = false →
      (∀ fix, k.wantFill = some fix → exec (.backlogServe c) s = .next (s.startFill c fix)) ∧
      (k.wantFill = none → ∀ m ms, k.fe.backlog = m :: ms →
        ∀ t, (s.modCore c (·.modFe fun f => { f with backlog := ms })).spawn c m = some t →
          exec (.backlogServe c) s = .next (t.modCore c (·.modFe fun f =>
            { f with spilling := f.spilling && decide (48 < ms.length) })))) ∧
    (∀ fix, (k.frame fix).st = 4 →
      let w := s.gWrite k.net.asid (k.umbraVa (k.frame fix).umbra) (k.umbraRecord c fix) { turn := true, core := c, own := true }
      let u := (((w.1.modCore c (·.modFrame fix fun e => { e with st := 5 })).watermark c).settleFree c fix).drainPending c
      w.2 = .ok () → (u.core c).wantFill = none → (u.core c).fe.spilling = false → exec (.spillComplete c fix) s = .next u) ∧
    (∀ fix, (k.frame fix).st = 6 →
      let w := s.gRead k.net.asid (k.umbraVa (k.frame fix).umbra + 64) 256 { turn := true, core := c, own := true }
      ∀ bs, w.2 = .ok bs → exec (.fillComplete c fix) s = .next
        (((((w.1.scrWrite c (k.frameAddr fix) bs).modCore c (·.modFrame fix fun e => { e with st := 1, umbra := 0 })).settleFree c
          fix).drainPending c).releaseWaiting c)) ∧
    (boundary → k.net.traps = [] →
      let u := s.setCore c (k.modFe fun f => f.promoteDue s.cycles)
      ∀ lev e p, u.chooseFiring c [3, 2, 1, 0] = some (lev, e, p) →
        let addr := (u.core c).frameAddr e.fix
        let h := mkHandle c e.fix ((u.core c).frame e.fix).gen
        let f := (u.core c).firingOf e
        let v := (u.setCore c ((u.core c).modFe fun f => f.pop u.cycles lev p)).reach c addr 256
        exec (.firingIssue c) s = .next (u.startFiring c lev e p) ∧
        ((v.core c).scr.isBad addr 256 = false →
          let t := (u.startFiring c lev e p).core c
          t.pl.pipe = .run ∧ t.pl.live = true ∧ t.pl.sup = false ∧ t.pl.pc = (v.weaveOf c).entry f.1 ∧ t.pl.handle = h ∧
          t.pl.fix = e.fix ∧ t.pl.slot = e.slot ∧ (t.frame e.fix).st = 3 ∧ t.spr.prio = BitVec.ofNat 2 f.2.1 ∧
          (e.direct = false → t.readG 30 = BitVec.ofNat 64 addr ∧ t.readG 31 = BitVec.ofNat 64 h ∧
            ∀ n, n ≠ 30 → n ≠ 31 → t.readG n = 0))) ∧
    (∀ lev, exec (.promotion c lev) s = .next (s.modCore c (·.modFe (·.promoteDue s.cycles)))) ∧
    (k.fe.nextPromotion s.cycles = none → k.fe.promoteDue s.cycles = { k.fe with clock := s.cycles }) ∧
    (∀ at_ lev, k.fe.nextPromotion s.cycles = some (at_, lev) →
      let g := { k.fe.promote at_ lev with clock := at_ }
      lev < 3 ∧ ((k.fe.level (lev + 1)).prom).length < 64 ∧
      (∃ e, firstEligible at_ ((k.fe.level lev).reg ++ (k.fe.level lev).prom) = some e ∧ e.since + 4096 < at_ ∧
        (g.level (lev + 1)).prom = (k.fe.level (lev + 1)).prom ++ [{ e with since := at_, seq := k.fe.seq }] ∧
        ∀ x ∈ (g.level lev).prom, x.seq ≠ e.seq) ∧
      (g.nextPromotion s.cycles = none → k.fe.promoteDue s.cycles = { g with clock := s.cycles })) ∧
    (∀ q e, s.awaiting c (fun p => p.cmd == 1 && p.image == 0) = some (q, e) →
      exec (.unloadAcknowledge c) s = .next ((s.freeAll c).modExec q fun e => { e with await := e.await.filter (· != c) })) ∧
    (∀ q e, s.awaiting c (fun p => p.cmd == 6 || (p.cmd == 1 && p.image != 0)) = some (q, e) → e.again = false → e.parked = false →
      let u := (s.untouch c).modExec q fun e => { e with await := e.await.filter (· != c) }
      (e.pkt.cmd = 6 → exec (.loadAcknowledgement c) s = .next (s.swapAck q c e)) ∧
      (e.pkt.cmd ≠ 6 → e.await.length = 1 → exec (.loadAcknowledgement c) s = .next (u.packetDone q)) ∧
      (e.pkt.cmd ≠ 6 → e.await.length ≠ 1 → exec (.loadAcknowledgement c) s = .next u)) ∧
    (k.pl.preempt = true → k.pl.sup = false → k.pl.pipe ≠ .parked → ∃ t, exec (.preempt c) s = .next t ∧
      (t.core c).sup.ecause = 0 ∧ (t.core c).sup.etval = 0 ∧ (t.core c).pl.sup = true ∧ (t.core c).pl.pc = k.sup.evec.toNat ∧
      (t.core c).sup.epc = BitVec.ofNat 32 (if k.pl.live then k.pl.pc else 0) ∧ (t.core c).pl.preempt = false ∧
      (t.core c).regs = k.regs ∧ (t.core c).scr = k.scr ∧ t.msgs = s.msgs ∧ t.mem = s.mem) ∧
    (boundary → ∀ p ps, k.net.traps = p :: ps → ∃ t, exec (.recordedTrapEntry c) s = .next t ∧
      (t.core c).net.traps = ps ∧ (t.core c).sup.ecause = BitVec.ofNat 8 p.cause ∧ (t.core c).sup.etval = BitVec.ofNat 64 p.value ∧
      (t.core c).sup.epc = BitVec.ofNat 32 p.epc ∧ (t.core c).sup.estat.getLsbD 40 = true ∧ (t.core c).pl.sup = true ∧
      (t.core c).pl.pc = k.sup.evec.toNat ∧ (t.core c).regs = k.regs ∧ (t.core c).scr = k.scr) ∧
    ((k.pl.halted = false ∨ k.pl.stepping = true) → k.pl.sup = false → ∃ t, exec (.stepctlHalt c) s = .next t ∧
      (t.core c).pl.halted = true ∧ (t.core c).pl.stepping = false ∧ (t.core c).eng.stopped = true ∧ (t.core c).regs = k.regs ∧ (t.core c).pl.pc = k.pl.pc) ∧
    (k.pl.halted = false → k.pl.sup = true → ∃ t, exec (.stepctlHalt c) s = .next t ∧ (t.core c).pl.halted = false ∧
      (t.core c).pl.haltReq = true) ∧
    (k.pl.halted = false → exec (.stepctlGo c) s = exec (.stepctlRelh c) s) ∧
    (k.pl.halted = true → k.fe.held = [] → k.fe.released = [] → ∃ t, exec (.stepctlGo c) s = .next t ∧ (t.core c).pl.halted = false ∧
      (t.core c).pl.stepping = false ∧ (t.core c).eng.stopped = false ∧ (t.core c).regs = k.regs) ∧
    (k.pl.halted = true → k.pl.stepping = false → ∃ t, exec (.stepctlStep c) s = .next t ∧ (t.core c).pl.stepping = true ∧
      (t.core c).pl.halted = true ∧ (t.core c).eng.stopped = false ∧ (t.core c).regs = k.regs) ∧
    (k.fe.released ++ k.fe.held = [] → exec (.stepctlRelh c) s = .next freed) ∧
    (k.fe.released ++ k.fe.held ≠ [] →
      exec (.stepctlRelh c) s = .next (r.1.modCore c (·.modFe fun f => { f with released := r.2 ++ f.released }))) ∧
    ∀ m ms, (∀ t, s.enterNow c m = some t → s.enterList c (m :: ms) = t.enterList c ms) ∧
      (s.enterNow c m = none → s.enterList c (m :: ms) = (s, m :: ms))

/-- R228, R229, R400 to R402, R412. At a router: an entry that is written takes its words and forgets its rounds; a packet of a bound
input whose round has none from it joins the round, which goes on to its parent when its last input has delivered, and else is held for the
next round; for an input that is not bound a REDSEND completes with status 3, CAUSE 0x02, and its record, of SRC 8 and with the tree id for VALUE, as
the model chooses (assumption log, entry 49), and a child router's packet is counted; a round whose timer has run out ends with a timeout packet. -/
def Obligations.RoutersRunTheirTrees : Prop :=
  (∀ (s : State) (k cl id : Nat) (ws : List Nat) (m : Msg), s.atRouter k = some m → m.dst = .router cl → m.body = .treeEntry id ws →
    s.clusterRegion cl = m.region →
    ∃ t, exec (.treeEntryWrite k) s = .next t ∧ t.tree m.region cl id = some { words := ws } ∧ t.cores = s.cores ∧
      t.msgs = s.msgs.eraseIdx k) ∧
  (∀ (s : State) (k cl id : Nat) (p : RedPacket) (r : Option Ref) (m : Msg), s.atRouter k = some m → m.dst = .router cl →
    m.body = .contribution id p r →
    let g := m.region
    let u := s.dropMsg k
    let signed (t : State) : State := (match r with | some f => t.signal (.router cl) f 0 0 0 | none => t)
    (∀ t, u.tree g cl id = some t → t.inputs.testBit p.input = true → u.roundLate g cl t = false →
      (∀ q ∈ t.got, q.input ≠ p.input) →
      let x := t.take (u.timerStart g cl) false p
      (x.2 = none → exec (.reductionDelivery k) s = .next (signed (u.setTree g cl id x.1))) ∧
      ∀ y, x.2 = some y →
        exec (.reductionDelivery k) s = .next (signed (((u.setTree g cl id x.1).forwardRound g cl id x.1 y).nextRound g cl id 56))) ∧
    (∀ t, u.tree g cl id = some t → t.inputs.testBit p.input = true → u.roundLate g cl t = false →
      (∃ q ∈ t.got, q.input = p.input) → (∀ q ∈ t.next, q.input ≠ p.input) →
      exec (.reductionDelivery k) s = .next (signed (u.setTree g cl id { t with next := t.next ++ [p] }))) ∧
    ((∀ t, u.tree g cl id = some t → t.inputs.testBit p.input = false) →
      (r = none → exec (.reductionDelivery k) s = .next (u.stray cl)) ∧
      ∀ f, r = some f → exec (.reductionDelivery k) s =
        .next ((u.postFor f.region f.origin false 0x02 8 0 p.epc p.handle id (statusWord 3 0x02 0)).signal (.router cl) f 3 0x02 0))) ∧
  (∀ (t : Tree) (now : Nat) (p : RedPacket), p.tmo = none → t.got = [] →
    ((∀ i, t.inputs.testBit i = true → i < 28 → i = p.input) →
      (t.take now false p).2 = some (roundResult (inputOrder [p])) ∧ (t.take now false p).1.got = []) ∧
    ∀ i, t.inputs.testBit i = true → i < 28 → i ≠ p.input →
      (t.take now false p).2 = none ∧ (t.take now false p).1.got = [p] ∧ (t.take now false p).1.start = now) ∧
  ∀ (s : State) (cl id : Nat),
    let t := Sparse.get {} (s.cluster cl).trees id
    t.got ≠ [] → t.start + 2 * t.tmo ≤ s.cycles →
    exec (.reductionTimeout cl id) s = .next (s.failRound (s.clusterRegion cl) cl id t)

/-- R195, R214, R216, R236 to R238, R258 to R263, R266, R267, R269, R270, R272, R276, R277, R284, R291, R305, R318, R319. An engine goes
on with its operation. The tensor engine takes its first one: a TMMSP asks its Prism, TACZ clears its accumulator, a row whose sources are
full runs, one whose sources stay empty for 2^26 cycles ends with status 4. A row of TACLD, TACST, TCVT, TMMA or TADD computes and writes
the elements that its rule gives, and no other. The copy engine performs the next unit of the operation in turn, an old operation rising
one level; the vector engine the next group, and ends an operation whose elements are all written. A unit that ends makes the operation
that goes on, or ends it with status 0. A PUT to another part reads its pieces, in any order, and ends with its acknowledgement; a GET
places its pieces, in any order, once that has come, and the last ends it; either ends with status 4 where none comes in time. An ending
goes out with its signal, unless it waits in its engine, for a piece still parked, for room or behind an earlier one. The model's choices,
clause by clause: TACZ in the queue, and the row wait from the moment an operation is the queue's head (assumption log, entry 47);
`rests`, by which a beginning that only makes the plan is no unit and leaves the age as it is, and what a unit of COPY is (entry 40);
every clause of a transfer with another part: its pieces and their turns by PRIO and age, the acknowledgement's data, where the timeout
stands still (entry 41); that an ending waits in its engine (entry 84). A unit of a GET or PUT within the part is one piece of its chunk,
which crosses no line on either side; any of those left may be next. Its destination bytes become its source bytes, and no other byte of a
scratchpad or of a line changes. -/
def Obligations.EnginesGoOnWithTheirOperations : Prop :=
  ∀ (s : State) (c : Nat),
    let k := s.core c
    let rests (o x : EngOp) (now : Nat) : EngOp :=
      if o.sides = [] ∧ x.sides ≠ [] then x.rested else { x.rested with since := now, aged := false }
    (∀ o os, k.ops .tensor = o :: os → (k.eng.stopped = false ∨ o.live = true) → o.parked = false → o.waits = false →
      let b := if o.begun then o else { o with begun := true, since := s.cycles }
      (o.opc = 0xD6 → o.prism = 0 → exec (.tensorRow c) s = .next ((s.modCore c (·.setOp .tensor { o with prism := 1 })).send
        { src := .core c, dst := .prism (clusterOf c), chan := .request
          body := .prism { core := c, op := o.id, asid := o.asid, va := o.vb, epc := o.epc, handle := o.handle, ref := o.ref } })) ∧
      (o.opc = 0xD3 → ∃ t, exec (.tensorRow c) s = .next t ∧ (t.core c).acc o.d = {} ∧
        (t.core c).ops .tensor = (k.ops .tensor).filter (fun x => x.id != o.id) ∧ (t.core c).regs = k.regs ∧ t.mem = s.mem) ∧
      ((o.opc ≠ 0xD6 ∨ 2 ≤ o.prism) → b.reads = false → k.tensorReady b = false →
        exec (.tensorRow c) s = .next (s.modCore c (·.setOp .tensor b))) ∧
      ((o.opc ≠ 0xD6 ∨ 2 ≤ o.prism) → o.opc ≠ 0xD3 → (b.reads = true ∨ k.tensorReady b = true) → ∀ o' e t,
        (ExceptT.run (tensorStep c b)) { s := s, todo := b.memo } = (.ok (o', e), t) → exec (.tensorRow c) s = .next (match e with
          | none => t.s.modCore c (·.setOp .tensor (rests b o' t.s.cycles))
          | some (code, cause, prog) => t.s.endOp c .tensor o' code cause prog none)) ∧
      (k.eng.stopped = false → o.begun = true → o.reads = false → k.tensorReady o = false → o.since + 2 ^ 26 ≤ s.cycles →
        exec (.rowWaitTimeout c 0) s = .next (s.endOp c .tensor o 4 0 o.prog none))) ∧
    (∀ o, k.ops .copy = [o] → k.eng.stopped = false → o.parked = false → o.waits = false → o.live = false →
      (k.eng.remote.all fun x => x.steps s.fw.part == []) = true → ∀ o' n t, (ExceptT.run (copyUnit c o)) { s := s, todo := o.memo } = (.ok (o', n), t) → exec (.copyPiece c) s = .next (match o' with
        | some x => t.s.modCore c (·.setOp .copy (rests o x t.s.cycles))
        | none => t.s.endOp c .copy o 0 0 n none)) ∧
    (∀ o, o.memo = [] → NoSave s → (∀ q, (s.core q).scr.bad = []) → TensorRowValues s c o) ∧
    (∀ w, triOk w = true → triToInt w % 256 = w % 256 ∧ triToInt w % 255 = w / 2 ^ 8 % 2 ^ 8 ∧ triToInt w % 257 = w / 2 ^ 16 ∧
      -8388480 ≤ triToInt w ∧ triToInt w < 8388480) ∧
    (∀ l g n, CutsAtLines l g n (splitPieces l g (n / 32 + 3) 0 n)) ∧
    (∀ (o : EngOp) (rest : List (Nat × Nat)) (z p x n pa : Nat) (tl : Tlb) (d : Line) (f : Bool), o.opc = 0x7E ∨ o.opc = 0x7F → o.m = 0 →
      o.asid = k.net.asid → (o.rest ≠ [] → z = o.sub ∧ rest = o.rest) →
      (o.rest = [] → rest = splitPieces (o.vd + o.pos) (o.ea + o.pos) (z / 32 + 3) 0 z ∧
        (o.opc = 0x7E → z = min (o.vb - o.pos) (4096 - (o.vd + o.pos) % 4096)) ∧
        (o.opc = 0x7F → o.ea + o.pos < 2 ^ 48 ∧ ∃ tl pa d f, PieceGoes s c (o.ea + o.pos) .write tl pa d f ∧
          let page := 2 ^ (12 + 2 * (tl.leaf / 2 ^ 4 % 16))
          z = min (o.vb - o.pos) (page - (o.ea + o.pos) % page))) →
      rest[p]? = some (x, n) → 0 < n →
      let l := o.vd + o.pos + x
      let g := o.ea + o.pos + x
      l % 64 + n ≤ 64 → g % 64 + n ≤ 64 → g + n ≤ 2 ^ 48 → localRange l n = true → s.isConst c g n = false →
      PieceGoes s c g (if o.opc = 0x7E then .read else .write) tl pa d f →
        ∃ t, (ExceptT.run (copyUnit c o)) { s := s, pick := p } =
            (.ok (if rest.eraseIdx p ≠ [] then (some { o with rest := rest.eraseIdx p, sub := z }, 0)
              else if o.pos + z = o.vb then (none, o.vb) else (some { o with pos := o.pos + z, rest := [] }, 0)), t) ∧
          (o.opc = 0x7E → LocalWrote s t.s c l (bytesAt d (pa % 64) n) ∧ LineBecomes s t.s (homeSlice g) pa d f) ∧
          (o.opc = 0x7F → LocalWrote s t.s c l [] ∧
            ∃ d', LineWrote d d' (pa % 64) ((List.range n).map fun j => s.localByte c (l + j)) ∧
              LineBecomes s t.s (homeSlice g) pa d' f)) ∧
    (∀ n o, (k.ops .copy)[n]? = some o → o.since + 4096 ≤ s.cycles →
      exec (.copyAging c n) s = .next (s.modCore c (·.setOp .copy { o with aged := true }))) ∧
    (∀ now ops o, chooseOp now ops = some o → o ∈ ops ∧ o.parked = false ∧ o.waits = false ∧
      ∀ x ∈ ops, x.parked = false → x.waits = false → x.level now ≤ o.level now) ∧
    (∀ now ops o, copyNext now ops = some o → o ∈ ops ∧ o.parked = false ∧ o.waits = false ∧ o.live = false ∧
      ∀ x ∈ ops, x.parked = false → x.waits = false → (x.live && x.lastUnit) = false → x.level now ≤ o.level now) ∧
    (∀ o, k.ops .vector = [o] → k.eng.stopped = false → o.parked = false → o.waits = false → o.live = false →
      (o.streams.all fun e => e.2.2.kind != 1) = true →
      let turn (t : State) : State :=
        if ((t.core c).ops .vector).any (t.inGroup c) then t
        else t.modCore c (·.modEng fun e => { e with served := o.id })
      (o.td1 ≤ o.pos → exec (.streamGroup c) s = .next (turn (s.endOp c .vector o 0 0 o.streamProg none))) ∧
      (o.pos < o.td1 → o.last = false →
        let u := s.modCore c fun k => (k.setOp .vector o).syncStreams o
        ∀ o' n t, (ExceptT.run (streamUnit c o o.groupLen)) { s := u, todo := o.memo } = (.ok (some o', n), t) →
          exec (.streamGroup c) s = .next (turn (t.s.modCore c (·.setOp .vector (rests o o' t.s.cycles)))))) ∧
    ∀ n x, k.eng.remote[n]? = some x → x.fin = none →
      let signal_ (code cause prog : Nat) : Arrival := completion x.ref x.resumed code cause prog
      let ends (t : State) (code cause prog : Nat) : State := t.endRemote (t.regionOf c) c x code cause prog none
      (∀ t code cause prog,
        let waits : Prop := t.pieceParked (t.regionOf c) c .copy x.id = true ∨ t.waitsRoom c (signal_ code cause prog) none = true
        (¬ waits → ends t code cause prog =
          (t.modCore c (·.dropRemote x.id)).sendArrival (.engine c) (signal_ code cause prog)) ∧
        (waits → ∃ e : Ending, e.code = code ∧ e.cause = cause ∧ e.prog = prog ∧
          ends t code cause prog = t.modCore c (·.setRemote { x with fin := some e, order := none }))) ∧
      (x.acked = false →
        (x.since + s.fw.linkTimeout ≤ s.cycles → k.eng.stopped = false → exec (.remoteTimeout c n) s = .next (ends s 4 0 0)) ∧
        (∀ cause data, cause ≠ 0 → exec (.remoteAcknowledgement c n cause data) s = .next (ends s 3 cause.toNat 0)) ∧
        (x.get = false → x.todo = [] → (x.own s.fw.part = true → x.data = []) → ∀ data,
          exec (.remoteAcknowledgement c n 0 data) s = .next (ends s 0 0 x.prog)) ∧
        (x.get = true → x.own s.fw.part = false → ∀ data, data.length = x.bytes →
          exec (.remoteAcknowledgement c n 0 data) s = .next (s.modCore c (·.setRemote
            { x with acked := true, data := x.todo.map fun p => (p.2.1, (data.drop p.2.1).take p.2.2) })))) ∧
      let steps := x.steps s.fw.part
      (∀ q ∈ steps, x.fin = none ∧ ∀ r ∈ x.todo, x.unit q.2.2.1 q.2.2.2.1 ≤ x.unit r.1 r.2.1) ∧
      ∀ i half j l place len, steps[i]? = some (half, j, l, place, len) → x.own s.fw.part = false → k.eng.stopped = false →
        k.remoteWaits s.fw.part s.cycles x = false →
        let y := { x with todo := x.todo.eraseIdx j, served := s.cycles }
        x.todo[j]? = some (l, place, len) ∧
        (x.get = false → ∀ bs, (s.engLocal c l len).2 = .ok bs → s.remotePiece c n i =
          (s.engLocal c l len).1.modCore c (·.setRemote { y with data := x.data ++ [(place, bs)] })) ∧
        (x.get = true → x.acked = true ∧
          let z := s.engPut c l ((x.data.lookup place).getD [])
          (z.2 = .ok () →
            (y.todo ≠ [] → s.remotePiece c n i = z.1.modCore c (·.setRemote { y with order := none })) ∧
            (y.todo = [] → s.remotePiece c n i = ends z.1 0 0 x.prog)))

/-- R63, R194, R199 to R206, R209 to R211, R332, R334, R336, R338 to R341, R343, R344, R348, R359, R446. An access that reaches its home
slice and translates: with nothing to follow it is performed at its agent at once when its line is there, or else takes a miss register;
the line's arrival performs what waits for it in order; a held access is performed when it follows nothing any more; a parked LDF ends
after 2^24 slice cycles with status 4. A store's acknowledgement frees its journal entry, and its refusal posts the recorded trap 0x0B; a
watched page's generation advances before the write is answered; the host takes a write, or answers a read. An access performed leaves
exactly what its rule says: a store its bytes at the PA and no others, STF and FEOP the line's full/empty bit with them, AOP and ACAS what
the operation makes of the old value, which they return; a read returns the bytes that stand there; an LDF of an empty line is parked, and
reads it as the store that fills it left it. A translation is the cached leaf's, or what the entry says at which the walk ends: ABORT, not
valid, not permitted, malformed, beyond memory, or the page's PA with accessed and dirty set in the entry. That the class an access finds
is known at its core in the same step is the model's reading (assumption log, entry 35). -/
def Obligations.SlicesPerformAccesses : Prop :=
  (∀ (s u : State) (k h : Nat) (a : Access) (m : Msg), Arrives s k m u → m.dst = .slice h → m.body = .access a →
    (∀ i, a.kind ≠ .shape i) → a.kind ≠ .tlbi → s.hostWaits a = false →
      (∀ t, u.access h a = some t → exec (.globalAccess k) s = .next t) ∧
      (∀ n, (u.slice h).faultAt a.asid a.va = some n → u.access h a = u.joinFault h n (.access a)) ∧
      ((u.slice h).faultAt a.asid a.va = none → u.walkWaits h a.asid a.va a.kind.need a.viewer = true → exec (.globalAccess k) s = .next s) ∧
      ((u.slice h).faultAt a.asid a.va = none → u.walkWaits h a.asid a.va a.kind.need a.viewer = false →
        let x := u.gTrans a.asid a.va a.kind.need
        (∀ cause v, x.2 = .error (.cause cause v) → exec (.globalAccess k) s = .next (x.1.failAccess h a cause v)) ∧
        (∀ v, x.2 = .error (.abort v) → exec (.globalAccess k) s = .next (x.1.failAccess h a 0x13 v)) ∧
        ∀ pa leaf, x.2 = .ok (pa, leaf) →
          let t := if a.kind.lineOrdered then x.1.modOwner a.region a.core (·.orderClass a (leafOrd leaf) false) else x.1
          (x.1.paKind pa = .beyond → exec (.globalAccess k) s = .next (x.1.failAccess h a 0x05 pa)) ∧
          (x.1.mustHold h (x.1.slice h).held a leaf pa false = true → x.1.paKind pa = .hbm →
            exec (.globalAccess k) s = .next (t.setSlice h { t.slice h with held := (t.slice h).held ++ [(a, leaf, pa)] })) ∧
          (x.1.mustHold h (x.1.slice h).held a leaf pa false = false → x.1.paKind pa = .hbm → t.paKind pa = .hbm →
            ((t.slice h).misses.findIdx? fun e => e.1 == pa / 64) = none →
            ((t.cline h (pa / 64)).isSome = true → t.ldfWaits h a pa leaf = false →
              exec (.globalAccess k) s = .next (t.perform h a pa leaf)) ∧
            ((t.cline h (pa / 64)).isSome = false → (t.slice h).regsUsed < 64 → exec (.globalAccess k) s =
              .next (t.setSlice h { t.slice h with misses := (t.slice h).misses ++ [(pa / 64, [(a, leaf, pa)])] }))))) ∧
  (∀ (s : State) (h n line leaf pa : Nat) (a : Access) (as : List (Access × Nat × Nat)),
    (s.slice h).misses[n]? = some (line, (a, leaf, pa) :: as) →
    let u := s.setSlice h { s.slice h with misses := (s.slice h).misses.eraseIdx n }
    let v := (u.ensureLine h line (leafKey leaf) (if a.kind = AccKind.stn then 1 else a.th)).1
    let x := v.fillPerforms h ((a, leaf, pa) :: as)
    exec (.lineFill h n) s = .next { x.1 with msgs := x.2 ++ x.1.msgs } ∧
    (v.ldfWaits h a pa leaf = false → v.fillPerforms h ((a, leaf, pa) :: as) = (v.perform h a pa leaf).fillPerforms h as)) ∧
  (∀ (s : State) (h n leaf pa : Nat) (a : Access), (s.slice h).held[n]? = some (a, leaf, pa) →
    s.mustHold h ((s.slice h).held.take n) a leaf pa false = false → (∀ w, s.paKind pa ≠ .reply w) →
    ∀ t, (s.setSlice h { s.slice h with held := (s.slice h).held.eraseIdx n }).reachAgent h a pa leaf = some t →
      exec (.heldAccessRelease h n) s = .next t) ∧
  (∀ (s : State) (h n pa : Nat) (a : Access) (r : Ref), (s.slice h).ldf[n]? = some (a, pa) → a.since + 2 ^ 25 ≤ s.cycles →
    a.ref = some r → exec (.ldfTimeout h n) s =
      .next ((s.setSlice h { s.slice h with ldf := (s.slice h).ldf.eraseIdx n }).signal (.slice h) r 4 0 0)) ∧
  (∀ (s u : State) (k c e tag tid : Nat) (m : Msg), Arrives s k m u → m.dst = .core c → m.body = .storeAck e tag tid →
    let u := u.wakeOf m.region c
    exec (.storeAcknowledge k) s = .next ((u.modOwner m.region c fun w =>
        if (w.journal e).ord = tag then w.setJournal e {} else w).settleFences m.region c) ∧
    (s.regionOf c = m.region → ((s.core c).journal e).ord = tag →
      (((u.modOwner m.region c fun w => if (w.journal e).ord = tag then w.setJournal e {} else w).core c).journal e) = {})) ∧
  (∀ (s u : State) (k c e reason tag tid : Nat) (m : Msg) (w : Core), Arrives s k m u → m.dst = .core c →
    m.body = .storeRefusal e reason tag tid → (u.wakeOf m.region c).owner m.region c = some w → (w.journal e).ord = tag → (w.journal e).state = 1 →
    let j := { w.journal e with state := 2, reason := reason }
    exec (.storeRefusal k) s = .next ((((u.wakeOf m.region c).modOwner m.region c (·.setJournal e j)).postFor m.region c true 0x0B 6 e j.epc j.handle j.word0
      j.data).settleFences m.region c)) ∧
  (∀ (s u : State) (k h asid page size : Nat) (a : Access) (bs : List Byte) (m : Msg), Arrives s k m u → m.src = .slice h →
    m.body = .watchAdvance asid page size a bs → exec (.watchAdvance k) s = .next ((u.watchBump asid page size).answer h a bs)) ∧
  (∀ (s : State) (asid va : Nat) (need : Need) (l : Tlb), (s.slice (homeSlice va)).tlb.filter (·.covers asid va) = [l] → l.Serves need →
    s.gTrans asid va need = (s, .ok (l.leaf / 2 ^ 32 % 2 ^ 32 * 2 ^ 12 + va % 2 ^ (12 + 2 * l.size), l.leaf))) ∧
  (∀ (s : State) (asid va : Nat) (need : Need), (∀ l ∈ (s.slice (homeSlice va)).tlb, l.covers asid va = true → ¬ l.Serves need) →
    s.mem.soft = [] → s.mem.bad = [] → s.mem.poison = [] → TranslatesAsTheTableSays s asid va need) ∧
  (∀ (s : State) (pa : Nat), pa % 64 + 8 ≤ 64 →
    let bytes := some (leNat ((List.range 8).map fun j => s.mem.byte (pa + j)))
    (∀ g, s.paKind pa = .direct g → s.physRead pa 8 = bytes) ∧
    (s.paKind pa = .hbm → (∀ p, Sparse.get none s.mem.pairs (pa / 64) = some p → p = s.keyPair (pa / 256 % 12 / 3) 0) →
      s.physRead pa 8 = bytes) ∧
    (s.paKind pa = .beyond → s.physRead pa 8 = none)) ∧
  (∀ (s : State) (h pa leaf : Nat) (a : Access) (d : Line) (f : Bool), HoldsLine s h pa (leafKey leaf) d f →
    (a.kind ∈ [.post, .stn, .stf, .hostWrite] → a.data.length = a.size) → 0 < a.size → pa % 64 + a.size ≤ 64 → a.th ≠ 3 ∨ a.kind = .stn → s.isConst a.core a.va a.size = false →
      ActsOnLine s (s.perform h a pa leaf) h a pa leaf d f) ∧
  (∀ (s : State) (h g pa leaf : Nat) (a : Access), s.paKind pa = .direct g → s.unreadable (pa / 64) = false →
    Sparse.get 0 s.mem.soft (pa / 64) = 0 → s.cline h (pa / 64) = none →
    (a.kind ∈ [.post, .stn, .stf, .hostWrite] → a.data.length = a.size) → 0 < a.size → pa % 64 + a.size ≤ 64 →
    s.isConst a.core a.va a.size = false → ActsOnDirect s (s.perform h a pa leaf) h a pa leaf) ∧
  ∀ (s u : State) (k x : Nat) (write : Bool) (bs : List Byte) (a : Access) (m : Msg), Arrives s k m u →
    m.body = .hostMem write x bs (some a) →
    let v := { u with port := { u.port with hostMem := writeCells u.port.hostMem x bs } }
    (write = true → exec (.hostMemoryAcceptance k) s = .next (v.answerWrite (homeSlice a.va) a a.leaf [])) ∧
    (write = false → exec (.hostMemoryAcceptance k) s =
      .next (u.answer (homeSlice a.va) a (readCells u.port.hostMem x a.size)))

/-- R345, R346, R347, R387, R392, R407 to R411, R414 to R417. A fault record is filed in its ring and its slot is told; RESUME and ABORT
act on what the fault had parked, in its order, and the fault is outstanding no more. Prism looks an operation up, what earlier lookups
could not read before it, and compiles. Beacon opens, hands out and closes a job of the issuer's region, or refuses the query. The
detector samples the counts of a TERMW's cores and signals when they have stayed equal; a livelock window that saw refusals and nothing
taken posts the recorded trap 0x0D, and the next begins. The model's choices: a compile in two steps (assumption log, entry 48); the
record of a refused query (entry 50), and which later queries wait behind one that is parked (entry 14); one sample of a whole instance,
which signals all its TERMWs together (entry 51). -/
def Obligations.SharedUnitsServe : Prop :=
  (∀ (s u : State) (k c : Nat) (m : Msg), Meets s k c m u → ∀ asid va handle token core kind reason level entry,
    m.body = .faultRecord asid va handle token core kind reason level entry →
    let f := (u.wake c).service (token / 2 ^ 24) asid
    let ring := f.2.2.2
    let x := (u.wake c).reach c ring 32
    let head := (x.core c).scr.readN ring 4
    let place := ring + 32 + 32 * (head % 2 ^ f.2.2.1)
    let y := x.reach c place 32
    let w1 := token * 2 ^ 32 + coreId core * 2 ^ 20 + kind * 2 ^ 16 + reason * 2 ^ 12 + level * 2 ^ 10 + 1
    ((y.core c).scr.readN (place + 8) 1).testBit 0 = false → exec (.faultRecord k) s =
      .next (((y.scrWrite c place (natLE 8 (asid * 2 ^ 48 + va % 2 ^ 48) ++ natLE 8 w1 ++ natLE 8 (handle % 2 ^ 32) ++
          natLE 8 entry)).scrWrite c ring (natLE 4 (head + 1))).sendArrival (.slice (token / 2 ^ 24))
        { handle := f.1, slot := f.2.1, n := 1, chan := .signal, region := m.region })) ∧
  (∀ (s u : State) (k h word : Nat) (a : Access) (m : Msg) (x : TFault), Arrives s k m u → m.dst = .slice h → m.body = .faultReply word a →
    (u.slice h).replyFault h word = some x →
    let v := u.setSlice h { u.slice h with faults := (u.slice h).faults.filter fun y => y.serial != x.serial }
    (bits word 63 62 = 1 → exec (.faultReplyResume k) s = .next ((v.resumeParked h [] x.parked).answer h a [])) ∧
    (bits word 63 62 = 2 → exec (.faultReplyAbort k) s =
      .next ((x.parked.foldl (fun t p => t.abortParked h p) v).answer h a []))) ∧
  (∀ (s u : State) (k cl : Nat) (p : PrismOp) (m : Msg), Arrives s k m u → m.dst = .prism cl → m.body = .prism p →
    let x := u.prismTrans cl p.asid p.va
    (∀ va need, x.2 = .error (.behind va need) → exec (.prismServe k) s = .next (x.1.prismWait cl p none)) ∧
    ∀ pa leaf, x.2 = .ok (pa, leaf) →
      let y := x.1.watchGen p.asid (leafPage p.va leaf).1 (leafPage p.va leaf).2
      let z := y.1.unreadFirst cl p.asid p.va (some y.2)
      let d := z.cluster cl
      let found := d.entryOf p.asid p.va y.2
      let unread (t : State) : Option Compile := (t.cluster cl).compiles.find? (·.unread p.asid p.va)
      (leafWatch leaf = false → p.spcomp = false → unread x.1 = none →
        exec (.prismServe k) s = .next (x.1.prismGive cl p 0 0 2 0 [] false)) ∧
      (unread y.1 = none → z = y.1) ∧
      (∀ q n e, unread y.1 = some q → (y.1.cluster cl).entryOf p.asid p.va y.2 = some (n, e) →
        z = (y.1.compileOut cl q).entryServes cl n e q.waiting q.resumed) ∧
      (leafWatch leaf = true → found = none → exec (.prismServe k) s = .next (z.prismWait cl p (some y.2))) ∧
      (leafWatch leaf = true → ∀ n e, found = some (n, e) → e.kind ≠ 1 → e.kind ≠ 3 → exec (.prismServe k) s =
        .next ((z.setCluster cl { d with clock := d.clock + 1, dir := Sparse.set {} d.dir n { e with used := d.clock } }).prismGive cl
          p e.head e.made e.kind e.size [] false))) ∧
  (∀ (s : State) (cl : Nat) (q : Compile) (qs : List Compile), (s.cluster cl).compiles = q :: qs → q.parked = false →
    (q.got = none → ∀ t, s.compileReads cl q = some t → exec (.prismCompile cl) s = .next t) ∧
    ∀ h bs, q.got = some (h, bs) →
      let x := s.prismTrans cl q.asid q.va
      ∀ pa leaf, x.2 = .ok (pa, leaf) → leafWatch leaf = true →
        let y := x.1.watchGen q.asid (leafPage q.va leaf).1 (leafPage q.va leaf).2
        (q.gen = some y.2 → q.fail = none → exec (.prismCompile cl) s = .next (y.1.compileMakes cl q y.2 h bs)) ∧
        (∀ c v r, q.gen = some y.2 → q.fail = some (c, v, r) →
          exec (.prismCompile cl) s = .next (y.1.compileEnds cl q.waiting 3 c v r)) ∧
        (q.gen ≠ some y.2 → exec (.prismCompile cl) s = .next (y.1.modCompile cl fun k =>
          { k with tries := k.tries + 1, gen := some y.2, got := none, fail := none }))) ∧
  (∀ (s u : State) (k : Nat) (q : BeaconQuery) (m : Msg), Arrives s k m u → m.body = .beacon q → s.queryParked q k = false →
    let j := u.job q.die q.job
    let new : BJob := { state := 1, region := q.region, va := q.va, asid := q.asid }
    (q.bad = false → q.act = 1 → (j.state = 0 ∨ j.region = q.region) →
      (q.merge = true → exec (.beaconOpen k) s = .next ((u.setJob q.die q.job { new with state := 2 }).beaconDone q 0 0 0)) ∧
      (q.merge = false →
        let x := u.gRead q.asid q.va 32 q.via
        ∀ bs, x.2 = .ok bs → gridBad (wordAt bs 0) (wordAt bs 1) (wordAt bs 2) (wordAt bs 3) = none → exec (.beaconOpen k) s =
          .next ((x.1.setJob q.die q.job { new with sizes := wordAt bs 0, step := wordAt bs 1 }).beaconDone q 0 0 0))) ∧
    (q.act = 0 → q.plan.isSome = true → ∀ t, u.mergeGo q = some t → exec (.beaconNext k) s = .next t) ∧
    (q.plan = none → q.bad = false → q.act = 0 → u.jobOk q = true →
      (j.state = 1 → q.merge = false → exec (.beaconNext k) s =
        .next ((u.setJob q.die q.job { j with next := (gridNext j).2.2 }).beaconDone q (gridNext j).1 (gridNext j).2.1 0)) ∧
      (j.state = 2 → q.merge = true → ∀ t, u.mergeNext q j = some t → exec (.beaconNext k) s = .next t)) ∧
    (q.bad = false → q.act = 2 → u.jobOk q = true →
      exec (.beaconClose k) s = .next ((u.setJob q.die q.job { j with state := 0 }).beaconDone q 0 0 0)) ∧
    (q.bad = true → q.act = 1 → exec (.beaconOpen k) s = .next (u.beaconRefuse q q.query)) ∧
    (q.plan = none → (q.bad = true ∨ u.jobOk q = false) → q.act = 0 → exec (.beaconNext k) s = .next (u.beaconRefuse q q.query)) ∧
    ((q.bad = true ∨ u.jobOk q = false) → q.act = 2 → exec (.beaconClose k) s = .next (u.beaconRefuse q q.query))) ∧
  (∀ (s : State) (die n : Nat) (t : Termw), (s.die die).termw[n]? = some t → s.termwCores t ≠ [] →
    (∀ c ∈ s.termwCores t, s.regionOf c = some t.region ∧ (s.core c).idle = true) →
    let p := s.dusk t
    let set (x : Termw) : State := s.setDie die { s.die die with termw := (s.die die).termw.set n x }
    (t.sample = none → exec (.duskSample die n) s = .next (set { t with sample := some (s.cycles, p.1, p.2) })) ∧
    ∀ since e a, t.sample = some (since, e, a) → since + 4096 ≤ s.cycles →
      (p = (e, a) → e = a → exec (.duskSample die n) s = .next (s.termwSignal t)) ∧
      (p ≠ (e, a) ∨ e ≠ a → exec (.duskSample die n) s = .next (set { t with sample := none }))) ∧
  ∀ (s : State) (i die : Nat),
    let r := s.region i
    let cs := s.coresOn i die
    let was (c : Nat) : Nat × Nat := (r.llsnap.lookup c).getD (0, 0)
    let since (a b : Nat) : Nat := (BitVec.ofNat 64 a - BitVec.ofNat 64 b).toNat
    let refused (c : Nat) : Nat := since (s.counts i c).1 (was c).1
    let taken (c : Nat) : Nat := since (s.counts i c).2 (was c).2
    r.state = 1 → r.llwin ≠ 0 → Sparse.get 0 r.llstart die + 2 * r.llwin ≤ s.cycles →
      ((∀ c ∈ cs, refused c = 0) ∨ (∃ c ∈ cs, taken c ≠ 0) → exec (.livelockWindow i die) s = .next (s.llBegin i die)) ∧
      (∀ c ∈ cs, s.regionOf c = some i → refused c ≠ 0 → (∀ d ∈ cs, taken d = 0) →
        ∃ t, exec (.livelockWindow i die) s = .next t ∧
        ∃ p ∈ (t.core c).net.traps, p.cause = 0x0D ∧ p.value = satN (cs.map refused).sum 32 * 2 ^ 32 + satN (refused c) 32)

/-! ### Invariants of every step -/

/-- R89. Whatever runs, on every state, memory, every scratchpad (those of saved cores too) and every Prism directory keep the model's
canonical form, strictly rising keys and no entry equal to what an unlisted one reads as (its choice: assumption log, entry 5), and
start-up its order: at most twelve stacks and ninety-six clusters, and no leader before they are all there. -/
def Obligations.EveryStepKeepsMemoryAndStartUpInOrder : Prop :=
  ∀ s t : State, s.inOrder = true → step s = .next t → t.inOrder = true

/-- R9, R89. The reset state's memory, scratchpads and directories are canonical (assumption log, entry 5) and its start-up in order. -/
def Obligations.ResetIsInOrder : Prop := State.reset.inOrder = true

end
end

