-- ==== Sys2Proof/Laws/Sparse.lean ====
section
/-! SUPPORT. The laws of sparse tables: a read after a write, and that every operation keeps the canonical form. The
read laws hold of every list, canonical or not. -/

namespace Sys2Proof.Machine

variable {β : Type}

@[simp] theorem Sparse.get_nil (d : β) (i : Nat) : Sparse.get d [] i = d := rfl

/-- Below the first key everything reads as d. -/
theorem Sparse.get_below {d : β} {m : Sparse β} {i : Nat} (h : Sparse.above i m) : Sparse.get d m i = d := by
  cases m with
  | nil => rfl
  | cons e t => simp_all [Sparse.above, Sparse.get]

theorem Sparse.get_after_self (d : β) (m : Sparse β) (i : Nat) : Sparse.get d (Sparse.after m i) i = d := by
  induction m with
  | nil => rfl
  | cons e t ih =>
    simp only [Sparse.after]
    split
    · exact ih
    · simp only [Sparse.get]; rw [if_pos (by omega)]

theorem Sparse.get_after_below {d : β} {m : Sparse β} {i j : Nat} (h : j < i) : Sparse.get d (Sparse.after m i) j = d := by
  induction m with
  | nil => rfl
  | cons e t ih =>
    simp only [Sparse.after]
    split
    · exact ih
    · simp only [Sparse.get]; rw [if_pos (by omega)]

theorem Sparse.get_after_above {d : β} {m : Sparse β} {i j : Nat} (h : i < j) :
    Sparse.get d (Sparse.after m i) j = Sparse.get d m j := by
  induction m with
  | nil => rfl
  | cons e t ih =>
    simp only [Sparse.after]
    split
    · rw [ih]; simp only [Sparse.get]; rw [if_neg (by omega), if_neg (by omega)]
    · rfl

/-- What every listed value and d have, every value read has. -/
theorem Sparse.get_all {d : β} {p : β → Bool} {m : Sparse β} (hd : p d = true) (h : m.all (fun e => p e.2) = true) (i : Nat) :
    p (Sparse.get d m i) = true := by
  induction m with
  | nil => exact hd
  | cons e t ih =>
    simp only [List.all_cons, Bool.and_eq_true] at h
    simp only [Sparse.get]
    split
    · exact hd
    · split
      · exact h.1
      · exact ih h.2

theorem Sparse.all_after {p : β → Bool} {m : Sparse β} (i : Nat) (h : m.all (fun e => p e.2) = true) :
    (Sparse.after m i).all (fun e => p e.2) = true := by
  induction m with
  | nil => rfl
  | cons e t ih =>
    simp only [Sparse.after]
    split
    · exact ih (by simp only [List.all_cons, Bool.and_eq_true] at h; exact h.2)
    · exact h

/-- What every listed value has, it has after a value that has it is set. -/
theorem Sparse.all_set [DecidableEq β] {d v : β} {p : β → Bool} {m : Sparse β} (i : Nat) (hv : p v = true)
    (h : m.all (fun e => p e.2) = true) : (Sparse.set d m i v).all (fun e => p e.2) = true := by
  induction m with
  | nil => simp only [Sparse.set]; split <;> simp [hv]
  | cons e t ih =>
    have h' := h
    simp only [List.all_cons, Bool.and_eq_true] at h'
    simp only [Sparse.set]
    split
    · split
      · exact h
      · simp [hv, h'.1, h'.2]
    · split
      · split
        · exact Sparse.all_after i h'.2
        · simp [hv, h'.2]
      · simp [h'.1, ih h'.2]

theorem Sparse.above_mono {lo lo' : Nat} {m : Sparse β} (h : lo' ≤ lo) (hm : Sparse.above lo m) : Sparse.above lo' m := by
  cases m with
  | nil => rfl
  | cons e t => simp_all [Sparse.above]; omega

theorem Sparse.above_after {m : Sparse β} (i : Nat) : Sparse.above i (Sparse.after m i) := by
  induction m with
  | nil => rfl
  | cons e t ih =>
    simp only [Sparse.after]
    split
    · exact ih
    · simp only [Sparse.above, decide_eq_true_eq]; omega

variable [DecidableEq β]

/-- A key reads as what was last written to it. -/
@[simp] theorem Sparse.get_set_self (d : β) (m : Sparse β) (i : Nat) (v : β) : Sparse.get d (Sparse.set d m i v) i = v := by
  induction m with
  | nil => simp only [Sparse.set]; split <;> simp_all [Sparse.get]
  | cons e t ih =>
    simp only [Sparse.set]
    split
    · rename_i h
      split
      · subst_vars; simp [Sparse.get, h]
      · simp [Sparse.get]
    · split
      · rename_i h
        split
        · subst_vars; exact Sparse.get_after_self _ _ _
        · simp [Sparse.get, h]
      · rename_i h1 h2; simp [Sparse.get, h1, h2, ih]

/-- Every other key reads as before. -/
theorem Sparse.get_set_ne {d : β} {m : Sparse β} {i j : Nat} {v : β} (h : j ≠ i) :
    Sparse.get d (Sparse.set d m i v) j = Sparse.get d m j := by
  induction m with
  | nil =>
    simp only [Sparse.set]
    split
    · rfl
    · simp only [Sparse.get]; split
      · rfl
      · simp_all
  | cons e t ih =>
    simp only [Sparse.set]
    split
    · split
      · rfl
      · simp only [Sparse.get]
        by_cases h1 : j < i
        · rw [if_pos h1, if_pos (by omega)]
        · rw [if_neg h1, if_neg h]
    · split
      · rename_i h1 h2
        split
        · by_cases h3 : j < i
          · rw [Sparse.get_after_below h3]; simp only [Sparse.get]; rw [if_pos (by omega)]
          · rw [Sparse.get_after_above (by omega)]; simp only [Sparse.get]; rw [if_neg (by omega), if_neg (by omega)]
        · simp only [Sparse.get]
          split
          · rfl
          · rw [if_neg (by omega), if_neg (by omega)]
      · simp only [Sparse.get, ih]

theorem Sparse.get_set (d : β) (m : Sparse β) (i j : Nat) (v : β) :
    Sparse.get d (Sparse.set d m i v) j = if j = i then v else Sparse.get d m j := by
  split
  · subst_vars; simp
  · exact Sparse.get_set_ne ‹_›

/-! ### The canonical form -/

theorem Sparse.wf_after {d : β} {m : Sparse β} (i : Nat) (h : Sparse.wf d m) : Sparse.wf d (Sparse.after m i) := by
  induction m with
  | nil => rfl
  | cons e t ih =>
    simp only [Sparse.after]
    split
    · simp only [Sparse.wf, Bool.and_eq_true] at h; exact ih h.2
    · exact h

theorem Sparse.above_set {d : β} {m : Sparse β} {lo i : Nat} {v : β} (hm : Sparse.above lo m) (hi : lo < i) :
    Sparse.above lo (Sparse.set d m i v) := by
  cases m with
  | nil => simp only [Sparse.set]; split <;> simp_all [Sparse.above]
  | cons e t =>
    simp only [Sparse.set]
    split
    · split <;> simp_all [Sparse.above]
    · split
      · split
        · exact Sparse.above_mono (by omega) (Sparse.above_after i)
        · simp_all [Sparse.above]
      · simp_all [Sparse.above]

/-- A write keeps the canonical form. -/
theorem Sparse.wf_set {d : β} {m : Sparse β} (i : Nat) (v : β) (h : Sparse.wf d m) : Sparse.wf d (Sparse.set d m i v) := by
  induction m with
  | nil => simp only [Sparse.set]; split <;> simp_all [Sparse.wf, Sparse.above]
  | cons e t ih =>
    have ht : Sparse.wf d t := by simp only [Sparse.wf, Bool.and_eq_true] at h; exact h.2
    have ha : Sparse.above e.1 t := by simp only [Sparse.wf, Bool.and_eq_true] at h; exact h.1.2
    have hd : e.2 ≠ d := by simp only [Sparse.wf, Bool.and_eq_true, decide_eq_true_eq] at h; exact h.1.1
    simp only [Sparse.set]
    split
    · split
      · exact h
      · simp_all [Sparse.wf, Sparse.above]
    · split
      · split
        · exact Sparse.wf_after i ht
        · simp_all [Sparse.wf]
      · simp only [Sparse.wf, Bool.and_eq_true, decide_eq_true_eq]
        exact ⟨⟨hd, Sparse.above_set ha (by omega)⟩, ih ht⟩

theorem Sparse.above_mapV {d : β} {f : Nat → β → β} {m : Sparse β} {lo : Nat} (h : Sparse.wf d m)
    (hm : Sparse.above lo m) : Sparse.above lo (Sparse.mapV d f m) := by
  induction m generalizing lo with
  | nil => rfl
  | cons e t ih =>
    simp only [Sparse.wf, Bool.and_eq_true] at h
    simp only [Sparse.above, decide_eq_true_eq] at hm
    simp only [Sparse.mapV]
    split
    · exact ih h.2 (Sparse.above_mono (by omega) h.1.2)
    · simp [Sparse.above, hm]

/-- A change of every value keeps the canonical form. -/
theorem Sparse.wf_mapV {d : β} {f : Nat → β → β} {m : Sparse β} (h : Sparse.wf d m) : Sparse.wf d (Sparse.mapV d f m) := by
  induction m with
  | nil => rfl
  | cons e t ih =>
    have h' := h
    simp only [Sparse.wf, Bool.and_eq_true] at h
    simp only [Sparse.mapV]
    split
    · exact ih h.2
    · simp only [Sparse.wf, Bool.and_eq_true, decide_eq_true_eq]
      exact ⟨⟨‹_›, Sparse.above_mapV h.2 h.1.2⟩, ih h.2⟩

theorem Sparse.above_filter {d : β} {p : Nat × β → Bool} {m : Sparse β} {lo : Nat} (h : Sparse.wf d m)
    (hm : Sparse.above lo m) : Sparse.above lo (m.filter p) := by
  induction m generalizing lo with
  | nil => rfl
  | cons e t ih =>
    simp only [Sparse.wf, Bool.and_eq_true] at h
    simp only [Sparse.above, decide_eq_true_eq] at hm
    simp only [List.filter]
    split
    · simp [Sparse.above, hm]
    · exact ih h.2 (Sparse.above_mono (by omega) h.1.2)

/-- Leaving entries out keeps the canonical form. -/
theorem Sparse.wf_filter {d : β} {p : Nat × β → Bool} {m : Sparse β} (h : Sparse.wf d m) : Sparse.wf d (m.filter p) := by
  induction m with
  | nil => rfl
  | cons e t ih =>
    simp only [Sparse.wf, Bool.and_eq_true] at h
    simp only [List.filter]
    split
    · simp only [Sparse.wf, Bool.and_eq_true]; exact ⟨⟨h.1.1, Sparse.above_filter h.2 h.1.2⟩, ih h.2⟩
    · exact ih h.2

/-- Two canonical tables that read alike are the same list, so equal memories are equal data. -/
theorem Sparse.ext_of_get {d : β} {m n : Sparse β} (hm : Sparse.wf d m) (hn : Sparse.wf d n)
    (h : ∀ i, Sparse.get d m i = Sparse.get d n i) : m = n := by
  induction m generalizing n with
  | nil =>
    cases n with
    | nil => rfl
    | cons e t =>
      have := h e.1
      simp [Sparse.get] at this
      simp only [Sparse.wf, Bool.and_eq_true, decide_eq_true_eq] at hn
      exact absurd this.symm hn.1.1
  | cons e t ih =>
    simp only [Sparse.wf, Bool.and_eq_true, decide_eq_true_eq] at hm
    cases n with
    | nil =>
      have := h e.1
      simp [Sparse.get] at this
      exact absurd this hm.1.1
    | cons e' t' =>
      simp only [Sparse.wf, Bool.and_eq_true, decide_eq_true_eq] at hn
      obtain ⟨k, v⟩ := e
      obtain ⟨k', v'⟩ := e'
      have hk : k = k' := by
        rcases Nat.lt_trichotomy k k' with hlt | heq | hgt
        · have := h k; simp [Sparse.get, hlt] at this; exact absurd this hm.1.1
        · exact heq
        · have := h k'; simp [Sparse.get, hgt] at this; exact absurd this.symm hn.1.1
      subst hk
      have hv : v = v' := by have := h k; simpa [Sparse.get] using this
      subst hv
      congr 1
      apply ih hm.2 hn.2
      intro i
      by_cases hi : i ≤ k
      · rw [Sparse.get_below (Sparse.above_mono hi hm.1.2), Sparse.get_below (Sparse.above_mono hi hn.1.2)]
      · have := h i
        simpa [Sparse.get, show ¬ i < k by omega, show ¬ i = k by omega] using this

end Sys2Proof.Machine
end

