-- ==== Sys2Proof/Laws/State.lean ====
section
/-! SUPPORT. One lemma per field per update of State and of Core, and what a unit reads as after an update. -/

namespace Sys2Proof.Machine

/-! ### setCore -/

@[simp] theorem State.setCore_sched (s : State) (c : Nat) (v : Core) : (s.setCore c v).sched = s.sched := rfl
@[simp] theorem State.setCore_cur (s : State) (c : Nat) (v : Core) : (s.setCore c v).cur = s.cur := rfl
@[simp] theorem State.setCore_draws (s : State) (c : Nat) (v : Core) : (s.setCore c v).draws = s.draws := rfl
@[simp] theorem State.setCore_cycles (s : State) (c : Nat) (v : Core) : (s.setCore c v).cycles = s.cycles := rfl
@[simp] theorem State.setCore_fw (s : State) (c : Nat) (v : Core) : (s.setCore c v).fw = s.fw := rfl
@[simp] theorem State.setCore_port (s : State) (c : Nat) (v : Core) : (s.setCore c v).port = s.port := rfl
@[simp] theorem State.setCore_queues (s : State) (c : Nat) (v : Core) : (s.setCore c v).queues = s.queues := rfl
@[simp] theorem State.setCore_regions (s : State) (c : Nat) (v : Core) : (s.setCore c v).regions = s.regions := rfl
@[simp] theorem State.setCore_clusters (s : State) (c : Nat) (v : Core) : (s.setCore c v).clusters = s.clusters := rfl
@[simp] theorem State.setCore_dies (s : State) (c : Nat) (v : Core) : (s.setCore c v).dies = s.dies := rfl
@[simp] theorem State.setCore_slices (s : State) (c : Nat) (v : Core) : (s.setCore c v).slices = s.slices := rfl
@[simp] theorem State.setCore_mem (s : State) (c : Nat) (v : Core) : (s.setCore c v).mem = s.mem := rfl
@[simp] theorem State.setCore_links (s : State) (c : Nat) (v : Core) : (s.setCore c v).links = s.links := rfl
@[simp] theorem State.setCore_syncs (s : State) (c : Nat) (v : Core) : (s.setCore c v).syncs = s.syncs := rfl
@[simp] theorem State.setCore_syncNext (s : State) (c : Nat) (v : Core) : (s.setCore c v).syncNext = s.syncNext := rfl
@[simp] theorem State.setCore_stall (s : State) (c : Nat) (v : Core) : (s.setCore c v).stall = s.stall := rfl
@[simp] theorem State.setCore_msgs (s : State) (c : Nat) (v : Core) : (s.setCore c v).msgs = s.msgs := rfl

/-! ### modCore -/

@[simp] theorem State.modCore_sched (s : State) (c : Nat) (f : Core → Core) : (s.modCore c f).sched = s.sched := rfl
@[simp] theorem State.modCore_cur (s : State) (c : Nat) (f : Core → Core) : (s.modCore c f).cur = s.cur := rfl
@[simp] theorem State.modCore_draws (s : State) (c : Nat) (f : Core → Core) : (s.modCore c f).draws = s.draws := rfl
@[simp] theorem State.modCore_cycles (s : State) (c : Nat) (f : Core → Core) : (s.modCore c f).cycles = s.cycles := rfl
@[simp] theorem State.modCore_fw (s : State) (c : Nat) (f : Core → Core) : (s.modCore c f).fw = s.fw := rfl
@[simp] theorem State.modCore_port (s : State) (c : Nat) (f : Core → Core) : (s.modCore c f).port = s.port := rfl
@[simp] theorem State.modCore_queues (s : State) (c : Nat) (f : Core → Core) : (s.modCore c f).queues = s.queues := rfl
@[simp] theorem State.modCore_regions (s : State) (c : Nat) (f : Core → Core) : (s.modCore c f).regions = s.regions := rfl
@[simp] theorem State.modCore_clusters (s : State) (c : Nat) (f : Core → Core) : (s.modCore c f).clusters = s.clusters := rfl
@[simp] theorem State.modCore_dies (s : State) (c : Nat) (f : Core → Core) : (s.modCore c f).dies = s.dies := rfl
@[simp] theorem State.modCore_slices (s : State) (c : Nat) (f : Core → Core) : (s.modCore c f).slices = s.slices := rfl
@[simp] theorem State.modCore_mem (s : State) (c : Nat) (f : Core → Core) : (s.modCore c f).mem = s.mem := rfl
@[simp] theorem State.modCore_links (s : State) (c : Nat) (f : Core → Core) : (s.modCore c f).links = s.links := rfl
@[simp] theorem State.modCore_syncs (s : State) (c : Nat) (f : Core → Core) : (s.modCore c f).syncs = s.syncs := rfl
@[simp] theorem State.modCore_syncNext (s : State) (c : Nat) (f : Core → Core) : (s.modCore c f).syncNext = s.syncNext := rfl
@[simp] theorem State.modCore_stall (s : State) (c : Nat) (f : Core → Core) : (s.modCore c f).stall = s.stall := rfl
@[simp] theorem State.modCore_msgs (s : State) (c : Nat) (f : Core → Core) : (s.modCore c f).msgs = s.msgs := rfl

/-! ### setSlice -/

@[simp] theorem State.setSlice_sched (s : State) (i : Nat) (v : Slice) : (s.setSlice i v).sched = s.sched := rfl
@[simp] theorem State.setSlice_cur (s : State) (i : Nat) (v : Slice) : (s.setSlice i v).cur = s.cur := rfl
@[simp] theorem State.setSlice_draws (s : State) (i : Nat) (v : Slice) : (s.setSlice i v).draws = s.draws := rfl
@[simp] theorem State.setSlice_cycles (s : State) (i : Nat) (v : Slice) : (s.setSlice i v).cycles = s.cycles := rfl
@[simp] theorem State.setSlice_fw (s : State) (i : Nat) (v : Slice) : (s.setSlice i v).fw = s.fw := rfl
@[simp] theorem State.setSlice_port (s : State) (i : Nat) (v : Slice) : (s.setSlice i v).port = s.port := rfl
@[simp] theorem State.setSlice_queues (s : State) (i : Nat) (v : Slice) : (s.setSlice i v).queues = s.queues := rfl
@[simp] theorem State.setSlice_regions (s : State) (i : Nat) (v : Slice) : (s.setSlice i v).regions = s.regions := rfl
@[simp] theorem State.setSlice_cores (s : State) (i : Nat) (v : Slice) : (s.setSlice i v).cores = s.cores := rfl
@[simp] theorem State.setSlice_clusters (s : State) (i : Nat) (v : Slice) : (s.setSlice i v).clusters = s.clusters := rfl
@[simp] theorem State.setSlice_dies (s : State) (i : Nat) (v : Slice) : (s.setSlice i v).dies = s.dies := rfl
@[simp] theorem State.setSlice_mem (s : State) (i : Nat) (v : Slice) : (s.setSlice i v).mem = s.mem := rfl
@[simp] theorem State.setSlice_links (s : State) (i : Nat) (v : Slice) : (s.setSlice i v).links = s.links := rfl
@[simp] theorem State.setSlice_syncs (s : State) (i : Nat) (v : Slice) : (s.setSlice i v).syncs = s.syncs := rfl
@[simp] theorem State.setSlice_syncNext (s : State) (i : Nat) (v : Slice) : (s.setSlice i v).syncNext = s.syncNext := rfl
@[simp] theorem State.setSlice_stall (s : State) (i : Nat) (v : Slice) : (s.setSlice i v).stall = s.stall := rfl
@[simp] theorem State.setSlice_msgs (s : State) (i : Nat) (v : Slice) : (s.setSlice i v).msgs = s.msgs := rfl

/-! ### setCluster -/

@[simp] theorem State.setCluster_sched (s : State) (i : Nat) (v : Cluster) : (s.setCluster i v).sched = s.sched := rfl
@[simp] theorem State.setCluster_cur (s : State) (i : Nat) (v : Cluster) : (s.setCluster i v).cur = s.cur := rfl
@[simp] theorem State.setCluster_draws (s : State) (i : Nat) (v : Cluster) : (s.setCluster i v).draws = s.draws := rfl
@[simp] theorem State.setCluster_cycles (s : State) (i : Nat) (v : Cluster) : (s.setCluster i v).cycles = s.cycles := rfl
@[simp] theorem State.setCluster_fw (s : State) (i : Nat) (v : Cluster) : (s.setCluster i v).fw = s.fw := rfl
@[simp] theorem State.setCluster_port (s : State) (i : Nat) (v : Cluster) : (s.setCluster i v).port = s.port := rfl
@[simp] theorem State.setCluster_queues (s : State) (i : Nat) (v : Cluster) : (s.setCluster i v).queues = s.queues := rfl
@[simp] theorem State.setCluster_regions (s : State) (i : Nat) (v : Cluster) : (s.setCluster i v).regions = s.regions := rfl
@[simp] theorem State.setCluster_cores (s : State) (i : Nat) (v : Cluster) : (s.setCluster i v).cores = s.cores := rfl
@[simp] theorem State.setCluster_dies (s : State) (i : Nat) (v : Cluster) : (s.setCluster i v).dies = s.dies := rfl
@[simp] theorem State.setCluster_slices (s : State) (i : Nat) (v : Cluster) : (s.setCluster i v).slices = s.slices := rfl
@[simp] theorem State.setCluster_mem (s : State) (i : Nat) (v : Cluster) : (s.setCluster i v).mem = s.mem := rfl
@[simp] theorem State.setCluster_links (s : State) (i : Nat) (v : Cluster) : (s.setCluster i v).links = s.links := rfl
@[simp] theorem State.setCluster_syncs (s : State) (i : Nat) (v : Cluster) : (s.setCluster i v).syncs = s.syncs := rfl
@[simp] theorem State.setCluster_syncNext (s : State) (i : Nat) (v : Cluster) : (s.setCluster i v).syncNext = s.syncNext := rfl
@[simp] theorem State.setCluster_stall (s : State) (i : Nat) (v : Cluster) : (s.setCluster i v).stall = s.stall := rfl
@[simp] theorem State.setCluster_msgs (s : State) (i : Nat) (v : Cluster) : (s.setCluster i v).msgs = s.msgs := rfl

/-! ### setDie -/

@[simp] theorem State.setDie_sched (s : State) (i : Nat) (v : Die) : (s.setDie i v).sched = s.sched := rfl
@[simp] theorem State.setDie_cur (s : State) (i : Nat) (v : Die) : (s.setDie i v).cur = s.cur := rfl
@[simp] theorem State.setDie_draws (s : State) (i : Nat) (v : Die) : (s.setDie i v).draws = s.draws := rfl
@[simp] theorem State.setDie_cycles (s : State) (i : Nat) (v : Die) : (s.setDie i v).cycles = s.cycles := rfl
@[simp] theorem State.setDie_fw (s : State) (i : Nat) (v : Die) : (s.setDie i v).fw = s.fw := rfl
@[simp] theorem State.setDie_port (s : State) (i : Nat) (v : Die) : (s.setDie i v).port = s.port := rfl
@[simp] theorem State.setDie_queues (s : State) (i : Nat) (v : Die) : (s.setDie i v).queues = s.queues := rfl
@[simp] theorem State.setDie_regions (s : State) (i : Nat) (v : Die) : (s.setDie i v).regions = s.regions := rfl
@[simp] theorem State.setDie_cores (s : State) (i : Nat) (v : Die) : (s.setDie i v).cores = s.cores := rfl
@[simp] theorem State.setDie_clusters (s : State) (i : Nat) (v : Die) : (s.setDie i v).clusters = s.clusters := rfl
@[simp] theorem State.setDie_slices (s : State) (i : Nat) (v : Die) : (s.setDie i v).slices = s.slices := rfl
@[simp] theorem State.setDie_mem (s : State) (i : Nat) (v : Die) : (s.setDie i v).mem = s.mem := rfl
@[simp] theorem State.setDie_links (s : State) (i : Nat) (v : Die) : (s.setDie i v).links = s.links := rfl
@[simp] theorem State.setDie_syncs (s : State) (i : Nat) (v : Die) : (s.setDie i v).syncs = s.syncs := rfl
@[simp] theorem State.setDie_syncNext (s : State) (i : Nat) (v : Die) : (s.setDie i v).syncNext = s.syncNext := rfl
@[simp] theorem State.setDie_stall (s : State) (i : Nat) (v : Die) : (s.setDie i v).stall = s.stall := rfl
@[simp] theorem State.setDie_msgs (s : State) (i : Nat) (v : Die) : (s.setDie i v).msgs = s.msgs := rfl

/-! ### setRegion -/

@[simp] theorem State.setRegion_sched (s : State) (i : Nat) (v : Region) : (s.setRegion i v).sched = s.sched := rfl
@[simp] theorem State.setRegion_cur (s : State) (i : Nat) (v : Region) : (s.setRegion i v).cur = s.cur := rfl
@[simp] theorem State.setRegion_draws (s : State) (i : Nat) (v : Region) : (s.setRegion i v).draws = s.draws := rfl
@[simp] theorem State.setRegion_cycles (s : State) (i : Nat) (v : Region) : (s.setRegion i v).cycles = s.cycles := rfl
@[simp] theorem State.setRegion_fw (s : State) (i : Nat) (v : Region) : (s.setRegion i v).fw = s.fw := rfl
@[simp] theorem State.setRegion_port (s : State) (i : Nat) (v : Region) : (s.setRegion i v).port = s.port := rfl
@[simp] theorem State.setRegion_queues (s : State) (i : Nat) (v : Region) : (s.setRegion i v).queues = s.queues := rfl
@[simp] theorem State.setRegion_cores (s : State) (i : Nat) (v : Region) : (s.setRegion i v).cores = s.cores := rfl
@[simp] theorem State.setRegion_clusters (s : State) (i : Nat) (v : Region) : (s.setRegion i v).clusters = s.clusters := rfl
@[simp] theorem State.setRegion_dies (s : State) (i : Nat) (v : Region) : (s.setRegion i v).dies = s.dies := rfl
@[simp] theorem State.setRegion_slices (s : State) (i : Nat) (v : Region) : (s.setRegion i v).slices = s.slices := rfl
@[simp] theorem State.setRegion_mem (s : State) (i : Nat) (v : Region) : (s.setRegion i v).mem = s.mem := rfl
@[simp] theorem State.setRegion_links (s : State) (i : Nat) (v : Region) : (s.setRegion i v).links = s.links := rfl
@[simp] theorem State.setRegion_syncs (s : State) (i : Nat) (v : Region) : (s.setRegion i v).syncs = s.syncs := rfl
@[simp] theorem State.setRegion_syncNext (s : State) (i : Nat) (v : Region) : (s.setRegion i v).syncNext = s.syncNext := rfl
@[simp] theorem State.setRegion_stall (s : State) (i : Nat) (v : Region) : (s.setRegion i v).stall = s.stall := rfl
@[simp] theorem State.setRegion_msgs (s : State) (i : Nat) (v : Region) : (s.setRegion i v).msgs = s.msgs := rfl

/-! ### setQueue -/

@[simp] theorem State.setQueue_sched (s : State) (i : Nat) (v : HQueue) : (s.setQueue i v).sched = s.sched := rfl
@[simp] theorem State.setQueue_cur (s : State) (i : Nat) (v : HQueue) : (s.setQueue i v).cur = s.cur := rfl
@[simp] theorem State.setQueue_draws (s : State) (i : Nat) (v : HQueue) : (s.setQueue i v).draws = s.draws := rfl
@[simp] theorem State.setQueue_cycles (s : State) (i : Nat) (v : HQueue) : (s.setQueue i v).cycles = s.cycles := rfl
@[simp] theorem State.setQueue_fw (s : State) (i : Nat) (v : HQueue) : (s.setQueue i v).fw = s.fw := rfl
@[simp] theorem State.setQueue_port (s : State) (i : Nat) (v : HQueue) : (s.setQueue i v).port = s.port := rfl
@[simp] theorem State.setQueue_regions (s : State) (i : Nat) (v : HQueue) : (s.setQueue i v).regions = s.regions := rfl
@[simp] theorem State.setQueue_cores (s : State) (i : Nat) (v : HQueue) : (s.setQueue i v).cores = s.cores := rfl
@[simp] theorem State.setQueue_clusters (s : State) (i : Nat) (v : HQueue) : (s.setQueue i v).clusters = s.clusters := rfl
@[simp] theorem State.setQueue_dies (s : State) (i : Nat) (v : HQueue) : (s.setQueue i v).dies = s.dies := rfl
@[simp] theorem State.setQueue_slices (s : State) (i : Nat) (v : HQueue) : (s.setQueue i v).slices = s.slices := rfl
@[simp] theorem State.setQueue_mem (s : State) (i : Nat) (v : HQueue) : (s.setQueue i v).mem = s.mem := rfl
@[simp] theorem State.setQueue_links (s : State) (i : Nat) (v : HQueue) : (s.setQueue i v).links = s.links := rfl
@[simp] theorem State.setQueue_syncs (s : State) (i : Nat) (v : HQueue) : (s.setQueue i v).syncs = s.syncs := rfl
@[simp] theorem State.setQueue_syncNext (s : State) (i : Nat) (v : HQueue) : (s.setQueue i v).syncNext = s.syncNext := rfl
@[simp] theorem State.setQueue_stall (s : State) (i : Nat) (v : HQueue) : (s.setQueue i v).stall = s.stall := rfl
@[simp] theorem State.setQueue_msgs (s : State) (i : Nat) (v : HQueue) : (s.setQueue i v).msgs = s.msgs := rfl

/-! ### modMe -/

@[simp] theorem State.modMe_sched (s : State) (f : Core → Core) : (s.modMe f).sched = s.sched := rfl
@[simp] theorem State.modMe_cur (s : State) (f : Core → Core) : (s.modMe f).cur = s.cur := rfl
@[simp] theorem State.modMe_draws (s : State) (f : Core → Core) : (s.modMe f).draws = s.draws := rfl
@[simp] theorem State.modMe_cycles (s : State) (f : Core → Core) : (s.modMe f).cycles = s.cycles := rfl
@[simp] theorem State.modMe_fw (s : State) (f : Core → Core) : (s.modMe f).fw = s.fw := rfl
@[simp] theorem State.modMe_port (s : State) (f : Core → Core) : (s.modMe f).port = s.port := rfl
@[simp] theorem State.modMe_queues (s : State) (f : Core → Core) : (s.modMe f).queues = s.queues := rfl
@[simp] theorem State.modMe_regions (s : State) (f : Core → Core) : (s.modMe f).regions = s.regions := rfl
@[simp] theorem State.modMe_clusters (s : State) (f : Core → Core) : (s.modMe f).clusters = s.clusters := rfl
@[simp] theorem State.modMe_dies (s : State) (f : Core → Core) : (s.modMe f).dies = s.dies := rfl
@[simp] theorem State.modMe_slices (s : State) (f : Core → Core) : (s.modMe f).slices = s.slices := rfl
@[simp] theorem State.modMe_mem (s : State) (f : Core → Core) : (s.modMe f).mem = s.mem := rfl
@[simp] theorem State.modMe_links (s : State) (f : Core → Core) : (s.modMe f).links = s.links := rfl
@[simp] theorem State.modMe_syncs (s : State) (f : Core → Core) : (s.modMe f).syncs = s.syncs := rfl
@[simp] theorem State.modMe_syncNext (s : State) (f : Core → Core) : (s.modMe f).syncNext = s.syncNext := rfl
@[simp] theorem State.modMe_stall (s : State) (f : Core → Core) : (s.modMe f).stall = s.stall := rfl
@[simp] theorem State.modMe_msgs (s : State) (f : Core → Core) : (s.modMe f).msgs = s.msgs := rfl

/-! ### advance -/

@[simp] theorem State.advance_sched (s : State) (n : Nat) : (s.advance n).sched = s.sched := rfl
@[simp] theorem State.advance_cur (s : State) (n : Nat) : (s.advance n).cur = s.cur := rfl
@[simp] theorem State.advance_draws (s : State) (n : Nat) : (s.advance n).draws = s.draws := rfl
@[simp] theorem State.advance_cycles (s : State) (n : Nat) : (s.advance n).cycles = s.cycles := rfl
@[simp] theorem State.advance_fw (s : State) (n : Nat) : (s.advance n).fw = s.fw := rfl
@[simp] theorem State.advance_port (s : State) (n : Nat) : (s.advance n).port = s.port := rfl
@[simp] theorem State.advance_queues (s : State) (n : Nat) : (s.advance n).queues = s.queues := rfl
@[simp] theorem State.advance_regions (s : State) (n : Nat) : (s.advance n).regions = s.regions := rfl
@[simp] theorem State.advance_clusters (s : State) (n : Nat) : (s.advance n).clusters = s.clusters := rfl
@[simp] theorem State.advance_dies (s : State) (n : Nat) : (s.advance n).dies = s.dies := rfl
@[simp] theorem State.advance_slices (s : State) (n : Nat) : (s.advance n).slices = s.slices := rfl
@[simp] theorem State.advance_mem (s : State) (n : Nat) : (s.advance n).mem = s.mem := rfl
@[simp] theorem State.advance_links (s : State) (n : Nat) : (s.advance n).links = s.links := rfl
@[simp] theorem State.advance_syncs (s : State) (n : Nat) : (s.advance n).syncs = s.syncs := rfl
@[simp] theorem State.advance_syncNext (s : State) (n : Nat) : (s.advance n).syncNext = s.syncNext := rfl
@[simp] theorem State.advance_stall (s : State) (n : Nat) : (s.advance n).stall = s.stall := rfl
@[simp] theorem State.advance_msgs (s : State) (n : Nat) : (s.advance n).msgs = s.msgs := rfl

/-! ### send -/

@[simp] theorem State.send_sched (s : State) (m : Msg) : (s.send m).sched = s.sched := rfl
@[simp] theorem State.send_cur (s : State) (m : Msg) : (s.send m).cur = s.cur := rfl
@[simp] theorem State.send_draws (s : State) (m : Msg) : (s.send m).draws = s.draws := rfl
@[simp] theorem State.send_cycles (s : State) (m : Msg) : (s.send m).cycles = s.cycles := rfl
@[simp] theorem State.send_fw (s : State) (m : Msg) : (s.send m).fw = s.fw := rfl
@[simp] theorem State.send_port (s : State) (m : Msg) : (s.send m).port = s.port := rfl
@[simp] theorem State.send_queues (s : State) (m : Msg) : (s.send m).queues = s.queues := rfl
@[simp] theorem State.send_regions (s : State) (m : Msg) : (s.send m).regions = s.regions := rfl
@[simp] theorem State.send_cores (s : State) (m : Msg) : (s.send m).cores = s.cores := rfl
@[simp] theorem State.send_clusters (s : State) (m : Msg) : (s.send m).clusters = s.clusters := rfl
@[simp] theorem State.send_dies (s : State) (m : Msg) : (s.send m).dies = s.dies := rfl
@[simp] theorem State.send_slices (s : State) (m : Msg) : (s.send m).slices = s.slices := rfl
@[simp] theorem State.send_mem (s : State) (m : Msg) : (s.send m).mem = s.mem := rfl
@[simp] theorem State.send_links (s : State) (m : Msg) : (s.send m).links = s.links := rfl
@[simp] theorem State.send_syncs (s : State) (m : Msg) : (s.send m).syncs = s.syncs := rfl
@[simp] theorem State.send_syncNext (s : State) (m : Msg) : (s.send m).syncNext = s.syncNext := rfl
@[simp] theorem State.send_stall (s : State) (m : Msg) : (s.send m).stall = s.stall := rfl

/-! ### dropMsg -/

@[simp] theorem State.dropMsg_sched (s : State) (k : Nat) : (s.dropMsg k).sched = s.sched := rfl
@[simp] theorem State.dropMsg_cur (s : State) (k : Nat) : (s.dropMsg k).cur = s.cur := rfl
@[simp] theorem State.dropMsg_draws (s : State) (k : Nat) : (s.dropMsg k).draws = s.draws := rfl
@[simp] theorem State.dropMsg_cycles (s : State) (k : Nat) : (s.dropMsg k).cycles = s.cycles := rfl
@[simp] theorem State.dropMsg_fw (s : State) (k : Nat) : (s.dropMsg k).fw = s.fw := rfl
@[simp] theorem State.dropMsg_port (s : State) (k : Nat) : (s.dropMsg k).port = s.port := rfl
@[simp] theorem State.dropMsg_queues (s : State) (k : Nat) : (s.dropMsg k).queues = s.queues := rfl
@[simp] theorem State.dropMsg_regions (s : State) (k : Nat) : (s.dropMsg k).regions = s.regions := rfl
@[simp] theorem State.dropMsg_cores (s : State) (k : Nat) : (s.dropMsg k).cores = s.cores := rfl
@[simp] theorem State.dropMsg_clusters (s : State) (k : Nat) : (s.dropMsg k).clusters = s.clusters := rfl
@[simp] theorem State.dropMsg_dies (s : State) (k : Nat) : (s.dropMsg k).dies = s.dies := rfl
@[simp] theorem State.dropMsg_slices (s : State) (k : Nat) : (s.dropMsg k).slices = s.slices := rfl
@[simp] theorem State.dropMsg_mem (s : State) (k : Nat) : (s.dropMsg k).mem = s.mem := rfl
@[simp] theorem State.dropMsg_links (s : State) (k : Nat) : (s.dropMsg k).links = s.links := rfl
@[simp] theorem State.dropMsg_syncs (s : State) (k : Nat) : (s.dropMsg k).syncs = s.syncs := rfl
@[simp] theorem State.dropMsg_syncNext (s : State) (k : Nat) : (s.dropMsg k).syncNext = s.syncNext := rfl
@[simp] theorem State.dropMsg_stall (s : State) (k : Nat) : (s.dropMsg k).stall = s.stall := rfl

/-! ### wake -/

@[simp] theorem State.wake_sched (s : State) (c : Nat) : (s.wake c).sched = s.sched := rfl
@[simp] theorem State.wake_cur (s : State) (c : Nat) : (s.wake c).cur = s.cur := rfl
@[simp] theorem State.wake_draws (s : State) (c : Nat) : (s.wake c).draws = s.draws := rfl
@[simp] theorem State.wake_cycles (s : State) (c : Nat) : (s.wake c).cycles = s.cycles := rfl
@[simp] theorem State.wake_fw (s : State) (c : Nat) : (s.wake c).fw = s.fw := rfl
@[simp] theorem State.wake_port (s : State) (c : Nat) : (s.wake c).port = s.port := rfl
@[simp] theorem State.wake_queues (s : State) (c : Nat) : (s.wake c).queues = s.queues := rfl
@[simp] theorem State.wake_regions (s : State) (c : Nat) : (s.wake c).regions = s.regions := rfl
@[simp] theorem State.wake_clusters (s : State) (c : Nat) : (s.wake c).clusters = s.clusters := rfl
@[simp] theorem State.wake_dies (s : State) (c : Nat) : (s.wake c).dies = s.dies := rfl
@[simp] theorem State.wake_slices (s : State) (c : Nat) : (s.wake c).slices = s.slices := rfl
@[simp] theorem State.wake_mem (s : State) (c : Nat) : (s.wake c).mem = s.mem := rfl
@[simp] theorem State.wake_links (s : State) (c : Nat) : (s.wake c).links = s.links := rfl
@[simp] theorem State.wake_syncs (s : State) (c : Nat) : (s.wake c).syncs = s.syncs := rfl
@[simp] theorem State.wake_syncNext (s : State) (c : Nat) : (s.wake c).syncNext = s.syncNext := rfl
@[simp] theorem State.wake_stall (s : State) (c : Nat) : (s.wake c).stall = s.stall := rfl
@[simp] theorem State.wake_msgs (s : State) (c : Nat) : (s.wake c).msgs = s.msgs := rfl

/-! ### landMsg -/

@[simp] theorem State.landMsg_sched (s : State) (k c : Nat) : (s.landMsg k c).sched = s.sched := rfl
@[simp] theorem State.landMsg_cur (s : State) (k c : Nat) : (s.landMsg k c).cur = s.cur := rfl
@[simp] theorem State.landMsg_draws (s : State) (k c : Nat) : (s.landMsg k c).draws = s.draws := rfl
@[simp] theorem State.landMsg_cycles (s : State) (k c : Nat) : (s.landMsg k c).cycles = s.cycles := rfl
@[simp] theorem State.landMsg_fw (s : State) (k c : Nat) : (s.landMsg k c).fw = s.fw := rfl
@[simp] theorem State.landMsg_port (s : State) (k c : Nat) : (s.landMsg k c).port = s.port := rfl
@[simp] theorem State.landMsg_queues (s : State) (k c : Nat) : (s.landMsg k c).queues = s.queues := rfl
@[simp] theorem State.landMsg_regions (s : State) (k c : Nat) : (s.landMsg k c).regions = s.regions := rfl
@[simp] theorem State.landMsg_clusters (s : State) (k c : Nat) : (s.landMsg k c).clusters = s.clusters := rfl
@[simp] theorem State.landMsg_dies (s : State) (k c : Nat) : (s.landMsg k c).dies = s.dies := rfl
@[simp] theorem State.landMsg_slices (s : State) (k c : Nat) : (s.landMsg k c).slices = s.slices := rfl
@[simp] theorem State.landMsg_mem (s : State) (k c : Nat) : (s.landMsg k c).mem = s.mem := rfl
@[simp] theorem State.landMsg_links (s : State) (k c : Nat) : (s.landMsg k c).links = s.links := rfl
@[simp] theorem State.landMsg_syncs (s : State) (k c : Nat) : (s.landMsg k c).syncs = s.syncs := rfl
@[simp] theorem State.landMsg_syncNext (s : State) (k c : Nat) : (s.landMsg k c).syncNext = s.syncNext := rfl
@[simp] theorem State.landMsg_stall (s : State) (k c : Nat) : (s.landMsg k c).stall = s.stall := rfl

/-! ### logError -/

@[simp] theorem State.logError_sched (s : State) (k a : Nat) : (s.logError k a).sched = s.sched := rfl
@[simp] theorem State.logError_cur (s : State) (k a : Nat) : (s.logError k a).cur = s.cur := rfl
@[simp] theorem State.logError_draws (s : State) (k a : Nat) : (s.logError k a).draws = s.draws := rfl
@[simp] theorem State.logError_cycles (s : State) (k a : Nat) : (s.logError k a).cycles = s.cycles := rfl
@[simp] theorem State.logError_fw (s : State) (k a : Nat) : (s.logError k a).fw = s.fw := rfl
@[simp] theorem State.logError_queues (s : State) (k a : Nat) : (s.logError k a).queues = s.queues := rfl
@[simp] theorem State.logError_regions (s : State) (k a : Nat) : (s.logError k a).regions = s.regions := rfl
@[simp] theorem State.logError_cores (s : State) (k a : Nat) : (s.logError k a).cores = s.cores := rfl
@[simp] theorem State.logError_clusters (s : State) (k a : Nat) : (s.logError k a).clusters = s.clusters := rfl
@[simp] theorem State.logError_dies (s : State) (k a : Nat) : (s.logError k a).dies = s.dies := rfl
@[simp] theorem State.logError_slices (s : State) (k a : Nat) : (s.logError k a).slices = s.slices := rfl
@[simp] theorem State.logError_mem (s : State) (k a : Nat) : (s.logError k a).mem = s.mem := rfl
@[simp] theorem State.logError_links (s : State) (k a : Nat) : (s.logError k a).links = s.links := rfl
@[simp] theorem State.logError_syncs (s : State) (k a : Nat) : (s.logError k a).syncs = s.syncs := rfl
@[simp] theorem State.logError_syncNext (s : State) (k a : Nat) : (s.logError k a).syncNext = s.syncNext := rfl
@[simp] theorem State.logError_stall (s : State) (k a : Nat) : (s.logError k a).stall = s.stall := rfl
@[simp] theorem State.logError_msgs (s : State) (k a : Nat) : (s.logError k a).msgs = s.msgs := rfl

/-! ### trap -/

@[simp] theorem State.trap_sched (s : State) (cause val : Nat) : (s.trap cause val).sched = s.sched := rfl
@[simp] theorem State.trap_cur (s : State) (cause val : Nat) : (s.trap cause val).cur = s.cur := rfl
@[simp] theorem State.trap_draws (s : State) (cause val : Nat) : (s.trap cause val).draws = s.draws := rfl
@[simp] theorem State.trap_cycles (s : State) (cause val : Nat) : (s.trap cause val).cycles = s.cycles := rfl
@[simp] theorem State.trap_fw (s : State) (cause val : Nat) : (s.trap cause val).fw = s.fw := rfl
@[simp] theorem State.trap_port (s : State) (cause val : Nat) : (s.trap cause val).port = s.port := rfl
@[simp] theorem State.trap_queues (s : State) (cause val : Nat) : (s.trap cause val).queues = s.queues := rfl
@[simp] theorem State.trap_regions (s : State) (cause val : Nat) : (s.trap cause val).regions = s.regions := rfl
@[simp] theorem State.trap_clusters (s : State) (cause val : Nat) : (s.trap cause val).clusters = s.clusters := rfl
@[simp] theorem State.trap_dies (s : State) (cause val : Nat) : (s.trap cause val).dies = s.dies := rfl
@[simp] theorem State.trap_slices (s : State) (cause val : Nat) : (s.trap cause val).slices = s.slices := rfl
@[simp] theorem State.trap_mem (s : State) (cause val : Nat) : (s.trap cause val).mem = s.mem := rfl
@[simp] theorem State.trap_links (s : State) (cause val : Nat) : (s.trap cause val).links = s.links := rfl
@[simp] theorem State.trap_syncs (s : State) (cause val : Nat) : (s.trap cause val).syncs = s.syncs := rfl
@[simp] theorem State.trap_syncNext (s : State) (cause val : Nat) : (s.trap cause val).syncNext = s.syncNext := rfl
@[simp] theorem State.trap_stall (s : State) (cause val : Nat) : (s.trap cause val).stall = s.stall := rfl
@[simp] theorem State.trap_msgs (s : State) (cause val : Nat) : (s.trap cause val).msgs = s.msgs := rfl

/-! ### sendArrival -/

@[simp] theorem State.sendArrival_sched (s : State) (src : Agent) (a : Arrival) : (s.sendArrival src a).sched = s.sched := rfl
@[simp] theorem State.sendArrival_cur (s : State) (src : Agent) (a : Arrival) : (s.sendArrival src a).cur = s.cur := rfl
@[simp] theorem State.sendArrival_draws (s : State) (src : Agent) (a : Arrival) : (s.sendArrival src a).draws = s.draws := rfl
@[simp] theorem State.sendArrival_cycles (s : State) (src : Agent) (a : Arrival) : (s.sendArrival src a).cycles = s.cycles := rfl
@[simp] theorem State.sendArrival_fw (s : State) (src : Agent) (a : Arrival) : (s.sendArrival src a).fw = s.fw := rfl
@[simp] theorem State.sendArrival_port (s : State) (src : Agent) (a : Arrival) : (s.sendArrival src a).port = s.port := rfl
@[simp] theorem State.sendArrival_queues (s : State) (src : Agent) (a : Arrival) : (s.sendArrival src a).queues = s.queues := rfl
@[simp] theorem State.sendArrival_regions (s : State) (src : Agent) (a : Arrival) : (s.sendArrival src a).regions = s.regions := rfl
@[simp] theorem State.sendArrival_cores (s : State) (src : Agent) (a : Arrival) : (s.sendArrival src a).cores = s.cores := rfl
@[simp] theorem State.sendArrival_clusters (s : State) (src : Agent) (a : Arrival) : (s.sendArrival src a).clusters = s.clusters := rfl
@[simp] theorem State.sendArrival_dies (s : State) (src : Agent) (a : Arrival) : (s.sendArrival src a).dies = s.dies := rfl
@[simp] theorem State.sendArrival_slices (s : State) (src : Agent) (a : Arrival) : (s.sendArrival src a).slices = s.slices := rfl
@[simp] theorem State.sendArrival_mem (s : State) (src : Agent) (a : Arrival) : (s.sendArrival src a).mem = s.mem := rfl
@[simp] theorem State.sendArrival_links (s : State) (src : Agent) (a : Arrival) : (s.sendArrival src a).links = s.links := rfl
@[simp] theorem State.sendArrival_syncs (s : State) (src : Agent) (a : Arrival) : (s.sendArrival src a).syncs = s.syncs := rfl
@[simp] theorem State.sendArrival_syncNext (s : State) (src : Agent) (a : Arrival) : (s.sendArrival src a).syncNext = s.syncNext := rfl
@[simp] theorem State.sendArrival_stall (s : State) (src : Agent) (a : Arrival) : (s.sendArrival src a).stall = s.stall := rfl

/-! ### signal -/

@[simp] theorem State.signal_sched (s : State) (src : Agent) (r : Ref) (code cause prog : Nat) : (s.signal src r code cause prog).sched = s.sched := rfl
@[simp] theorem State.signal_cur (s : State) (src : Agent) (r : Ref) (code cause prog : Nat) : (s.signal src r code cause prog).cur = s.cur := rfl
@[simp] theorem State.signal_draws (s : State) (src : Agent) (r : Ref) (code cause prog : Nat) : (s.signal src r code cause prog).draws = s.draws := rfl
@[simp] theorem State.signal_cycles (s : State) (src : Agent) (r : Ref) (code cause prog : Nat) : (s.signal src r code cause prog).cycles = s.cycles := rfl
@[simp] theorem State.signal_fw (s : State) (src : Agent) (r : Ref) (code cause prog : Nat) : (s.signal src r code cause prog).fw = s.fw := rfl
@[simp] theorem State.signal_port (s : State) (src : Agent) (r : Ref) (code cause prog : Nat) : (s.signal src r code cause prog).port = s.port := rfl
@[simp] theorem State.signal_queues (s : State) (src : Agent) (r : Ref) (code cause prog : Nat) : (s.signal src r code cause prog).queues = s.queues := rfl
@[simp] theorem State.signal_regions (s : State) (src : Agent) (r : Ref) (code cause prog : Nat) : (s.signal src r code cause prog).regions = s.regions := rfl
@[simp] theorem State.signal_cores (s : State) (src : Agent) (r : Ref) (code cause prog : Nat) : (s.signal src r code cause prog).cores = s.cores := rfl
@[simp] theorem State.signal_clusters (s : State) (src : Agent) (r : Ref) (code cause prog : Nat) : (s.signal src r code cause prog).clusters = s.clusters := rfl
@[simp] theorem State.signal_dies (s : State) (src : Agent) (r : Ref) (code cause prog : Nat) : (s.signal src r code cause prog).dies = s.dies := rfl
@[simp] theorem State.signal_slices (s : State) (src : Agent) (r : Ref) (code cause prog : Nat) : (s.signal src r code cause prog).slices = s.slices := rfl
@[simp] theorem State.signal_mem (s : State) (src : Agent) (r : Ref) (code cause prog : Nat) : (s.signal src r code cause prog).mem = s.mem := rfl
@[simp] theorem State.signal_links (s : State) (src : Agent) (r : Ref) (code cause prog : Nat) : (s.signal src r code cause prog).links = s.links := rfl
@[simp] theorem State.signal_syncs (s : State) (src : Agent) (r : Ref) (code cause prog : Nat) : (s.signal src r code cause prog).syncs = s.syncs := rfl
@[simp] theorem State.signal_syncNext (s : State) (src : Agent) (r : Ref) (code cause prog : Nat) : (s.signal src r code cause prog).syncNext = s.syncNext := rfl
@[simp] theorem State.signal_stall (s : State) (src : Agent) (r : Ref) (code cause prog : Nat) : (s.signal src r code cause prog).stall = s.stall := rfl

/-! ### emit -/

@[simp] theorem State.emit_sched (s : State) (a b n : Nat) : (s.emit a b n).sched = s.sched := rfl
@[simp] theorem State.emit_cur (s : State) (a b n : Nat) : (s.emit a b n).cur = s.cur := rfl
@[simp] theorem State.emit_draws (s : State) (a b n : Nat) : (s.emit a b n).draws = s.draws := rfl
@[simp] theorem State.emit_cycles (s : State) (a b n : Nat) : (s.emit a b n).cycles = s.cycles := rfl
@[simp] theorem State.emit_fw (s : State) (a b n : Nat) : (s.emit a b n).fw = s.fw := rfl
@[simp] theorem State.emit_port (s : State) (a b n : Nat) : (s.emit a b n).port = s.port := rfl
@[simp] theorem State.emit_queues (s : State) (a b n : Nat) : (s.emit a b n).queues = s.queues := rfl
@[simp] theorem State.emit_regions (s : State) (a b n : Nat) : (s.emit a b n).regions = s.regions := rfl
@[simp] theorem State.emit_clusters (s : State) (a b n : Nat) : (s.emit a b n).clusters = s.clusters := rfl
@[simp] theorem State.emit_dies (s : State) (a b n : Nat) : (s.emit a b n).dies = s.dies := rfl
@[simp] theorem State.emit_slices (s : State) (a b n : Nat) : (s.emit a b n).slices = s.slices := rfl
@[simp] theorem State.emit_mem (s : State) (a b n : Nat) : (s.emit a b n).mem = s.mem := rfl
@[simp] theorem State.emit_links (s : State) (a b n : Nat) : (s.emit a b n).links = s.links := rfl
@[simp] theorem State.emit_syncs (s : State) (a b n : Nat) : (s.emit a b n).syncs = s.syncs := rfl
@[simp] theorem State.emit_syncNext (s : State) (a b n : Nat) : (s.emit a b n).syncNext = s.syncNext := rfl
@[simp] theorem State.emit_stall (s : State) (a b n : Nat) : (s.emit a b n).stall = s.stall := rfl
@[simp] theorem State.emit_msgs (s : State) (a b n : Nat) : (s.emit a b n).msgs = s.msgs := rfl

/-! ### scrWrite0 -/

@[simp] theorem State.scrWrite0_sched (s : State) (c a : Nat) (bs : List Byte) : (s.scrWrite0 c a bs).sched = s.sched := rfl
@[simp] theorem State.scrWrite0_cur (s : State) (c a : Nat) (bs : List Byte) : (s.scrWrite0 c a bs).cur = s.cur := rfl
@[simp] theorem State.scrWrite0_draws (s : State) (c a : Nat) (bs : List Byte) : (s.scrWrite0 c a bs).draws = s.draws := rfl
@[simp] theorem State.scrWrite0_cycles (s : State) (c a : Nat) (bs : List Byte) : (s.scrWrite0 c a bs).cycles = s.cycles := rfl
@[simp] theorem State.scrWrite0_fw (s : State) (c a : Nat) (bs : List Byte) : (s.scrWrite0 c a bs).fw = s.fw := rfl
@[simp] theorem State.scrWrite0_port (s : State) (c a : Nat) (bs : List Byte) : (s.scrWrite0 c a bs).port = s.port := rfl
@[simp] theorem State.scrWrite0_queues (s : State) (c a : Nat) (bs : List Byte) : (s.scrWrite0 c a bs).queues = s.queues := rfl
@[simp] theorem State.scrWrite0_regions (s : State) (c a : Nat) (bs : List Byte) : (s.scrWrite0 c a bs).regions = s.regions := rfl
@[simp] theorem State.scrWrite0_clusters (s : State) (c a : Nat) (bs : List Byte) : (s.scrWrite0 c a bs).clusters = s.clusters := rfl
@[simp] theorem State.scrWrite0_dies (s : State) (c a : Nat) (bs : List Byte) : (s.scrWrite0 c a bs).dies = s.dies := rfl
@[simp] theorem State.scrWrite0_slices (s : State) (c a : Nat) (bs : List Byte) : (s.scrWrite0 c a bs).slices = s.slices := rfl
@[simp] theorem State.scrWrite0_mem (s : State) (c a : Nat) (bs : List Byte) : (s.scrWrite0 c a bs).mem = s.mem := rfl
@[simp] theorem State.scrWrite0_links (s : State) (c a : Nat) (bs : List Byte) : (s.scrWrite0 c a bs).links = s.links := rfl
@[simp] theorem State.scrWrite0_syncs (s : State) (c a : Nat) (bs : List Byte) : (s.scrWrite0 c a bs).syncs = s.syncs := rfl
@[simp] theorem State.scrWrite0_syncNext (s : State) (c a : Nat) (bs : List Byte) : (s.scrWrite0 c a bs).syncNext = s.syncNext := rfl
@[simp] theorem State.scrWrite0_stall (s : State) (c a : Nat) (bs : List Byte) : (s.scrWrite0 c a bs).stall = s.stall := rfl
@[simp] theorem State.scrWrite0_msgs (s : State) (c a : Nat) (bs : List Byte) : (s.scrWrite0 c a bs).msgs = s.msgs := rfl

/-! ### post -/

@[simp] theorem State.post_sched (s : State) (c : Nat) (t : Bool) (a1 a2 a3 a4 a5 a6 a7 : Nat) : (s.post c t a1 a2 a3 a4 a5 a6 a7).sched = s.sched := rfl
@[simp] theorem State.post_cur (s : State) (c : Nat) (t : Bool) (a1 a2 a3 a4 a5 a6 a7 : Nat) : (s.post c t a1 a2 a3 a4 a5 a6 a7).cur = s.cur := rfl
@[simp] theorem State.post_draws (s : State) (c : Nat) (t : Bool) (a1 a2 a3 a4 a5 a6 a7 : Nat) : (s.post c t a1 a2 a3 a4 a5 a6 a7).draws = s.draws := rfl
@[simp] theorem State.post_cycles (s : State) (c : Nat) (t : Bool) (a1 a2 a3 a4 a5 a6 a7 : Nat) : (s.post c t a1 a2 a3 a4 a5 a6 a7).cycles = s.cycles := rfl
@[simp] theorem State.post_fw (s : State) (c : Nat) (t : Bool) (a1 a2 a3 a4 a5 a6 a7 : Nat) : (s.post c t a1 a2 a3 a4 a5 a6 a7).fw = s.fw := rfl
@[simp] theorem State.post_port (s : State) (c : Nat) (t : Bool) (a1 a2 a3 a4 a5 a6 a7 : Nat) : (s.post c t a1 a2 a3 a4 a5 a6 a7).port = s.port := rfl
@[simp] theorem State.post_queues (s : State) (c : Nat) (t : Bool) (a1 a2 a3 a4 a5 a6 a7 : Nat) : (s.post c t a1 a2 a3 a4 a5 a6 a7).queues = s.queues := rfl
@[simp] theorem State.post_regions (s : State) (c : Nat) (t : Bool) (a1 a2 a3 a4 a5 a6 a7 : Nat) : (s.post c t a1 a2 a3 a4 a5 a6 a7).regions = s.regions := rfl
@[simp] theorem State.post_clusters (s : State) (c : Nat) (t : Bool) (a1 a2 a3 a4 a5 a6 a7 : Nat) : (s.post c t a1 a2 a3 a4 a5 a6 a7).clusters = s.clusters := rfl
@[simp] theorem State.post_dies (s : State) (c : Nat) (t : Bool) (a1 a2 a3 a4 a5 a6 a7 : Nat) : (s.post c t a1 a2 a3 a4 a5 a6 a7).dies = s.dies := rfl
@[simp] theorem State.post_slices (s : State) (c : Nat) (t : Bool) (a1 a2 a3 a4 a5 a6 a7 : Nat) : (s.post c t a1 a2 a3 a4 a5 a6 a7).slices = s.slices := rfl
@[simp] theorem State.post_mem (s : State) (c : Nat) (t : Bool) (a1 a2 a3 a4 a5 a6 a7 : Nat) : (s.post c t a1 a2 a3 a4 a5 a6 a7).mem = s.mem := rfl
@[simp] theorem State.post_links (s : State) (c : Nat) (t : Bool) (a1 a2 a3 a4 a5 a6 a7 : Nat) : (s.post c t a1 a2 a3 a4 a5 a6 a7).links = s.links := rfl
@[simp] theorem State.post_syncs (s : State) (c : Nat) (t : Bool) (a1 a2 a3 a4 a5 a6 a7 : Nat) : (s.post c t a1 a2 a3 a4 a5 a6 a7).syncs = s.syncs := rfl
@[simp] theorem State.post_syncNext (s : State) (c : Nat) (t : Bool) (a1 a2 a3 a4 a5 a6 a7 : Nat) : (s.post c t a1 a2 a3 a4 a5 a6 a7).syncNext = s.syncNext := rfl
@[simp] theorem State.post_stall (s : State) (c : Nat) (t : Bool) (a1 a2 a3 a4 a5 a6 a7 : Nat) : (s.post c t a1 a2 a3 a4 a5 a6 a7).stall = s.stall := rfl
@[simp] theorem State.post_msgs (s : State) (c : Nat) (t : Bool) (a1 a2 a3 a4 a5 a6 a7 : Nat) : (s.post c t a1 a2 a3 a4 a5 a6 a7).msgs = s.msgs := rfl

/-! ### Units after an update of a unit -/

@[simp] theorem State.core_setCore_self (s : State) (i : Nat) (v : Core) : (s.setCore i v).core i = v := Sparse.get_set_self _ _ _ _
theorem State.core_setCore_ne {s : State} {i j : Nat} {v : Core} (h : j ≠ i) : (s.setCore i v).core j = s.core j := Sparse.get_set_ne h
@[simp] theorem State.slice_setCore (s : State) (i j : Nat) (v : Core) : (s.setCore i v).slice j = s.slice j := rfl
@[simp] theorem State.cluster_setCore (s : State) (i j : Nat) (v : Core) : (s.setCore i v).cluster j = s.cluster j := rfl
@[simp] theorem State.die_setCore (s : State) (i j : Nat) (v : Core) : (s.setCore i v).die j = s.die j := rfl
@[simp] theorem State.region_setCore (s : State) (i j : Nat) (v : Core) : (s.setCore i v).region j = s.region j := rfl
@[simp] theorem State.queue_setCore (s : State) (i j : Nat) (v : Core) : (s.setCore i v).queue j = s.queue j := rfl
@[simp] theorem State.slice_setSlice_self (s : State) (i : Nat) (v : Slice) : (s.setSlice i v).slice i = v := Sparse.get_set_self _ _ _ _
theorem State.slice_setSlice_ne {s : State} {i j : Nat} {v : Slice} (h : j ≠ i) : (s.setSlice i v).slice j = s.slice j := Sparse.get_set_ne h
@[simp] theorem State.core_setSlice (s : State) (i j : Nat) (v : Slice) : (s.setSlice i v).core j = s.core j := rfl
@[simp] theorem State.cluster_setSlice (s : State) (i j : Nat) (v : Slice) : (s.setSlice i v).cluster j = s.cluster j := rfl
@[simp] theorem State.die_setSlice (s : State) (i j : Nat) (v : Slice) : (s.setSlice i v).die j = s.die j := rfl
@[simp] theorem State.region_setSlice (s : State) (i j : Nat) (v : Slice) : (s.setSlice i v).region j = s.region j := rfl
@[simp] theorem State.queue_setSlice (s : State) (i j : Nat) (v : Slice) : (s.setSlice i v).queue j = s.queue j := rfl
@[simp] theorem State.cluster_setCluster_self (s : State) (i : Nat) (v : Cluster) : (s.setCluster i v).cluster i = v := Sparse.get_set_self _ _ _ _
theorem State.cluster_setCluster_ne {s : State} {i j : Nat} {v : Cluster} (h : j ≠ i) : (s.setCluster i v).cluster j = s.cluster j := Sparse.get_set_ne h
@[simp] theorem State.core_setCluster (s : State) (i j : Nat) (v : Cluster) : (s.setCluster i v).core j = s.core j := rfl
@[simp] theorem State.slice_setCluster (s : State) (i j : Nat) (v : Cluster) : (s.setCluster i v).slice j = s.slice j := rfl
@[simp] theorem State.die_setCluster (s : State) (i j : Nat) (v : Cluster) : (s.setCluster i v).die j = s.die j := rfl
@[simp] theorem State.region_setCluster (s : State) (i j : Nat) (v : Cluster) : (s.setCluster i v).region j = s.region j := rfl
@[simp] theorem State.queue_setCluster (s : State) (i j : Nat) (v : Cluster) : (s.setCluster i v).queue j = s.queue j := rfl
@[simp] theorem State.die_setDie_self (s : State) (i : Nat) (v : Die) : (s.setDie i v).die i = v := Sparse.get_set_self _ _ _ _
theorem State.die_setDie_ne {s : State} {i j : Nat} {v : Die} (h : j ≠ i) : (s.setDie i v).die j = s.die j := Sparse.get_set_ne h
@[simp] theorem State.core_setDie (s : State) (i j : Nat) (v : Die) : (s.setDie i v).core j = s.core j := rfl
@[simp] theorem State.slice_setDie (s : State) (i j : Nat) (v : Die) : (s.setDie i v).slice j = s.slice j := rfl
@[simp] theorem State.cluster_setDie (s : State) (i j : Nat) (v : Die) : (s.setDie i v).cluster j = s.cluster j := rfl
@[simp] theorem State.region_setDie (s : State) (i j : Nat) (v : Die) : (s.setDie i v).region j = s.region j := rfl
@[simp] theorem State.queue_setDie (s : State) (i j : Nat) (v : Die) : (s.setDie i v).queue j = s.queue j := rfl
@[simp] theorem State.region_setRegion_self (s : State) (i : Nat) (v : Region) : (s.setRegion i v).region i = v := Sparse.get_set_self _ _ _ _
theorem State.region_setRegion_ne {s : State} {i j : Nat} {v : Region} (h : j ≠ i) : (s.setRegion i v).region j = s.region j := Sparse.get_set_ne h
@[simp] theorem State.core_setRegion (s : State) (i j : Nat) (v : Region) : (s.setRegion i v).core j = s.core j := rfl
@[simp] theorem State.slice_setRegion (s : State) (i j : Nat) (v : Region) : (s.setRegion i v).slice j = s.slice j := rfl
@[simp] theorem State.cluster_setRegion (s : State) (i j : Nat) (v : Region) : (s.setRegion i v).cluster j = s.cluster j := rfl
@[simp] theorem State.die_setRegion (s : State) (i j : Nat) (v : Region) : (s.setRegion i v).die j = s.die j := rfl
@[simp] theorem State.queue_setRegion (s : State) (i j : Nat) (v : Region) : (s.setRegion i v).queue j = s.queue j := rfl
@[simp] theorem State.queue_setQueue_self (s : State) (i : Nat) (v : HQueue) : (s.setQueue i v).queue i = v := Sparse.get_set_self _ _ _ _
theorem State.queue_setQueue_ne {s : State} {i j : Nat} {v : HQueue} (h : j ≠ i) : (s.setQueue i v).queue j = s.queue j := Sparse.get_set_ne h
@[simp] theorem State.core_setQueue (s : State) (i j : Nat) (v : HQueue) : (s.setQueue i v).core j = s.core j := rfl
@[simp] theorem State.slice_setQueue (s : State) (i j : Nat) (v : HQueue) : (s.setQueue i v).slice j = s.slice j := rfl
@[simp] theorem State.cluster_setQueue (s : State) (i j : Nat) (v : HQueue) : (s.setQueue i v).cluster j = s.cluster j := rfl
@[simp] theorem State.die_setQueue (s : State) (i j : Nat) (v : HQueue) : (s.setQueue i v).die j = s.die j := rfl
@[simp] theorem State.region_setQueue (s : State) (i j : Nat) (v : HQueue) : (s.setQueue i v).region j = s.region j := rfl
@[simp] theorem State.core_modCore_self (s : State) (c : Nat) (f : Core → Core) : (s.modCore c f).core c = f (s.core c) :=
  State.core_setCore_self _ _ _
theorem State.core_modCore_ne {s : State} {c d : Nat} {f : Core → Core} (h : d ≠ c) : (s.modCore c f).core d = s.core d :=
  State.core_setCore_ne h
@[simp] theorem State.slice_modCore (s : State) (c : Nat) (f : Core → Core) (j : Nat) : (s.modCore c f).slice j = s.slice j := rfl
@[simp] theorem State.cluster_modCore (s : State) (c : Nat) (f : Core → Core) (j : Nat) : (s.modCore c f).cluster j = s.cluster j := rfl
@[simp] theorem State.die_modCore (s : State) (c : Nat) (f : Core → Core) (j : Nat) : (s.modCore c f).die j = s.die j := rfl
@[simp] theorem State.region_modCore (s : State) (c : Nat) (f : Core → Core) (j : Nat) : (s.modCore c f).region j = s.region j := rfl
@[simp] theorem State.queue_modCore (s : State) (c : Nat) (f : Core → Core) (j : Nat) : (s.modCore c f).queue j = s.queue j := rfl
@[simp] theorem State.slice_modMe (s : State) (f : Core → Core) (j : Nat) : (s.modMe f).slice j = s.slice j := rfl
@[simp] theorem State.cluster_modMe (s : State) (f : Core → Core) (j : Nat) : (s.modMe f).cluster j = s.cluster j := rfl
@[simp] theorem State.die_modMe (s : State) (f : Core → Core) (j : Nat) : (s.modMe f).die j = s.die j := rfl
@[simp] theorem State.region_modMe (s : State) (f : Core → Core) (j : Nat) : (s.modMe f).region j = s.region j := rfl
@[simp] theorem State.queue_modMe (s : State) (f : Core → Core) (j : Nat) : (s.modMe f).queue j = s.queue j := rfl
@[simp] theorem State.slice_advance (s : State) (n : Nat) (j : Nat) : (s.advance n).slice j = s.slice j := rfl
@[simp] theorem State.cluster_advance (s : State) (n : Nat) (j : Nat) : (s.advance n).cluster j = s.cluster j := rfl
@[simp] theorem State.die_advance (s : State) (n : Nat) (j : Nat) : (s.advance n).die j = s.die j := rfl
@[simp] theorem State.region_advance (s : State) (n : Nat) (j : Nat) : (s.advance n).region j = s.region j := rfl
@[simp] theorem State.queue_advance (s : State) (n : Nat) (j : Nat) : (s.advance n).queue j = s.queue j := rfl
@[simp] theorem State.core_send (s : State) (m : Msg) (j : Nat) : (s.send m).core j = s.core j := rfl
@[simp] theorem State.slice_send (s : State) (m : Msg) (j : Nat) : (s.send m).slice j = s.slice j := rfl
@[simp] theorem State.cluster_send (s : State) (m : Msg) (j : Nat) : (s.send m).cluster j = s.cluster j := rfl
@[simp] theorem State.die_send (s : State) (m : Msg) (j : Nat) : (s.send m).die j = s.die j := rfl
@[simp] theorem State.region_send (s : State) (m : Msg) (j : Nat) : (s.send m).region j = s.region j := rfl
@[simp] theorem State.queue_send (s : State) (m : Msg) (j : Nat) : (s.send m).queue j = s.queue j := rfl
@[simp] theorem State.core_dropMsg (s : State) (k : Nat) (j : Nat) : (s.dropMsg k).core j = s.core j := rfl
@[simp] theorem State.slice_dropMsg (s : State) (k : Nat) (j : Nat) : (s.dropMsg k).slice j = s.slice j := rfl
@[simp] theorem State.cluster_dropMsg (s : State) (k : Nat) (j : Nat) : (s.dropMsg k).cluster j = s.cluster j := rfl
@[simp] theorem State.die_dropMsg (s : State) (k : Nat) (j : Nat) : (s.dropMsg k).die j = s.die j := rfl
@[simp] theorem State.region_dropMsg (s : State) (k : Nat) (j : Nat) : (s.dropMsg k).region j = s.region j := rfl
@[simp] theorem State.queue_dropMsg (s : State) (k : Nat) (j : Nat) : (s.dropMsg k).queue j = s.queue j := rfl
@[simp] theorem State.slice_wake (s : State) (c j : Nat) : (s.wake c).slice j = s.slice j := rfl
@[simp] theorem State.slice_landMsg (s : State) (k c j : Nat) : (s.landMsg k c).slice j = s.slice j := rfl
@[simp] theorem State.cluster_wake (s : State) (c j : Nat) : (s.wake c).cluster j = s.cluster j := rfl
@[simp] theorem State.cluster_landMsg (s : State) (k c j : Nat) : (s.landMsg k c).cluster j = s.cluster j := rfl
@[simp] theorem State.die_wake (s : State) (c j : Nat) : (s.wake c).die j = s.die j := rfl
@[simp] theorem State.die_landMsg (s : State) (k c j : Nat) : (s.landMsg k c).die j = s.die j := rfl
@[simp] theorem State.region_wake (s : State) (c j : Nat) : (s.wake c).region j = s.region j := rfl
@[simp] theorem State.region_landMsg (s : State) (k c j : Nat) : (s.landMsg k c).region j = s.region j := rfl
@[simp] theorem State.queue_wake (s : State) (c j : Nat) : (s.wake c).queue j = s.queue j := rfl
@[simp] theorem State.queue_landMsg (s : State) (k c j : Nat) : (s.landMsg k c).queue j = s.queue j := rfl
@[simp] theorem State.core_logError (s : State) (k a : Nat) (j : Nat) : (s.logError k a).core j = s.core j := rfl
@[simp] theorem State.slice_logError (s : State) (k a : Nat) (j : Nat) : (s.logError k a).slice j = s.slice j := rfl
@[simp] theorem State.cluster_logError (s : State) (k a : Nat) (j : Nat) : (s.logError k a).cluster j = s.cluster j := rfl
@[simp] theorem State.die_logError (s : State) (k a : Nat) (j : Nat) : (s.logError k a).die j = s.die j := rfl
@[simp] theorem State.region_logError (s : State) (k a : Nat) (j : Nat) : (s.logError k a).region j = s.region j := rfl
@[simp] theorem State.queue_logError (s : State) (k a : Nat) (j : Nat) : (s.logError k a).queue j = s.queue j := rfl
@[simp] theorem State.slice_trap (s : State) (cause val : Nat) (j : Nat) : (s.trap cause val).slice j = s.slice j := rfl
@[simp] theorem State.cluster_trap (s : State) (cause val : Nat) (j : Nat) : (s.trap cause val).cluster j = s.cluster j := rfl
@[simp] theorem State.die_trap (s : State) (cause val : Nat) (j : Nat) : (s.trap cause val).die j = s.die j := rfl
@[simp] theorem State.region_trap (s : State) (cause val : Nat) (j : Nat) : (s.trap cause val).region j = s.region j := rfl
@[simp] theorem State.queue_trap (s : State) (cause val : Nat) (j : Nat) : (s.trap cause val).queue j = s.queue j := rfl
@[simp] theorem State.core_sendArrival (s : State) (src : Agent) (a : Arrival) (j : Nat) : (s.sendArrival src a).core j = s.core j := rfl
@[simp] theorem State.slice_sendArrival (s : State) (src : Agent) (a : Arrival) (j : Nat) : (s.sendArrival src a).slice j = s.slice j := rfl
@[simp] theorem State.cluster_sendArrival (s : State) (src : Agent) (a : Arrival) (j : Nat) : (s.sendArrival src a).cluster j = s.cluster j := rfl
@[simp] theorem State.die_sendArrival (s : State) (src : Agent) (a : Arrival) (j : Nat) : (s.sendArrival src a).die j = s.die j := rfl
@[simp] theorem State.region_sendArrival (s : State) (src : Agent) (a : Arrival) (j : Nat) : (s.sendArrival src a).region j = s.region j := rfl
@[simp] theorem State.queue_sendArrival (s : State) (src : Agent) (a : Arrival) (j : Nat) : (s.sendArrival src a).queue j = s.queue j := rfl
@[simp] theorem State.core_signal (s : State) (src : Agent) (r : Ref) (code cause prog : Nat) (j : Nat) : (s.signal src r code cause prog).core j = s.core j := rfl
@[simp] theorem State.slice_signal (s : State) (src : Agent) (r : Ref) (code cause prog : Nat) (j : Nat) : (s.signal src r code cause prog).slice j = s.slice j := rfl
@[simp] theorem State.cluster_signal (s : State) (src : Agent) (r : Ref) (code cause prog : Nat) (j : Nat) : (s.signal src r code cause prog).cluster j = s.cluster j := rfl
@[simp] theorem State.die_signal (s : State) (src : Agent) (r : Ref) (code cause prog : Nat) (j : Nat) : (s.signal src r code cause prog).die j = s.die j := rfl
@[simp] theorem State.region_signal (s : State) (src : Agent) (r : Ref) (code cause prog : Nat) (j : Nat) : (s.signal src r code cause prog).region j = s.region j := rfl
@[simp] theorem State.queue_signal (s : State) (src : Agent) (r : Ref) (code cause prog : Nat) (j : Nat) : (s.signal src r code cause prog).queue j = s.queue j := rfl
@[simp] theorem State.slice_emit (s : State) (a b n : Nat) (j : Nat) : (s.emit a b n).slice j = s.slice j := rfl
@[simp] theorem State.cluster_emit (s : State) (a b n : Nat) (j : Nat) : (s.emit a b n).cluster j = s.cluster j := rfl
@[simp] theorem State.die_emit (s : State) (a b n : Nat) (j : Nat) : (s.emit a b n).die j = s.die j := rfl
@[simp] theorem State.region_emit (s : State) (a b n : Nat) (j : Nat) : (s.emit a b n).region j = s.region j := rfl
@[simp] theorem State.queue_emit (s : State) (a b n : Nat) (j : Nat) : (s.emit a b n).queue j = s.queue j := rfl
@[simp] theorem State.slice_scrWrite0 (s : State) (c a : Nat) (bs : List Byte) (j : Nat) : (s.scrWrite0 c a bs).slice j = s.slice j := rfl
@[simp] theorem State.cluster_scrWrite0 (s : State) (c a : Nat) (bs : List Byte) (j : Nat) : (s.scrWrite0 c a bs).cluster j = s.cluster j := rfl
@[simp] theorem State.die_scrWrite0 (s : State) (c a : Nat) (bs : List Byte) (j : Nat) : (s.scrWrite0 c a bs).die j = s.die j := rfl
@[simp] theorem State.region_scrWrite0 (s : State) (c a : Nat) (bs : List Byte) (j : Nat) : (s.scrWrite0 c a bs).region j = s.region j := rfl
@[simp] theorem State.queue_scrWrite0 (s : State) (c a : Nat) (bs : List Byte) (j : Nat) : (s.scrWrite0 c a bs).queue j = s.queue j := rfl
@[simp] theorem State.slice_post (s : State) (c : Nat) (t : Bool) (a1 a2 a3 a4 a5 a6 a7 : Nat) (j : Nat) : (s.post c t a1 a2 a3 a4 a5 a6 a7).slice j = s.slice j := rfl
@[simp] theorem State.cluster_post (s : State) (c : Nat) (t : Bool) (a1 a2 a3 a4 a5 a6 a7 : Nat) (j : Nat) : (s.post c t a1 a2 a3 a4 a5 a6 a7).cluster j = s.cluster j := rfl
@[simp] theorem State.die_post (s : State) (c : Nat) (t : Bool) (a1 a2 a3 a4 a5 a6 a7 : Nat) (j : Nat) : (s.post c t a1 a2 a3 a4 a5 a6 a7).die j = s.die j := rfl
@[simp] theorem State.region_post (s : State) (c : Nat) (t : Bool) (a1 a2 a3 a4 a5 a6 a7 : Nat) (j : Nat) : (s.post c t a1 a2 a3 a4 a5 a6 a7).region j = s.region j := rfl
@[simp] theorem State.queue_post (s : State) (c : Nat) (t : Bool) (a1 a2 a3 a4 a5 a6 a7 : Nat) (j : Nat) : (s.post c t a1 a2 a3 a4 a5 a6 a7).queue j = s.queue j := rfl

/-! ### The moving core -/

@[simp] theorem State.me_modMe (s : State) (f : Core → Core) : (s.modMe f).me = f s.me := State.core_modCore_self _ _ _
@[simp] theorem State.me_advance (s : State) (n : Nat) :
    (s.advance n).me = s.me.modPl fun p => { p with pc := p.pc + n } := State.me_modMe _ _
@[simp] theorem State.me_send (s : State) (m : Msg) : (s.send m).me = s.me := rfl
@[simp] theorem State.me_trap (s : State) (cause val : Nat) :
    (s.trap cause val).me =
      s.me.takeTrap cause val s.me.pl.pc false false false 63 (if s.me.pl.live then s.me.pl.handle else 0) := State.me_modMe _ _
theorem State.core_modMe_ne {s : State} {f : Core → Core} {c : Nat} (h : c ≠ s.cur) : (s.modMe f).core c = s.core c :=
  State.core_modCore_ne h
theorem State.core_advance_ne {s : State} {n c : Nat} (h : c ≠ s.cur) : (s.advance n).core c = s.core c :=
  State.core_modMe_ne h
theorem State.core_trap_ne {s : State} {a b c : Nat} (h : c ≠ s.cur) : (s.trap a b).core c = s.core c :=
  State.core_modMe_ne h

/-! ### Core.writeG -/

@[simp] theorem Core.writeG_pl (c : Core) (r : Nat) (v : Word) : (c.writeG r v).pl = c.pl := by unfold Core.writeG; split <;> rfl
@[simp] theorem Core.writeG_spr (c : Core) (r : Nat) (v : Word) : (c.writeG r v).spr = c.spr := by unfold Core.writeG; split <;> rfl
@[simp] theorem Core.writeG_sup (c : Core) (r : Nat) (v : Word) : (c.writeG r v).sup = c.sup := by unfold Core.writeG; split <;> rfl
@[simp] theorem Core.writeG_scr (c : Core) (r : Nat) (v : Word) : (c.writeG r v).scr = c.scr := by unfold Core.writeG; split <;> rfl
@[simp] theorem Core.writeG_fe (c : Core) (r : Nat) (v : Word) : (c.writeG r v).fe = c.fe := by unfold Core.writeG; split <;> rfl
@[simp] theorem Core.writeG_eng (c : Core) (r : Nat) (v : Word) : (c.writeG r v).eng = c.eng := by unfold Core.writeG; split <;> rfl
@[simp] theorem Core.writeG_net (c : Core) (r : Nat) (v : Word) : (c.writeG r v).net = c.net := by unfold Core.writeG; split <;> rfl

/-! ### Core.writeP -/

@[simp] theorem Core.writeP_pl (c : Core) (r : Nat) (v : Bool) : (c.writeP r v).pl = c.pl := by unfold Core.writeP; split <;> rfl
@[simp] theorem Core.writeP_spr (c : Core) (r : Nat) (v : Bool) : (c.writeP r v).spr = c.spr := by unfold Core.writeP; split <;> rfl
@[simp] theorem Core.writeP_sup (c : Core) (r : Nat) (v : Bool) : (c.writeP r v).sup = c.sup := by unfold Core.writeP; split <;> rfl
@[simp] theorem Core.writeP_scr (c : Core) (r : Nat) (v : Bool) : (c.writeP r v).scr = c.scr := by unfold Core.writeP; split <;> rfl
@[simp] theorem Core.writeP_fe (c : Core) (r : Nat) (v : Bool) : (c.writeP r v).fe = c.fe := by unfold Core.writeP; split <;> rfl
@[simp] theorem Core.writeP_eng (c : Core) (r : Nat) (v : Bool) : (c.writeP r v).eng = c.eng := by unfold Core.writeP; split <;> rfl
@[simp] theorem Core.writeP_net (c : Core) (r : Nat) (v : Bool) : (c.writeP r v).net = c.net := by unfold Core.writeP; split <;> rfl

/-! ### Core.writeF -/

@[simp] theorem Core.writeF_pl (c : Core) (r : Nat) (v : Line) : (c.writeF r v).pl = c.pl := rfl
@[simp] theorem Core.writeF_spr (c : Core) (r : Nat) (v : Line) : (c.writeF r v).spr = c.spr := rfl
@[simp] theorem Core.writeF_sup (c : Core) (r : Nat) (v : Line) : (c.writeF r v).sup = c.sup := rfl
@[simp] theorem Core.writeF_scr (c : Core) (r : Nat) (v : Line) : (c.writeF r v).scr = c.scr := rfl
@[simp] theorem Core.writeF_fe (c : Core) (r : Nat) (v : Line) : (c.writeF r v).fe = c.fe := rfl
@[simp] theorem Core.writeF_eng (c : Core) (r : Nat) (v : Line) : (c.writeF r v).eng = c.eng := rfl
@[simp] theorem Core.writeF_net (c : Core) (r : Nat) (v : Line) : (c.writeF r v).net = c.net := rfl

/-! ### Core.setStream -/

@[simp] theorem Core.setStream_pl (c : Core) (r : Nat) (v : Option Stream) : (c.setStream r v).pl = c.pl := rfl
@[simp] theorem Core.setStream_spr (c : Core) (r : Nat) (v : Option Stream) : (c.setStream r v).spr = c.spr := rfl
@[simp] theorem Core.setStream_sup (c : Core) (r : Nat) (v : Option Stream) : (c.setStream r v).sup = c.sup := rfl
@[simp] theorem Core.setStream_scr (c : Core) (r : Nat) (v : Option Stream) : (c.setStream r v).scr = c.scr := rfl
@[simp] theorem Core.setStream_fe (c : Core) (r : Nat) (v : Option Stream) : (c.setStream r v).fe = c.fe := rfl
@[simp] theorem Core.setStream_eng (c : Core) (r : Nat) (v : Option Stream) : (c.setStream r v).eng = c.eng := rfl
@[simp] theorem Core.setStream_net (c : Core) (r : Nat) (v : Option Stream) : (c.setStream r v).net = c.net := rfl

/-! ### Core.setAcc -/

@[simp] theorem Core.setAcc_pl (c : Core) (i : Nat) (v : Acc) : (c.setAcc i v).pl = c.pl := rfl
@[simp] theorem Core.setAcc_regs (c : Core) (i : Nat) (v : Acc) : (c.setAcc i v).regs = c.regs := rfl
@[simp] theorem Core.setAcc_spr (c : Core) (i : Nat) (v : Acc) : (c.setAcc i v).spr = c.spr := rfl
@[simp] theorem Core.setAcc_sup (c : Core) (i : Nat) (v : Acc) : (c.setAcc i v).sup = c.sup := rfl
@[simp] theorem Core.setAcc_scr (c : Core) (i : Nat) (v : Acc) : (c.setAcc i v).scr = c.scr := rfl
@[simp] theorem Core.setAcc_fe (c : Core) (i : Nat) (v : Acc) : (c.setAcc i v).fe = c.fe := rfl
@[simp] theorem Core.setAcc_net (c : Core) (i : Nat) (v : Acc) : (c.setAcc i v).net = c.net := rfl

/-! ### Core.setTd -/

@[simp] theorem Core.setTd_pl (c : Core) (i : Nat) (v : Word) : (c.setTd i v).pl = c.pl := rfl
@[simp] theorem Core.setTd_regs (c : Core) (i : Nat) (v : Word) : (c.setTd i v).regs = c.regs := rfl
@[simp] theorem Core.setTd_spr (c : Core) (i : Nat) (v : Word) : (c.setTd i v).spr = c.spr := rfl
@[simp] theorem Core.setTd_sup (c : Core) (i : Nat) (v : Word) : (c.setTd i v).sup = c.sup := rfl
@[simp] theorem Core.setTd_scr (c : Core) (i : Nat) (v : Word) : (c.setTd i v).scr = c.scr := rfl
@[simp] theorem Core.setTd_fe (c : Core) (i : Nat) (v : Word) : (c.setTd i v).fe = c.fe := rfl
@[simp] theorem Core.setTd_net (c : Core) (i : Nat) (v : Word) : (c.setTd i v).net = c.net := rfl

/-! ### Core.setShape -/

@[simp] theorem Core.setShape_pl (c : Core) (i : Nat) (v : ShapeEnt) : (c.setShape i v).pl = c.pl := rfl
@[simp] theorem Core.setShape_regs (c : Core) (i : Nat) (v : ShapeEnt) : (c.setShape i v).regs = c.regs := rfl
@[simp] theorem Core.setShape_spr (c : Core) (i : Nat) (v : ShapeEnt) : (c.setShape i v).spr = c.spr := rfl
@[simp] theorem Core.setShape_sup (c : Core) (i : Nat) (v : ShapeEnt) : (c.setShape i v).sup = c.sup := rfl
@[simp] theorem Core.setShape_scr (c : Core) (i : Nat) (v : ShapeEnt) : (c.setShape i v).scr = c.scr := rfl
@[simp] theorem Core.setShape_fe (c : Core) (i : Nat) (v : ShapeEnt) : (c.setShape i v).fe = c.fe := rfl
@[simp] theorem Core.setShape_net (c : Core) (i : Nat) (v : ShapeEnt) : (c.setShape i v).net = c.net := rfl

/-! ### Core.setLq -/

@[simp] theorem Core.setLq_pl (c : Core) (i : Nat) (v : LQueue) : (c.setLq i v).pl = c.pl := rfl
@[simp] theorem Core.setLq_regs (c : Core) (i : Nat) (v : LQueue) : (c.setLq i v).regs = c.regs := rfl
@[simp] theorem Core.setLq_spr (c : Core) (i : Nat) (v : LQueue) : (c.setLq i v).spr = c.spr := rfl
@[simp] theorem Core.setLq_sup (c : Core) (i : Nat) (v : LQueue) : (c.setLq i v).sup = c.sup := rfl
@[simp] theorem Core.setLq_scr (c : Core) (i : Nat) (v : LQueue) : (c.setLq i v).scr = c.scr := rfl
@[simp] theorem Core.setLq_fe (c : Core) (i : Nat) (v : LQueue) : (c.setLq i v).fe = c.fe := rfl
@[simp] theorem Core.setLq_eng (c : Core) (i : Nat) (v : LQueue) : (c.setLq i v).eng = c.eng := rfl

/-! ### Core.setFrame -/

@[simp] theorem Core.setFrame_pl (c : Core) (i : Nat) (v : FrameEnt) : (c.setFrame i v).pl = c.pl := rfl
@[simp] theorem Core.setFrame_regs (c : Core) (i : Nat) (v : FrameEnt) : (c.setFrame i v).regs = c.regs := rfl
@[simp] theorem Core.setFrame_spr (c : Core) (i : Nat) (v : FrameEnt) : (c.setFrame i v).spr = c.spr := rfl
@[simp] theorem Core.setFrame_sup (c : Core) (i : Nat) (v : FrameEnt) : (c.setFrame i v).sup = c.sup := rfl
@[simp] theorem Core.setFrame_scr (c : Core) (i : Nat) (v : FrameEnt) : (c.setFrame i v).scr = c.scr := rfl
@[simp] theorem Core.setFrame_eng (c : Core) (i : Nat) (v : FrameEnt) : (c.setFrame i v).eng = c.eng := rfl
@[simp] theorem Core.setFrame_net (c : Core) (i : Nat) (v : FrameEnt) : (c.setFrame i v).net = c.net := rfl

/-! ### Core.setJournal -/

@[simp] theorem Core.setJournal_pl (c : Core) (i : Nat) (v : JEntry) : (c.setJournal i v).pl = c.pl := rfl
@[simp] theorem Core.setJournal_regs (c : Core) (i : Nat) (v : JEntry) : (c.setJournal i v).regs = c.regs := rfl
@[simp] theorem Core.setJournal_spr (c : Core) (i : Nat) (v : JEntry) : (c.setJournal i v).spr = c.spr := rfl
@[simp] theorem Core.setJournal_sup (c : Core) (i : Nat) (v : JEntry) : (c.setJournal i v).sup = c.sup := rfl
@[simp] theorem Core.setJournal_scr (c : Core) (i : Nat) (v : JEntry) : (c.setJournal i v).scr = c.scr := rfl
@[simp] theorem Core.setJournal_fe (c : Core) (i : Nat) (v : JEntry) : (c.setJournal i v).fe = c.fe := rfl
@[simp] theorem Core.setJournal_eng (c : Core) (i : Nat) (v : JEntry) : (c.setJournal i v).eng = c.eng := rfl

/-! ### Core.modPl -/

@[simp] theorem Core.modPl_regs (c : Core) (f : Pipeline → Pipeline) : (c.modPl f).regs = c.regs := rfl
@[simp] theorem Core.modPl_spr (c : Core) (f : Pipeline → Pipeline) : (c.modPl f).spr = c.spr := rfl
@[simp] theorem Core.modPl_sup (c : Core) (f : Pipeline → Pipeline) : (c.modPl f).sup = c.sup := rfl
@[simp] theorem Core.modPl_scr (c : Core) (f : Pipeline → Pipeline) : (c.modPl f).scr = c.scr := rfl
@[simp] theorem Core.modPl_fe (c : Core) (f : Pipeline → Pipeline) : (c.modPl f).fe = c.fe := rfl
@[simp] theorem Core.modPl_eng (c : Core) (f : Pipeline → Pipeline) : (c.modPl f).eng = c.eng := rfl
@[simp] theorem Core.modPl_net (c : Core) (f : Pipeline → Pipeline) : (c.modPl f).net = c.net := rfl
@[simp] theorem Core.modPl_pl (c : Core) (f : Pipeline → Pipeline) : (c.modPl f).pl = f c.pl := rfl

/-! ### Core.modFe -/

@[simp] theorem Core.modFe_pl (c : Core) (f : FrameEng → FrameEng) : (c.modFe f).pl = c.pl := rfl
@[simp] theorem Core.modFe_regs (c : Core) (f : FrameEng → FrameEng) : (c.modFe f).regs = c.regs := rfl
@[simp] theorem Core.modFe_spr (c : Core) (f : FrameEng → FrameEng) : (c.modFe f).spr = c.spr := rfl
@[simp] theorem Core.modFe_sup (c : Core) (f : FrameEng → FrameEng) : (c.modFe f).sup = c.sup := rfl
@[simp] theorem Core.modFe_scr (c : Core) (f : FrameEng → FrameEng) : (c.modFe f).scr = c.scr := rfl
@[simp] theorem Core.modFe_eng (c : Core) (f : FrameEng → FrameEng) : (c.modFe f).eng = c.eng := rfl
@[simp] theorem Core.modFe_net (c : Core) (f : FrameEng → FrameEng) : (c.modFe f).net = c.net := rfl
@[simp] theorem Core.modFe_fe (c : Core) (f : FrameEng → FrameEng) : (c.modFe f).fe = f c.fe := rfl

/-! ### Core.modNet -/

@[simp] theorem Core.modNet_pl (c : Core) (f : Net → Net) : (c.modNet f).pl = c.pl := rfl
@[simp] theorem Core.modNet_regs (c : Core) (f : Net → Net) : (c.modNet f).regs = c.regs := rfl
@[simp] theorem Core.modNet_spr (c : Core) (f : Net → Net) : (c.modNet f).spr = c.spr := rfl
@[simp] theorem Core.modNet_sup (c : Core) (f : Net → Net) : (c.modNet f).sup = c.sup := rfl
@[simp] theorem Core.modNet_scr (c : Core) (f : Net → Net) : (c.modNet f).scr = c.scr := rfl
@[simp] theorem Core.modNet_fe (c : Core) (f : Net → Net) : (c.modNet f).fe = c.fe := rfl
@[simp] theorem Core.modNet_eng (c : Core) (f : Net → Net) : (c.modNet f).eng = c.eng := rfl
@[simp] theorem Core.modNet_net (c : Core) (f : Net → Net) : (c.modNet f).net = f c.net := rfl

/-! ### Core.modEng -/

@[simp] theorem Core.modEng_pl (c : Core) (f : Engines → Engines) : (c.modEng f).pl = c.pl := rfl
@[simp] theorem Core.modEng_regs (c : Core) (f : Engines → Engines) : (c.modEng f).regs = c.regs := rfl
@[simp] theorem Core.modEng_spr (c : Core) (f : Engines → Engines) : (c.modEng f).spr = c.spr := rfl
@[simp] theorem Core.modEng_sup (c : Core) (f : Engines → Engines) : (c.modEng f).sup = c.sup := rfl
@[simp] theorem Core.modEng_scr (c : Core) (f : Engines → Engines) : (c.modEng f).scr = c.scr := rfl
@[simp] theorem Core.modEng_fe (c : Core) (f : Engines → Engines) : (c.modEng f).fe = c.fe := rfl
@[simp] theorem Core.modEng_net (c : Core) (f : Engines → Engines) : (c.modEng f).net = c.net := rfl
@[simp] theorem Core.modEng_eng (c : Core) (f : Engines → Engines) : (c.modEng f).eng = f c.eng := rfl

/-! ### Core.modScr -/

@[simp] theorem Core.modScr_pl (c : Core) (f : Scratch → Scratch) : (c.modScr f).pl = c.pl := rfl
@[simp] theorem Core.modScr_regs (c : Core) (f : Scratch → Scratch) : (c.modScr f).regs = c.regs := rfl
@[simp] theorem Core.modScr_spr (c : Core) (f : Scratch → Scratch) : (c.modScr f).spr = c.spr := rfl
@[simp] theorem Core.modScr_sup (c : Core) (f : Scratch → Scratch) : (c.modScr f).sup = c.sup := rfl
@[simp] theorem Core.modScr_fe (c : Core) (f : Scratch → Scratch) : (c.modScr f).fe = c.fe := rfl
@[simp] theorem Core.modScr_eng (c : Core) (f : Scratch → Scratch) : (c.modScr f).eng = c.eng := rfl
@[simp] theorem Core.modScr_net (c : Core) (f : Scratch → Scratch) : (c.modScr f).net = c.net := rfl
@[simp] theorem Core.modScr_scr (c : Core) (f : Scratch → Scratch) : (c.modScr f).scr = f c.scr := rfl

/-! ### Registers (R95) -/

/-- g0 reads as zero. -/
@[simp] theorem Core.readG_zero (c : Core) : c.readG 0 = 0 := rfl
/-- A write of g0 changes nothing. -/
@[simp] theorem Core.writeG_zero (c : Core) (v : Word) : c.writeG 0 v = c := rfl
/-- p0 reads as true. -/
@[simp] theorem Core.readP_zero (c : Core) : c.readP 0 = true := rfl
/-- A write of p0 changes nothing. -/
@[simp] theorem Core.writeP_zero (c : Core) (v : Bool) : c.writeP 0 v = c := rfl

theorem Core.readG_writeG_self {c : Core} {r : Nat} {v : Word} (h : r ≠ 0) : (c.writeG r v).readG r = v := by
  simp [Core.writeG, Core.readG, h]

theorem Core.readG_writeG_ne {c : Core} {r q : Nat} {v : Word} (h : q ≠ r) : (c.writeG r v).readG q = c.readG q := by
  unfold Core.writeG Core.readG
  split
  · rfl
  · split
    · rfl
    · exact Sparse.get_set_ne h

@[simp] theorem Core.readF_writeF_self (c : Core) (r : Nat) (v : Line) : (c.writeF r v).readF r = v := by
  simp [Core.writeF, Core.readF]

theorem Core.readF_writeF_ne {c : Core} {r q : Nat} {v : Line} (h : q ≠ r) : (c.writeF r v).readF q = c.readF q := by
  simp [Core.writeF, Core.readF, Sparse.get_set_ne h]

theorem Core.readP_writeP {c : Core} {r q : Nat} {v : Bool} (hr : r ≠ 0) (hr8 : r < 8) (hq : q ≠ 0) (hq8 : q < 8) :
    (c.writeP r v).readP q = if q = r then v else c.readP q := by
  have key : ∀ x : BitVec 8, ∀ r < 8, ∀ q < 8,
      (x ||| BitVec.ofNat 8 (2 ^ r)).getLsbD q = (if q = r then true else x.getLsbD q) ∧
      (x &&& ~~~BitVec.ofNat 8 (2 ^ r)).getLsbD q = (if q = r then false else x.getLsbD q) := by decide +revert
  have := key c.regs.p r hr8 q hq8
  cases v <;> simp_all [Core.writeP, Core.readP]

@[simp] theorem Core.writeG_f (c : Core) (r : Nat) (v : Word) : (c.writeG r v).regs.f = c.regs.f := by
  unfold Core.writeG; split <;> rfl
@[simp] theorem Core.writeG_p (c : Core) (r : Nat) (v : Word) : (c.writeG r v).regs.p = c.regs.p := by
  unfold Core.writeG; split <;> rfl
@[simp] theorem Core.writeG_bind (c : Core) (r : Nat) (v : Word) : (c.writeG r v).regs.bind = c.regs.bind := by
  unfold Core.writeG; split <;> rfl
@[simp] theorem Core.writeP_g (c : Core) (r : Nat) (v : Bool) : (c.writeP r v).regs.g = c.regs.g := by
  unfold Core.writeP; split <;> rfl
@[simp] theorem Core.writeP_f (c : Core) (r : Nat) (v : Bool) : (c.writeP r v).regs.f = c.regs.f := by
  unfold Core.writeP; split <;> rfl
@[simp] theorem Core.writeP_bind (c : Core) (r : Nat) (v : Bool) : (c.writeP r v).regs.bind = c.regs.bind := by
  unfold Core.writeP; split <;> rfl
@[simp] theorem Core.writeF_g (c : Core) (r : Nat) (v : Line) : (c.writeF r v).regs.g = c.regs.g := rfl
@[simp] theorem Core.writeF_p (c : Core) (r : Nat) (v : Line) : (c.writeF r v).regs.p = c.regs.p := rfl
@[simp] theorem Core.writeF_bind (c : Core) (r : Nat) (v : Line) : (c.writeF r v).regs.bind = c.regs.bind := rfl

end Sys2Proof.Machine
end

