-- ==== Sys2Proof/Laws/Exec.lean ====
section
/-! SUPPORT. What exec is on a core instruction, by its major opcode, whichever form it has; and the small laws of the
operand forms: each says once everything a shared operation can do. -/

namespace Sys2Proof.Machine

/-- The shared meaning of a major opcode's rows. -/
def byMajor (op : Nat) (k : Ctx) (s : State) : Out :=
  match op with
  | 0x00 => execNop s
  | 0x01 => opEnd k s
  | 0x02 => opFork k s
  | 0x03 => opFree k s
  | 0x04 => opSig k s
  | 0x05 => opSigv k s
  | 0x06 => opArm k s
  | 0x07 => opSlotrd k s
  | 0x08 => opRoam k s
  | 0x09 => opPrio k s
  | 0x0A => opBar k s
  | 0x0B => opBarcfg k s
  | 0x0C => opDqpush k s
  | 0x0D => opDqpop k s
  | 0x0E => opDqsteal k s
  | 0x0F => opWdq k s
  | 0x10 => opBr k s
  | 0x11 => opJal k s
  | 0x12 => opJalr k s
  | 0x13 => opDbnz k s
  | 0x14 => opTermw k s
  | 0x15 => opCancel k s
  | 0x16 => opMfs k s
  | 0x17 => opMts k s
  | 0x18 => opSvc k s
  | 0x19 => opTrap k s
  | 0x1A => opRfe k s
  | 0x1B => opBrk k s
  | 0x1C => opWaiti k s
  | 0x1D => opSynci k s
  | 0x20 => opArith (· + ·) k s
  | 0x21 => opArith (· - ·) k s
  | 0x22 => opArith (· * ·) k s
  | 0x23 => opInt true mulUpper k s
  | 0x24 => opInt false mulUpper k s
  | 0x25 => opInt true divQuot k s
  | 0x26 => opInt false divQuot k s
  | 0x27 => opInt true divRem k s
  | 0x28 => opInt false divRem k s
  | 0x29 => opBits (fun _ a b => a &&& b) k s
  | 0x2A => opBits (fun _ a b => a ||| b) k s
  | 0x2B => opBits (fun _ a b => a ^^^ b) k s
  | 0x2C => opBits (fun w a b => a &&& notW w b) k s
  | 0x2D => opBits (fun w a b => a ||| notW w b) k s
  | 0x2E => opBits shlW k s
  | 0x2F => opInt false shrW k s
  | 0x30 => opInt true shrW k s
  | 0x31 => opBits rotW k s
  | 0x32 => opInt true minW k s
  | 0x33 => opInt true maxW k s
  | 0x34 => opInt false minW k s
  | 0x35 => opInt false maxW k s
  | 0x36 => opInt true (fun _ a _ => a.natAbs) k s
  | 0x37 => opInt true (fun _ a _ => -a) k s
  | 0x38 => opCmp k s
  | 0x39 => opSel k s
  | 0x3A => opMov k s
  | 0x3B => opPacked clzW k s
  | 0x3C => opPacked ctzW k s
  | 0x3D => opPacked ffsW k s
  | 0x3E => opPacked popcount k s
  | 0x3F => opPacked brevW k s
  | 0x40 => opBfx k s
  | 0x41 => opBfi k s
  | 0x42 => opSext k s
  | 0x43 => opZext k s
  | 0x44 => opLea k s
  | 0x45 => opMadd k s
  | 0x46 => opPred (· && ·) k s
  | 0x47 => opPred (· || ·) k s
  | 0x48 => opPred (· ^^ ·) k s
  | 0x49 => opPred (fun a _ => !a) k s
  | 0x4A => opPred (fun a _ => a) k s
  | 0x4B => opSlice k s
  | 0x60 => opF2 fAdd k s
  | 0x61 => opF2 fSub k s
  | 0x62 => opF2 fMul k s
  | 0x63 => opFfma k s
  | 0x64 => opF2 fDiv k s
  | 0x65 => opFsqrt k s
  | 0x66 => opFMinMax false k s
  | 0x67 => opFMinMax true k s
  | 0x68 => opFcmp k s
  | 0x69 => opFcvt k s
  | 0x6A => opFSign false k s
  | 0x6B => opFSign true k s
  | 0x6C => opFclass k s
  | 0x70 => opLd k s
  | 0x71 => opSt k s
  | 0x72 => opFetch .ldf k s
  | 0x73 => opStore .stf (fun _ => 2) k s
  | 0x74 => opFeop k s
  | 0x75 => opFetch .fetch k s
  | 0x76 => opStore .post postKind k s
  | 0x77 => opStore .stn (fun _ => 4) k s
  | 0x78 => opFence true k s
  | 0x79 => opFence false k s
  | 0x7A => opAop k s
  | 0x7B => opAcas k s
  | 0x7C => opBupd k s
  | 0x7D => opPref k s
  | 0x7E => opMove k s
  | 0x7F => opMove k s
  | 0x80 => opCopy k s
  | 0x81 => opEnq k s
  | 0x82 => opDeq k s
  | 0x83 => opQcfg k s
  | 0x84 => opSbind k s
  | 0x85 => opSunb k s
  | 0x86 => opRedsend k s
  | 0x87 => opRedcfg k s
  | 0x88 => opTlbi k s
  | 0x89 => opCflush k s
  | 0xA0 => opVec k s
  | 0xA1 => opVec k s
  | 0xA2 => opVec k s
  | 0xA3 => opVec k s
  | 0xA4 => opVec k s
  | 0xA5 => opVec k s
  | 0xA6 => opVec k s
  | 0xA7 => opVec k s
  | 0xA8 => opVcmp k s
  | 0xA9 => opVec k s
  | 0xAA => opVec k s
  | 0xAB => opVec k s
  | 0xAC => opVec k s
  | 0xAD => opVec k s
  | 0xAE => opVec k s
  | 0xAF => opVec k s
  | 0xB0 => opVec k s
  | 0xB1 => opVcvt k s
  | 0xB2 => opVred k s
  | 0xB3 => opVscan k s
  | 0xB4 => opVec k s
  | 0xB5 => opVec k s
  | 0xB6 => opVec k s
  | 0xB7 => opVec k s
  | 0xB8 => opVec k s
  | 0xB9 => opVec k s
  | 0xBA => opVec k s
  | 0xBB => opVec k s
  | 0xBC => opVec k s
  | 0xBD => opVperm k s
  | 0xBE => opVec k s
  | 0xBF => opVec k s
  | 0xC0 => opVld k s
  | 0xC1 => opVst k s
  | 0xC2 => opVgath k s
  | 0xC3 => opVscat k s
  | 0xC4 => opVrand k s
  | 0xC5 => opVqnt k s
  | 0xC6 => opVdot k s
  | 0xD0 => opTld k s
  | 0xD1 => opTacld k s
  | 0xD2 => opTacst k s
  | 0xD3 => opTacz k s
  | 0xD4 => opTmma k s
  | 0xD5 => opTmmas k s
  | 0xD6 => opTmmsp k s
  | 0xD7 => opSpcomp k s
  | 0xD8 => opSpinv k s
  | 0xD9 => opTcvt k s
  | 0xDA => opTred k s
  | 0xDB => opTnorm k s
  | 0xDC => opTsmax k s
  | 0xDD => opTtrn k s
  | 0xDE => opTmask k s
  | 0xDF => opTadd k s
  | 0xE0 => opShld k s
  | 0xE1 => opShinv k s
  | 0xE2 => opShbnd k s
  | 0xE3 => opRgld k s
  | 0xE4 => opTexlog k s
  | _ => .next s

/-- A core instruction does what its major opcode's rows do, on its own fields. -/
theorem exec_core {i : Instr} {op : Nat} (h : majorOf i = some op) (s : State) : exec i s = byMajor op (fieldsOf i) s := by
  cases i <;> first
    | (simp only [majorOf, rawOf, Option.some.injEq] at h; subst h; rfl)
    | (exact absurd h (by simp [majorOf, rawOf]))

/-- The length of R100 is the one its fields carry. -/
theorem len_eq {i : Instr} (h : i.isCore = true) : i.len = (fieldsOf i).len := by
  simp only [Instr.isCore, ne_eq, decide_eq_true_eq] at h
  unfold Instr.len encode fieldsOf
  revert h
  cases rawOf i with
  | nop => intro _; rfl
  | base op w => intro _; rfl
  | ext op o => intro _; rcases o with ⟨f, _, _, _, _⟩; cases f <;> rfl
  | event => intro h; exact absurd rfl h

theorem isCore_of_major {i : Instr} {op : Nat} (h : majorOf i = some op) : i.isCore = true := by
  simp only [Instr.isCore, ne_eq, decide_eq_true_eq]
  intro he
  simp [majorOf, he] at h

/-- Word 0 of a row's encoding is the word its fields carry (R421). -/
theorem word_eq {i : Instr} {op : Nat} (h : majorOf i = some op) (h0 : op ≠ 0) :
    (fieldsOf i).word = ((encode i).headD 0).toNat := by
  unfold majorOf at h
  unfold fieldsOf encode
  revert h
  cases rawOf i with
  | nop => intro h; exact absurd (Option.some.inj h).symm h0
  | base op w => intro _; rfl
  | ext op o => intro _; rcases o with ⟨f, _, _, _, _⟩; cases f <;> rfl
  | event => intro h; exact absurd h (by simp)

/-! ### Guards, privilege and the checks of operands -/

/-- With both guards holding and the privilege right, the body runs. -/
theorem run_runs {sv : Bool} {k : Ctx} {s : State} {body : State → Out} (hs : sv = true → s.me.pl.sup = true)
    (h1 : s.me.guard k.w.g = true) (h2 : s.me.guard k.x.g2 = true) : run sv k s body = body s := by
  unfold run
  cases sv <;> simp_all

/-- With a guard that does not hold, only the pc moves (R104). -/
theorem run_skips {sv : Bool} {k : Ctx} {s : State} {body : State → Out} (hs : sv = true → s.me.pl.sup = true)
    (h : ¬ (s.me.guard k.w.g = true ∧ s.me.guard k.x.g2 = true)) : run sv k s body = .next (s.advance k.len) := by
  unfold run
  cases sv <;> simp_all

/-- A supervisor-only form in user mode traps, whatever its guards (R123). -/
theorem run_traps {k : Ctx} {s : State} {body : State → Out} (h : s.me.pl.sup = false) :
    run true k s body = trapOut s 0x03 k.word := by
  simp [run, h]

theorem withRef_ok {k : Ctx} {s : State} {body : Ref → Out} (h : k.refOk s = true) : withRef k s body = body (k.ref s) := by
  simp [withRef, h]

theorem withRef_bad {k : Ctx} {s : State} {body : Ref → Out} (h : k.refOk s = false) :
    withRef k s body = trapOut s 0x06 (k.ref s).handle := by
  simp [withRef, h]

theorem checkLocal_ok {s : State} {v n al : Nat} {body : Out} (h : LocalOk v n al) : checkLocal s v n al body = body := by
  simp [checkLocal, h.1, aligned, h.2]

theorem checkLocal_range {s : State} {v n al : Nat} {body : Out} (h : localRange v n = false) :
    checkLocal s v n al body = trapOut s 0x05 v := by
  simp [checkLocal, h]

theorem checkLocal_align {s : State} {v n al : Nat} {body : Out} (h : localRange v n = true) (ha : v % al ≠ 0) :
    checkLocal s v n al body = trapOut s 0x04 v := by
  simp [checkLocal, h, aligned, ha]

theorem checkGlobal_ok {s : State} {ea al : Nat} {body : Out} (h : GlobalOk ea al) : checkGlobal s ea al body = body := by
  unfold checkGlobal
  rw [if_neg (Nat.not_le.mpr h.1)]
  simp [aligned, h.2]

theorem checkGlobal_range {s : State} {ea al : Nat} {body : Out} (h : 2 ^ 48 ≤ ea) :
    checkGlobal s ea al body = trapOut s 0x05 ea := by
  unfold checkGlobal
  rw [if_pos h]

theorem checkGlobal_align {s : State} {ea al : Nat} {body : Out} (h : ea < 2 ^ 48) (ha : ea % al ≠ 0) :
    checkGlobal s ea al body = trapOut s 0x04 ea := by
  unfold checkGlobal
  rw [if_neg (Nat.not_le.mpr h)]
  simp [aligned, ha]

theorem checkEcc_ok {s : State} {v n : Nat} {body : Out} (h : s.localBad s.cur v n = false) : checkEcc s v n body = body := by
  simp [checkEcc, h]

theorem checkEcc_bad {s : State} {v n : Nat} {body : Out} (h : s.localBad s.cur v n = true) :
    checkEcc s v n body = trapOut s 0x10 v := by
  simp [checkEcc, h]

/-! ### Taking a trap (R422, R423) -/

/-- The fields of ESTAT as an exact trap writes it. -/
theorem estat_exact (pprv rstb : Bool) (h : Nat) :
    let e := mkEstat pprv false false rstb false 0 63 h
    e.getLsbD 44 = pprv ∧ e.getLsbD 43 = false ∧ e.getLsbD 42 = false ∧ e.getLsbD 41 = rstb ∧ e.getLsbD 40 = false ∧
      e.extractLsb' 38 2 = 0 ∧ e.extractLsb' 32 6 = 63 ∧ e.extractLsb' 45 19 = 0 ∧
      e.extractLsb' 0 32 = BitVec.ofNat 32 h := by
  have hl : h % 2 ^ 32 < 2 ^ 32 := Nat.mod_lt _ (by norm_num)
  have hm : BitVec.ofNat 32 h = BitVec.ofNat 32 (h % 2 ^ 32) := by
    apply BitVec.eq_of_toNat_eq; simp
  rw [hm]
  simp only [mkEstat]
  generalize h % 2 ^ 32 = y at hl
  cases pprv <;> cases rstb <;>
    refine ⟨?_, ?_, ?_, ?_, ?_, ?_, ?_, ?_, ?_⟩ <;>
    first
    | (simp only [b2n, BitVec.getLsbD_ofNat, Nat.testBit_eq_decide_div_mod_eq]; simp; omega)
    | (apply BitVec.eq_of_toNat_eq; simp only [b2n, BitVec.extractLsb'_toNat, BitVec.toNat_ofNat, Nat.shiftRight_eq_div_pow]
       simp; omega)

/-- What an exact trap leaves. -/
theorem trapTaken_trap (s : State) (cause val : Nat) : TrapTaken s (s.trap cause val) cause val := by
  obtain ⟨e1, e2, e3, e4, e5, e6, e7, e8, e9⟩ :=
    estat_exact s.me.pl.sup s.me.pl.after.isSome (if s.me.pl.live then s.me.pl.handle else 0)
  have hme : (s.trap cause val).me =
      s.me.takeTrap cause val s.me.pl.pc false false false 63 (if s.me.pl.live then s.me.pl.handle else 0) := by
    simp [State.trap]
  unfold TrapTaken
  rw [hme]
  refine ⟨rfl, rfl, rfl, e1, e2, e3, e4, e5, e6, e7, e8, e9, rfl, rfl, ?_⟩
  rfl

/-- An instruction whose answer is an exact trap takes it. -/
theorem trapOut_taken (s : State) (cause val : Nat) : ∃ t, trapOut s cause val = .next t ∧ TrapTaken s t cause val :=
  ⟨_, rfl, trapTaken_trap s cause val⟩

end Sys2Proof.Machine
end

