-- ==== Sys2Proof/Laws/Memory.lean ====
section
/-! SUPPORT. The laws of memory: bytes read back as they were written and elsewhere as before, and every memory operation
keeps the canonical form. -/

namespace Sys2Proof.Machine

/-! ### Bytes -/

theorem get_writeCells_below {m : List Host.Cell} {a i : Nat} {bs : List Byte} (h : i < a) :
    Sparse.get 0 (writeCells m a bs) i = Sparse.get 0 m i := by
  induction bs generalizing m a with
  | nil => rfl
  | cons b bs ih => simp only [writeCells]; rw [ih (by omega), Sparse.get_set_ne (by omega)]

/-- What each byte reads as after a write. -/
theorem get_writeCells (m : List Host.Cell) (a i : Nat) (bs : List Byte) :
    Sparse.get 0 (writeCells m a bs) i = if a ≤ i then (bs[i - a]?).getD (Sparse.get 0 m i) else Sparse.get 0 m i := by
  induction bs generalizing m a with
  | nil => simp [writeCells]
  | cons b bs ih =>
    by_cases h : a ≤ i
    · rw [if_pos h]
      by_cases h1 : i = a
      · subst h1; simp only [writeCells]; rw [get_writeCells_below (by omega)]; simp
      · obtain ⟨k, hk⟩ : ∃ k, i - a = k + 1 := ⟨i - a - 1, by omega⟩
        simp only [writeCells]
        rw [ih, if_pos (by omega), Sparse.get_set_ne h1, hk, show i - (a + 1) = k by omega]; rfl
    · rw [if_neg h]; exact get_writeCells_below (by omega)

/-- A write leaves every byte outside it alone. -/
theorem get_writeCells_out {m : List Host.Cell} {a i : Nat} {bs : List Byte} (h : i < a ∨ a + bs.length ≤ i) :
    Sparse.get 0 (writeCells m a bs) i = Sparse.get 0 m i := by
  rw [get_writeCells]
  split
  · rw [List.getElem?_eq_none (by omega)]; rfl
  · rfl

/-- The bytes written read back. -/
theorem readCells_writeCells (m : List Host.Cell) (a : Nat) (bs : List Byte) :
    readCells (writeCells m a bs) a bs.length = bs := by
  have key : ∀ (bs : List Byte) (m : List Host.Cell) (a : Nat), readCells (writeCells m a bs) a bs.length = bs := by
    intro bs
    induction bs with
    | nil => intros; rfl
    | cons b bs ih =>
      intro m a
      simp only [List.length_cons, readCells, writeCells]
      rw [get_writeCells_below (by omega), Sparse.get_set_self, ih]
  exact key bs m a

@[simp] theorem length_readCells (m : List Host.Cell) (a n : Nat) : (readCells m a n).length = n := by
  induction n generalizing a with
  | zero => rfl
  | succ n ih => simp [readCells, ih]

@[simp] theorem length_natLE (n x : Nat) : (natLE n x).length = n := by
  induction n generalizing x with
  | zero => rfl
  | succ n ih => simp [natLE, ih]

theorem leNat_lt (bs : List Byte) : leNat bs < 2 ^ (8 * bs.length) := by
  induction bs with
  | nil => simp [leNat]
  | cons b bs ih =>
    simp only [leNat, List.length_cons]
    have := b.isLt
    rw [show 8 * (bs.length + 1) = 8 * bs.length + 8 by ring, pow_add]
    omega

/-- Little-endian bytes of a number stand for it (R7). -/
theorem leNat_natLE (n x : Nat) : leNat (natLE n x) = x % 2 ^ (8 * n) := by
  induction n generalizing x with
  | zero => simp [natLE, leNat, Nat.mod_one]
  | succ n ih =>
    simp only [natLE, leNat, ih, BitVec.toNat_ofNat]
    rw [show 8 * (n + 1) = 8 + 8 * n by ring, pow_add, Nat.mod_mul]
    norm_num

/-- And the number of some bytes gives them back. -/
theorem natLE_leNat (bs : List Byte) : natLE bs.length (leNat bs) = bs := by
  induction bs with
  | nil => rfl
  | cons b bs ih =>
    simp only [List.length_cons, natLE, leNat]
    have hb := b.isLt
    rw [show (b.toNat + 256 * leNat bs) / 256 = leNat bs by omega, ih]
    congr 1
    apply BitVec.eq_of_toNat_eq
    simp only [BitVec.toNat_ofNat]
    omega

/-! ### The canonical form -/

theorem wf_writeCells {m : List Host.Cell} (a : Nat) (bs : List Byte) (h : Sparse.wf 0 m) : Sparse.wf 0 (writeCells m a bs) := by
  induction bs generalizing m a with
  | nil => exact h
  | cons b bs ih => exact ih (a + 1) (Sparse.wf_set a b h)

theorem wf_setRange {m : Sparse Bool} (v : Bool) (lo n : Nat) (h : Sparse.wf false m) : Sparse.wf false (setRange m v lo n) := by
  induction n generalizing m lo with
  | zero => exact h
  | succ n ih => exact ih (lo + 1) (Sparse.wf_set lo v h)

/-- The parts of the canonical form. -/
theorem Memory.wf_iff {m : Memory} : m.wf = true ↔
    Sparse.wf 0 m.cells = true ∧ Sparse.wf false m.empty = true ∧ Sparse.wf false m.poison = true ∧
      Sparse.wf 0 m.soft = true ∧ Sparse.wf 0 m.corrected = true ∧ Sparse.wf none m.pairs = true ∧
      Sparse.wf none m.keys = true ∧ Sparse.wf false m.bad = true := by
  simp [Memory.wf, and_assoc]

theorem Scratch.wf_iff {m : Scratch} : m.wf = true ↔
    Sparse.wf 0 m.bytes = true ∧ Sparse.wf false m.empty = true ∧ Sparse.wf false m.bad = true ∧
      Sparse.wf false m.soft = true ∧ Sparse.wf false m.touched = true ∧ Sparse.wf false m.had = true := by
  simp [Scratch.wf, and_assoc]

/-- Memory after reset is in canonical form. -/
theorem wf_reset : State.reset.mem.wf = true := rfl

/-- Every scratchpad write keeps its canonical form. -/
theorem Scratch.wf_write {m : Scratch} (a : Nat) (bs : List Byte) (h : m.wf = true) : (m.write a bs).wf = true := by
  rw [Scratch.wf_iff] at *
  obtain ⟨h1, h2, h3, h4, h5, h6⟩ := h
  simp only [Scratch.write]
  refine ⟨wf_writeCells _ _ h1, h2, ?_, ?_, ?_, h6⟩
  · split
    · rfl
    · exact wf_setRange _ _ _ h3
  · split
    · rfl
    · exact wf_setRange _ _ _ h4
  · split
    · exact h5
    · exact wf_setRange _ _ _ h5

/-- Putting a saved block back keeps it. -/
theorem Scratch.wf_putBlock {m : Scratch} (b : Nat) (data : Option (List Byte)) (empty : List Nat) (h : m.wf = true) :
    (m.putBlock b data empty).wf = true := by
  rw [Scratch.wf_iff] at *
  obtain ⟨h1, h2, h3, h4, h5⟩ := h
  simp only [Scratch.putBlock]
  refine ⟨wf_writeCells _ _ h1, ?_, wf_setRange _ _ _ h3, wf_setRange _ _ _ h4, h5⟩
  have fold : ∀ (ls : List Nat) (e : Sparse Bool), Sparse.wf false e = true →
      Sparse.wf false (ls.foldl (fun e l => Sparse.set false e l true) e) = true := by
    intro ls
    induction ls with
    | nil => exact fun _ h => h
    | cons l t ih => exact fun e h => ih _ (Sparse.wf_set _ _ h)
  exact fold _ _ (wf_setRange _ _ _ h2)

/-- The parts of the invariant. -/
theorem State.inOrder_iff {s : State} : s.inOrder = true ↔
    s.mem.wf = true ∧ s.fw.inOrder = true ∧ (s.cores.all fun e => e.2.scr.wf) = true ∧
      (s.regions.all fun e => e.2.scratchWf) = true ∧ (s.clusters.all fun e => Sparse.wf {} e.2.dir) = true := by
  simp only [State.inOrder, Bool.and_eq_true, and_assoc]

/-- A core's scratchpad, a region's save and a cluster's directory under the invariant. -/
theorem State.inOrder_core {s : State} (h : s.inOrder = true) (c : Nat) : (s.core c).scr.wf = true :=
  Sparse.get_all (p := fun k : Core => k.scr.wf) rfl (State.inOrder_iff.1 h).2.2.1 c
theorem State.inOrder_region {s : State} (h : s.inOrder = true) (i : Nat) : (s.region i).scratchWf = true :=
  Sparse.get_all (p := Region.scratchWf) rfl (State.inOrder_iff.1 h).2.2.2.1 i
theorem State.inOrder_dir {s : State} (h : s.inOrder = true) (cl : Nat) : Sparse.wf {} (s.cluster cl).dir = true :=
  Sparse.get_all (p := fun k : Cluster => Sparse.wf ({} : PEnt) k.dir) rfl (State.inOrder_iff.1 h).2.2.2.2 cl

/-- Setting a core, a region or a cluster whose own part is canonical keeps the invariant. -/
theorem State.inOrder_setCore {s : State} {c : Nat} {k : Core} (h : s.inOrder = true) (hk : k.scr.wf = true) :
    (s.setCore c k).inOrder = true := by
  obtain ⟨h1, h2, h3, h4, h5⟩ := State.inOrder_iff.1 h
  exact State.inOrder_iff.2 ⟨h1, h2, Sparse.all_set (p := fun k : Core => k.scr.wf) c hk h3, h4, h5⟩
theorem State.inOrder_setRegion {s : State} {i : Nat} {r : Region} (h : s.inOrder = true) (hr : r.scratchWf = true) :
    (s.setRegion i r).inOrder = true := by
  obtain ⟨h1, h2, h3, h4, h5⟩ := State.inOrder_iff.1 h
  exact State.inOrder_iff.2 ⟨h1, h2, h3, Sparse.all_set (p := Region.scratchWf) i hr h4, h5⟩
theorem State.inOrder_setCluster {s : State} {i : Nat} {k : Cluster} (h : s.inOrder = true) (hk : Sparse.wf {} k.dir = true) :
    (s.setCluster i k).inOrder = true := by
  obtain ⟨h1, h2, h3, h4, h5⟩ := State.inOrder_iff.1 h
  exact State.inOrder_iff.2 ⟨h1, h2, h3, h4, Sparse.all_set (p := fun k : Cluster => Sparse.wf ({} : PEnt) k.dir) i hk h5⟩

@[simp] theorem setCline_mem (s : State) (h line : Nat) (v : Option CLine) : (s.setCline h line v).mem = s.mem := rfl

theorem wf_hbmWrite {s : State} (line key : Nat) (d : Line) (full : Bool) (h : s.mem.wf = true) :
    (s.hbmWrite line key d full).mem.wf = true := by
  unfold State.hbmWrite
  generalize lineBytes d 0 64 = bs
  rw [Memory.wf_iff] at h ⊢
  obtain ⟨h1, h2, h3, h4, h5, h6, h7, h8⟩ := h
  exact ⟨wf_writeCells _ _ h1, Sparse.wf_set _ _ h2, h3, Sparse.wf_set _ _ h4, h5, Sparse.wf_set _ _ h6, h7, Sparse.wf_set _ _ h8⟩

theorem wf_poisonLine {s : State} (line : Nat) (h : s.mem.wf = true) : (s.poisonLine line).mem.wf = true := by
  unfold State.poisonLine
  rw [Memory.wf_iff] at h ⊢
  obtain ⟨h1, h2, h3, h4, h5, h6, h7, h8⟩ := h
  exact ⟨h1, h2, Sparse.wf_set _ _ h3, h4, h5, h6, h7, Sparse.wf_set _ _ h8⟩

theorem wf_unpoison {s : State} (line : Nat) (h : s.mem.wf = true) : (s.unpoison line).mem.wf = true := by
  unfold State.unpoison
  rw [Memory.wf_iff] at h ⊢
  obtain ⟨h1, h2, h3, h4⟩ := h
  exact ⟨h1, h2, Sparse.wf_set _ _ h3, h4⟩

theorem wf_correctLine {s : State} (line : Nat) (h : s.mem.wf = true) : (s.correctLine line).mem.wf = true := by
  simp only [State.correctLine]
  split
  · exact h
  · rw [Memory.wf_iff] at h
    obtain ⟨h1, h2, h3, h4, h5, h6⟩ := h
    split
    · rw [Memory.wf_iff]
      exact ⟨h1, h2, h3, Sparse.wf_set _ _ h4, h5, h6⟩
    · rw [Memory.wf_iff]
      exact ⟨h1, h2, h3, Sparse.wf_set _ _ h4, Sparse.wf_set _ _ h5, h6⟩

theorem wf_scanLine {s : State} (line : Nat) (h : s.mem.wf = true) : (s.scanLine line).mem.wf = true := by
  simp only [State.scanLine]
  split
  · exact wf_poisonLine _ (wf_correctLine _ h)
  · exact wf_correctLine _ h

theorem wf_scanLines {s : State} (ps : List Nat) (h : s.mem.wf = true) :
    (ps.foldl (fun s pa => s.scanLine (pa / 64)) s).mem.wf = true := by
  induction ps generalizing s with
  | nil => exact h
  | cons p ps ih => exact ih (wf_scanLine _ h)

theorem wf_scanTables {s : State} (c asid va : Nat) (h : s.mem.wf = true) : (s.scanTables c asid va).mem.wf = true := by
  simp only [State.scanTables]
  split
  · exact h
  · exact wf_scanLines _ h

/-- A table entry written by the walker. -/
theorem wf_physWrite {s : State} (pa v : Nat) (h : s.mem.wf = true) : (s.physWrite pa v).mem.wf = true := by
  unfold State.physWrite
  split
  · extract_lets
    exact wf_hbmWrite _ _ _ _ h
  · rw [Memory.wf_iff] at h ⊢
    exact ⟨wf_writeCells _ _ h.1, h.2⟩
  · exact h

/-- Translation, with the accessed and dirty bits it sets. -/
theorem wf_translate {s : State} (c asid va : Nat) (need : Need) (h : s.mem.wf = true) :
    (s.translate c asid va need).1.mem.wf = true := by
  have hf : ∀ {s : State}, s.mem.wf = true → ∀ l, (State.translate.fresh c asid va need s l).1.mem.wf = true := by
    intro s h l
    unfold State.translate.fresh
    split
    · extract_lets e' s' sz base rest
      have hs : s'.mem.wf = true := by
        unfold s'
        split
        · exact h
        · exact wf_physWrite _ _ h
      exact hs
    · exact h
  unfold State.translate
  extract_lets l
  split
  · split
    · exact h
    · exact hf (wf_scanTables _ _ _ h) _
  · exact hf (wf_scanTables _ _ _ h) _

/-- A slice reads a line as it holds it. -/
theorem wf_scanCached {s : State} (c line : Nat) (h : s.mem.wf = true) : (s.scanCached c line).mem.wf = true := by
  simp only [State.scanCached]
  split
  · split
    · exact h
    · split
      · exact wf_poisonLine _ h
      · exact h
  · exact h

theorem wf_writeBack {s : State} (c line : Nat) (h : s.mem.wf = true) : (s.writeBack c line).mem.wf = true := by
  simp only [State.writeBack]
  have h0 := wf_scanCached c line h
  split
  · exact h
  · split
    · rw [setCline_mem]
      split
      · exact wf_hbmWrite _ _ _ _ h0
      · exact wf_unpoison _ (wf_hbmWrite _ _ _ _ h0)
    · exact h0

theorem wf_ensureLine {s : State} (c line key th : Nat) (h : s.mem.wf = true) :
    (s.ensureLine c line key th).1.mem.wf = true := by
  unfold State.ensureLine
  extract_lets s1 l1 s2 s3 l2 c2
  have h1 : s1.mem.wf = true := by
    unfold s1
    split
    · split
      · exact wf_scanCached c line h
      · exact wf_writeBack c line h
    · exact h
  have h2 : s2.mem.wf = true := by
    unfold s2
    split
    · exact h1
    · split
      · exact wf_writeBack c _ h1
      · exact h1
  have h3 : s3.mem.wf = true := wf_scanLine _ h2
  split
  · exact h1
  · exact h3

theorem wf_bypass {s : State} (c line th : Nat) (h : s.mem.wf = true) : (s.bypass c line th).mem.wf = true := by
  simp only [State.bypass]
  split
  · exact wf_writeBack _ _ h
  · exact h

theorem wf_readAt {s : State} (c pa n key th : Nat) (h : s.mem.wf = true) : (s.readAt c pa n key th).1.mem.wf = true := by
  simp only [State.readAt]
  split
  · split
    · exact h
    · exact wf_bypass _ _ _ (wf_ensureLine _ _ _ _ h)
  · exact wf_scanLine _ h
  · exact h

theorem wf_writeAt {s : State} (c pa : Nat) (bs : List Byte) (key th : Nat) (full : Option Bool) (h : s.mem.wf = true) :
    (s.writeAt c pa bs key th full).1.mem.wf = true := by
  simp only [State.writeAt]
  split
  · have h0 := wf_ensureLine c (pa / 64) key th h
    split
    · exact h
    · split
      · exact h0
      · apply wf_bypass
        simp only [setCline_mem]
        split
        · exact wf_unpoison _ h0
        · exact h0
  · have h0 := wf_scanLine (pa / 64) h
    split
    · exact h0
    · rw [Memory.wf_iff] at *
      obtain ⟨h1, h2, h3, h4⟩ := h0
      refine ⟨wf_writeCells _ _ h1, ?_, Sparse.wf_set _ _ h3, h4⟩
      split
      · exact Sparse.wf_set _ _ h2
      · exact h2
  · exact h

theorem wf_setLineFull {s : State} (c pa key th : Nat) (full : Bool) (h : s.mem.wf = true) :
    (s.setLineFull c pa key th full).mem.wf = true := by
  simp only [State.setLineFull]
  split
  · exact wf_ensureLine _ _ _ _ h
  · rw [Memory.wf_iff] at *
    obtain ⟨h1, h2, h3⟩ := h
    exact ⟨h1, Sparse.wf_set _ _ h2, h3⟩
  · exact h

theorem wf_shrink {s : State} (c n : Nat) (h : s.mem.wf = true) : (s.shrink c n).mem.wf = true := by
  induction n generalizing s with
  | zero => exact h
  | succ n ih =>
    simp only [State.shrink]
    split
    · exact h
    · split
      · exact ih (wf_writeBack _ _ h)
      · exact h

/-- Power-on keeps what HBM holds, in canonical form. -/
theorem wf_powerOn {s : State} (h : s.mem.wf = true) : s.powerOn.mem.wf = true := by
  rw [Memory.wf_iff] at *
  obtain ⟨h1, h2, h3, h4, h5, h6, h7, h8⟩ := h
  exact ⟨Sparse.wf_filter h1, Sparse.wf_filter h2, Sparse.wf_filter h3, Sparse.wf_filter h4, rfl, Sparse.wf_mapV h6, rfl,
    Sparse.wf_filter h8⟩

/-- A line of memory is struck. -/
theorem Memory.wf_struck {m : Memory} (line : Nat) (e : Option Nat) (h : m.wf = true) : (m.struck line e).wf = true := by
  rw [Memory.wf_iff] at *
  obtain ⟨h1, h2, h3, h4, h5, h6, h7, h8⟩ := h
  cases e with
  | some e => exact ⟨h1, h2, h3, Sparse.wf_set _ _ h4, h5, h6, h7, h8⟩
  | none => exact ⟨h1, h2, h3, Sparse.wf_set _ _ h4, h5, h6, h7, Sparse.wf_set _ _ h8⟩

/-- A soft error strikes memory. -/
theorem wf_execSoftError {s t : State} {loc n : Nat} (h : s.mem.wf = true) (ht : execSoftError loc n s = .next t) :
    t.mem.wf = true := by
  simp only [execSoftError] at ht
  split at ht
  · cases ht; exact h
  · split at ht
    · cases ht; exact h
    · split at ht
      · cases ht; exact h
      · split at ht <;> cases ht
        · exact Memory.wf_struck _ _ h
        · exact Memory.wf_struck _ _ h
        · exact h
    · split at ht
      · cases ht; exact h
      · split at ht
        · cases ht; exact h
        · split at ht <;> cases ht <;> exact h

/-- A scrubbing. -/
theorem wf_execScrub {s t : State} {loc : Nat} (h : s.mem.wf = true) (ht : execScrub loc s = .next t) : t.mem.wf = true := by
  simp only [execScrub] at ht
  split at ht
  · cases ht; exact h
  · cases ht
    split
    · exact wf_scanLine _ h
    · exact wf_correctLine _ h
  · cases ht; exact wf_scanCached _ _ h

/-- A key pair is loaded. -/
theorem wf_execKeyLoad {s t : State} {die id : Nat} {pair : BitVec 512} (h : s.mem.wf = true)
    (ht : execKeyLoad die id pair s = .next t) : t.mem.wf = true := by
  simp only [execKeyLoad] at ht
  split at ht
  · cases ht
    rw [Memory.wf_iff] at *
    obtain ⟨h1, h2, h3, h4, h5, h6, h7, h8⟩ := h
    exact ⟨h1, h2, h3, h4, h5, h6, Sparse.wf_set _ _ h7, h8⟩
  · cases ht; exact h

/-- A stack is trained. -/
theorem wf_execHbmTraining {s t : State} {stack : Nat} (h : s.mem.wf = true) (ht : execHbmTraining stack s = .next t) :
    t.mem.wf = true := by
  simp only [execHbmTraining] at ht
  split at ht
  · cases ht; exact h
  · cases ht
    rw [Memory.wf_iff] at *
    obtain ⟨h1, h2, h3⟩ := h
    exact ⟨h1, Sparse.wf_filter h2, h3⟩

/-! ### Address spaces (R64) -/

/-- A cached leaf serves its own address space alone. -/
theorem Slice.tlbFind_asid {l : Slice} {asid va : Nat} {t : Tlb} (h : l.tlbFind asid va = some t) : t.asid = asid := by
  have := List.find?_some h
  simp at this
  exact this.1

/-- A fault outstanding holds back its own address space alone. -/
theorem Slice.faultAt_asid {l : Slice} {asid va n : Nat} (h : l.faultAt asid va = some n) :
    ∃ f, l.faults[n]? = some f ∧ f.asid = asid := by
  obtain ⟨hn, hp, -⟩ := List.findIdx?_eq_some_iff_getElem.1 h
  simp at hp
  exact ⟨_, List.getElem?_eq_getElem hn, hp.1.1⟩

/-- A record that Prism has compiled serves its own address space alone. -/
theorem Cluster.entryOf_asid {k : Cluster} {asid va gen : Nat} {e : Nat × PEnt} (h : k.entryOf asid va gen = some e) :
    e.2.asid = asid := by
  have := List.find?_some h
  simp at this
  exact this.1.1.2

end Sys2Proof.Machine
end

