-- ==== Sys2Proof/Tests/Slice0.lean ====
section
/-! SUPPORT. Tests: ill-formed terms that the checks refuse, words written out from the spec's encodings, single steps with results
worked out from the rules, and for each statement with hypotheses the states and operands that meet them, clause by clause. -/

namespace Sys2Proof.Tests

-- One theorem at a time: kernel evaluations that wait for one another would each hold a thread and its stack.
set_option Elab.async false

open Sys2Proof.Machine

/-! ### Well-formedness: a term for each check, refused -/

/-- R96: a base row whose M, register class, unused field or own limit does not fit; guard field 8. -/
theorem test_wf_base_fields :
    (Instr.add { g := 8 }).wf = false ∧ (Instr.endInstr { m := 2 }).wf = false ∧ (Instr.endInstr { a := 1 }).wf = false ∧
    (Instr.pand { d := 8 }).wf = false ∧ (Instr.dqpop { d := 29 }).wf = false ∧ (Instr.trap {}).wf = false ∧
    (Instr.trap { d := 21 }).wf = false ∧ (Instr.spinv { m := 1, a := 1 }).wf = false ∧ (Instr.shinv { m := 1, d := 1 }).wf = false := by
  decide

/-- R102, R103, R106, R109: an extended row whose guard, XOP, SC, slot, C, IMM32 or form does not fit. -/
theorem test_wf_extended_fields :
    (Instr.addExt { x := { g2 := 8 } }).wf = false ∧ (Instr.addExt { x := { xop := 2 } }).wf = false ∧
    (Instr.addExt { x := { sc := 1 } }).wf = false ∧ (Instr.addExt { x := { sl := 1 } }).wf = false ∧
    (Instr.addExt { x := { c := 1 } }).wf = false ∧ (Instr.addExt { imm := 1 }).wf = false ∧
    (Instr.addExt { x := { th := 1 } }).wf = false ∧ (Instr.addExt { lit := 1 }).wf = false ∧
    (Instr.addExt { form := .extLit, w := { b := 1 } }).wf = false ∧ (Instr.addExt { form := .lit, w := { b := 1 } }).wf = false ∧
    (Instr.sig {}).wf = false ∧ (Instr.bfx { imm := 0x4100 }).wf = false ∧ (Instr.fork { imm := 28 * 256 }).wf = false ∧
    (Instr.vexp2Ext { x := { xop := 1 } }).wf = false ∧ (Instr.vcmpExt { x := { xop := 5 } }).wf = false := by
  decide

/-- R2, R3, R30: a command or an event that names a unit beyond those that exist. -/
theorem test_wf_units :
    (Instr.nopc 4096).wf = false ∧ (Instr.packetAccept 4096).wf = false ∧ (Instr.qctlEnable 0 4096 0).wf = false ∧
    (Instr.leaseRenew 4).wf = false ∧ (Instr.duskSample 4 0).wf = false ∧ (Instr.livelockWindow 96 0).wf = false ∧
    (Instr.livelockWindow 0 4).wf = false ∧ (Instr.hbmTraining 12).wf = false ∧ (Instr.keyLoad 4 0 0).wf = false ∧
    (Instr.keyLoad 0 256 0).wf = false ∧ (Instr.lineFill 256 0).wf = false ∧ (Instr.clusterPowerUp 96).wf = false ∧
    (Instr.reductionTimeout 96 0).wf = false ∧ (Instr.reductionTimeout 0 64).wf = false ∧ (Instr.backlogServe 24).wf = false ∧
    (Instr.backlogServe 768).wf = false ∧ (Instr.preempt 4096).wf = false ∧ (Instr.promotion 0 3).wf = false ∧
    (Instr.blockClaim 0 256).wf = false ∧ (Instr.promotion 4095 0).wf = false := by
  decide

/-! ### Decoding: words written out bit by bit from R101 and R102 and the tables R117 to R122

The fields stand in the order G, M, B, A, D, OP, L for word 0 and XOP, SR, SL, SC, TH, G2, F, E, C for word 1. -/

/-- Control (R117): END.f; FORK g2 with slot 1 and E = 4; BR −1; TRAP 0x13 with tag 4. -/
theorem test_decode_control :
    decode [0b0000_001_00000_00000_00000_00000001_00] = .ok (.endInstr { m := 1 }) ∧
    decode [0b0000_000_00000_00010_00000_00000010_01, 0b0000_0_001_000_00_0000_00000_00100_00000, 0x201] =
      .ok (.fork { w := { a := 2 }, x := { sl := 1, e := 4 }, imm := 0x201 }) ∧
    decode [0b0000_111_11111_11111_11111_00010000_00] = .ok (.br { m := 7, b := 31, a := 31, d := 31 }) ∧
    decode [0b0000_000_00001_00000_10011_00011001_00] = .ok (.trap { b := 1, d := 19 }) := by
  decide

/-- Integers and predicates (R118): SUB.i64 under p2; SHL.n8; CMP.ltn p1; MADD with g7 in C. -/
theorem test_decode_integer :
    decode [0b0010_011_00101_00100_00011_00100001_00] = .ok (.sub { g := 2, m := 3, b := 5, a := 4, d := 3 }) ∧
    decode [0b0000_100_00001_00010_00011_00101110_00] = .ok (.shl { m := 4, b := 1, a := 2, d := 3 }) ∧
    decode [0b0000_100_00010_00011_00001_00111000_00] = .ok (.cmp { m := 4, b := 2, a := 3, d := 1 }) ∧
    decode [0b0000_010_00010_00001_00011_01000101_01, 0b0000_0_000_000_00_0000_00000_00000_00111, 0] =
      .ok (.madd { w := { m := 2, b := 2, a := 1, d := 3 }, x := { c := 7 } }) := by
  decide

/-- Scalar floating point (R119): FADD.f32; FFMA.f64 with RM = RTZ; FCVT to FP32 from i32. -/
theorem test_decode_float :
    decode [0b0000_000_00010_00001_00011_01100000_00] = .ok (.fadd { m := 0, b := 2, a := 1, d := 3 }) ∧
    decode [0b0000_001_00010_00001_00011_01100011_01, 0b0001_0_000_000_00_0000_00000_00000_00100, 0] =
      .ok (.ffma { w := { m := 1, b := 2, a := 1, d := 3 }, x := { xop := 1, c := 4 } }) ∧
    decode [0b0000_000_00000_00001_00011_01101001_01, 0b0000_0_000_000_00_0000_00000_00000_00100, 0] =
      .ok (.fcvt { w := { a := 1, d := 3 }, x := { c := 4 } }) := by
  decide

/-- Memory and engines (R120): LD.n32 g3, [g1 + 8]; POST.n64; AOP.add; GET; ENQ. -/
theorem test_decode_memory :
    decode [0b0000_010_00000_00001_00011_01110000_01, 0, 8] = .ok (.ldExt { w := { m := 2, a := 1, d := 3 }, imm := 8 }) ∧
    decode [0b0000_011_00000_00001_00011_01110110_01, 0, 64] = .ok (.post { w := { m := 3, a := 1, d := 3 }, imm := 64 }) ∧
    decode [0b0000_011_00010_00001_00011_01111010_01, 0b0000_0_011_000_00_0000_00000_00000_00000, 0] =
      .ok (.aop { w := { m := 3, b := 2, a := 1, d := 3 }, x := { sl := 3 } }) ∧
    decode [0b0000_000_00010_00001_00011_01111110_01, 0b0000_1_011_000_00_0000_00101_00000_00100, 0] =
      .ok (.get { w := { b := 2, a := 1, d := 3 }, x := { sr := 1, sl := 3, f := 5, c := 4 } }) := by
  decide

/-- Vectors (R121): VADD.f32 f3, f1, f2; VCVT; VLD f1, [g4]; VSEL with gC. -/
theorem test_decode_vector :
    decode [0b0000_000_00010_00001_00011_10100000_00] = .ok (.vadd { b := 2, a := 1, d := 3 }) ∧
    decode [0b0000_000_00000_00100_00001_11000000_00] = .ok (.vld { a := 4, d := 1 }) ∧
    decode [0b0000_000_00000_00001_00011_10110001_01, 0b0000_0_000_000_00_0000_00000_00000_00001, 0] =
      .ok (.vcvt { w := { a := 1, d := 3 }, x := { c := 1 } }) := by
  decide

/-- Tiles and shapes (R122): TACZ ac2; TMMA ac1, td2, td3; SHINV.all; TEXLOG.c. -/
theorem test_decode_tiles :
    decode [0b0000_000_00000_00000_00010_11010011_00] = .ok (.tacz { d := 2 }) ∧
    decode [0b0000_000_00011_00010_00001_11010100_01, 0, 0] = .ok (.tmma { w := { b := 3, a := 2, d := 1 } }) ∧
    decode [0b0000_001_00000_00000_00000_11100001_00] = .ok (.shinv { m := 1 }) ∧
    decode [0b0000_001_00000_00011_00101_11100100_00] = .ok (.texlog { m := 1, a := 3, d := 5 }) := by
  decide

/-! ### Single steps, with results worked out from the rules -/

/-- Core 0 about to issue in user mode, in a threadlet of frame 0 of region 0, the given g registers written. -/
def regs (gs : List (Nat × Nat)) : State :=
  gs.foldl (fun s p => s.modMe (·.writeG p.1 (BitVec.ofNat 64 p.2))) (State.reset.withFetchWord 160 0)

/-- The same in supervisor mode. -/
def superRegs (gs : List (Nat × Nat)) : State := (regs gs).modMe (·.modPl fun p => { p with sup := true, resident := false })

/-- What a step leaves. -/
noncomputable def after (o : Host.Outcome State Fault Refusal) (s : State) : State :=
  match o with
  | .next t => t
  | _ => s

/-- gD after an instruction. -/
noncomputable def gAfter (i : Instr) (gs : List (Nat × Nat)) (d : Nat) : Nat := ((after (exec i (regs gs)) (regs gs)).me.readG d).toNat

/-- R170: 0x7F + 1 on 8 signed bits wraps to −128, sign-extended, and under .sat stays 0x7F. -/
theorem test_add_wraps : gAfter (.add { m := 0, d := 3, a := 1, b := 2 }) [(1, 0x7F), (2, 1)] 3 = 0xFFFFFFFFFFFFFF80 := by decide
theorem test_add_saturates :
    gAfter (.addExt { w := { m := 0, d := 3, a := 1, b := 2 }, x := { xop := 1 } }) [(1, 0x7F), (2, 1)] 3 = 0x7F := by decide

/-- R171: the upper half of (2^64 − 1)² is 2^64 − 2. R172: a natural division by zero is all ones on 16 bits; −7 rem 2 is −1. -/
theorem test_mulhn_upper_half : gAfter (.mulhn { m := 3, d := 3, a := 1, b := 1 }) [(1, 2 ^ 64 - 1)] 3 = 2 ^ 64 - 2 := by decide
theorem test_divn_by_zero : gAfter (.divn { m := 1, d := 3, a := 1, b := 2 }) [(1, 5)] 3 = 0xFFFF := by decide
theorem test_rem_truncates : gAfter (.rem { m := 2, d := 3, a := 1, b := 2 }) [(1, 2 ^ 32 - 7), (2, 2)] 3 = 2 ^ 64 - 1 := by decide

/-- R175: SHA counts modulo the width: by 33 on 32 bits is by 1. R180: BFI into its own destination; BFX sign-extends. -/
theorem test_sha_count : gAfter (.sha { m := 2, d := 3, a := 1, b := 2 }) [(1, 0x80000000), (2, 33)] 3 = 0xFFFFFFFFC0000000 := by decide
theorem test_bfi_keeps_the_rest : gAfter (.bfi { w := { d := 3, a := 1 }, imm := 0x804 }) [(1, 0x5A), (3, 0xFFFFF)] 3 = 0xFF5AF := by decide
theorem test_bfx_extends : gAfter (.bfx { w := { m := 4, d := 3, a := 1 }, imm := 0x404 }) [(1, 0x80)] 3 = 2 ^ 64 - 8 := by decide

/-- R179: CTZ works on each of the eight bytes; of a zero byte it is 8. -/
theorem test_ctz_each_byte : gAfter (.ctz { m := 0, d := 3, a := 1 }) [(1, 0x0102040810204080)] 3 = 0x0001020304050607 := by decide

/-- R188: 1/3 in FP32 rounds to 0x3EAAAAAB; g0 as a destination takes nothing (R95). -/
theorem test_fdiv_rounds :
    gAfter (.fdiv { m := 0, d := 3, a := 1, b := 2 }) [(1, 0x3F800000), (2, 0x40400000)] 3 = 0x3EAAAAAB := by decide
theorem test_add_to_g0 : gAfter (.add { m := 3, d := 0, a := 1, b := 1 }) [(1, 1)] 0 = 0 := by decide

/-- R191: FCVT of 2^31 in FP32 to a signed 32-bit integer is clipped to 2^31 − 1, with INV. -/
theorem test_fcvt_clips :
    (let t := after (exec (.fcvt { w := { m := 4, d := 3, a := 1 }, x := { c := 0 } }) (regs [(1, 0x4F000000)])) (regs [])
     (t.me.readG 3).toNat = 0x7FFFFFFF ∧ t.me.spr.excflags.getLsbD 4 = true) := by decide

/-- R198, R7: ST.n32 stores little-endian at the end of the scratchpad; LD.i8 sign-extends. -/
theorem test_st_little_endian :
    ((after (exec (.st { m := 2, d := 3, a := 1 }) (regs [(1, 0xFFFFC), (3, 0x11223344)])) (regs [])).me.scr.byte 0xFFFFC).toNat = 0x44 := by
  decide
theorem test_ld_sign_extends :
    (let s := after (exec (.st { m := 0, d := 3, a := 1 }) (regs [(1, 0xFFFFF), (3, 0x80)])) (regs [])
     (after (exec (.ldExt { w := { m := 0, d := 4, a := 1 }, x := { xop := 1 } }) s) s).me.readG 4) = 0xFFFFFFFFFFFFFF80#64 := by decide

/-- R193, R422: a misaligned LD takes cause 0x04 with the address, enters EVEC in supervisor mode, and writes no register. -/
theorem test_misaligned_ld_traps :
    (let t := after (exec (.ld { m := 3, d := 3, a := 1 }) (regs [(1, 4), (3, 9)])) (regs [])
     t.me.sup.ecause = 4 ∧ t.me.sup.etval = 4 ∧ t.me.pl.sup = true ∧ t.me.readG 3 = 9) := by decide

/-- R198, R327: a store through another core's window reaches that core. -/
theorem test_st_to_another_core :
    ((after (exec (.st { m := 0, d := 3, a := 1 }) (regs [(1, 0x1000000 + 2 * 0x100000 + 5), (3, 7)])) (regs [])).core 2).scr.byte 5 = 7 := by decide

/-- R145, R294: a SIG of 1 takes a slot's COUNT from 2 to 1. -/
theorem test_sig_counts_down :
    (let s := (regs []).scrWrite 0 0 [2, 0, 0, 0]
     (after (exec (.sig { x := { sl := 0 }, imm := 1 }) s) s).me.slotWord 0 0) = 1 := by decide

/-- R142, R35: END.f of generation 255 leaves generation 1. -/
theorem test_end_wraps_the_generation :
    (let s := (regs []).modMe fun c => c.modFrame 0 fun e => { e with gen := 255 }
     ((after (exec (.endInstr { m := 1 }) s) s).me.frame 0).gen = 1) := by decide

/-- R159: BR −2 at pc 8 goes to 0; DBNZ at 1 falls through with 0. -/
theorem test_br_backwards :
    (let s := ((regs []).modMe (·.modPl fun p => { p with pc := 8 }))
     (after (exec (.br { m := 7, b := 31, a := 31, d := 30 }) s) s).me.pl.pc = 0) := by decide
theorem test_dbnz_falls_through :
    (let t := after (exec (.dbnz { m := 7, b := 31, a := 31, d := 3 }) (regs [(3, 1)])) (regs [])
     t.me.pl.pc = 4 ∧ t.me.readG 3 = 0) := by decide

/-- R123 step 3: RFE in user mode takes cause 0x03. R163: SVC takes cause 0x12 with its number. -/
theorem test_rfe_in_user_mode : (after (exec (.rfe {}) (regs [])) (regs [])).me.sup.ecause = 3 := by decide
theorem test_svc_number :
    (let t := after (exec (.svc { b := 1, a := 2, d := 3 }) (regs [])) (regs [])
     t.me.sup.ecause = 0x12 ∧ t.me.sup.etval = 0x443) := by decide

/-- R182: the home slice of 0x123456789000 is the exclusive or of the four bytes from bit 12 on and of its top four bits, twice. -/
theorem test_slice_hash : gAfter (.slice { d := 3, a := 1 }) [(1, 0x123456789000)] 3 = (0x89 ^^^ 0x67 ^^^ 0x45 ^^^ 0x23 ^^^ 0x11) := by decide

/-- R232: VADD.f32 of a register of ones gives 2 in every lane. R242: VCMP.eq sets sixteen bits. -/
def ones : Line := (List.range 16).foldl (fun v j => v ||| (0x3F800000#512 <<< (32 * j))) 0
theorem test_vadd_lanes :
    (let s := (regs []).modMe (·.writeF 1 ones)
     laneOf 32 ((after (exec (.vadd { m := 0, d := 3, a := 1, b := 1 }) s) s).me.readF 3) 15 = 0x40000000#32) := by decide +kernel
theorem test_vcmp_bits :
    (let s := (regs []).modMe (·.writeF 1 ones)
     (after (exec (.vcmp { m := 0, d := 3, a := 1, b := 1 }) s) s).me.readG 3 = 0xFFFF#64) := by decide +kernel

/-- FIPS 180-4: constants at the ends of their tables, and the padding and the first two rounds of its example "abc" (R90, R92). -/
theorem test_sha256_constants :
    rootFraction 2 2 = 0x6A09E667 ∧ rootFraction 2 19 = 0x5BE0CD19 ∧ rootFraction 3 2 = 0x428A2F98 ∧
    rootFraction 3 311 = 0xC67178F2 := by decide +kernel
theorem test_sha256_padding :
    shaWords (shaPadded [0x61, 0x62, 0x63]) = 0x61626380 :: (List.replicate 14 0 ++ [24]) := by decide +kernel
theorem test_sha256_rounds :
    shaRounds [0x428A2F98, 0x71374491] (0x61626380 :: (List.replicate 14 0 ++ [24]))
      [0x6A09E667, 0xBB67AE85, 0x3C6EF372, 0xA54FF53A, 0x510E527F, 0x9B05688C, 0x1F83D9AB, 0x5BE0CD19] =
      [0x5A6AD9AD, 0x5D6AEBCD, 0x6A09E667, 0xBB67AE85, 0x78CE7989, 0xFA2A4622, 0x510E527F, 0x9B05688C] := by decide +kernel

/-- FIPS 197's example C.3: AES-256 (R351). -/
theorem test_aes256 :
    aesEncipher (aesRoundKeys (List.range 32)) ((List.range 16).map (17 * ·)) =
      [0x8E, 0xA2, 0xB7, 0xCA, 0x51, 0x67, 0x45, 0xBF, 0xEA, 0xFC, 0x49, 0x90, 0x4B, 0x49, 0x60, 0x89] := by decide +kernel
theorem test_aes_bytes : aesSub 0x53 = 0xED ∧ aesUnsub 0xED = 0x53 ∧ aesMul 0x57 0x13 = 0xFE := by decide +kernel
theorem test_xts_doubles : xtsNext 1 = 2 ∧ xtsNext (2 ^ 127) = 0x87 := by decide
/-! ### Witnesses: states and operands that meet the hypotheses of the statements -/

/-- The instruction is well formed and its guards hold. -/
abbrev Ok (i : Instr) (s : State) : Prop := i.wf = true ∧ Runs i s
abbrev Well (i : Instr) (s : State) : Prop := i.wf = true ∧ Issues i s

/-- Both as one evaluation. -/
def okB (i : Instr) (s : State) : Bool := i.wf && s.me.guard (fieldsOf i).w.g && s.me.guard (fieldsOf i).x.g2
theorem okOf {i : Instr} {s : State} (h : okB i s = true) : Ok i s := by
  simp only [okB, Bool.and_eq_true] at h
  exact ⟨h.1.1, h.1.2, h.2⟩
theorem wellOf {i : Instr} {s : State} (h : okB i s = true) (r : (fieldsOf i).refOk s = true) : Well i s :=
  ⟨(okOf h).1, (okOf h).2, r⟩

theorem witness_DecodeOfEncodeIsTheInstruction :
    (Instr.bfx { w := { g := 15, m := 4, d := 31, a := 31 }, imm := 0x4000 }).wf = true ∧
    (Instr.bfx { w := { g := 15, m := 4, d := 31, a := 31 }, imm := 0x4000 }).isCore = true := by decide

theorem witness_DecodedWordsAreTheEncoding :
    decode [0x04629080, 5] = .ok (.add { m := 2, d := 4, a := 5, b := 6 }) ∧ (0x3C0 : Word32) ≠ 0 ∧ 0xF0 ≤ opOf 0x3C0 ∧
    opOf 0x10000000 = 0 ∧ Machine.rowOf (lenOf 0x9 != 0) (opOf 0x9) ≠ none ∧ Machine.rowOf (lenOf 0xE40 != 0) 0x1E = none := by decide

theorem witness_StepRunsTheDecodedInstruction :
    let s := State.reset.withFetchWord 32 0x04629080
    let i := Instr.add { m := 2, d := 4, a := 5, b := 6 }
    Moves s 0 s ∧ Issuing s ∧ i.wf = true ∧ i.isCore = true ∧ CodeAt s (encode i) ∧ s.me.pl.pc + i.len ≤ s.codeSize 0 s.me.pl.sup := by
  refine ⟨.inl ⟨rfl, rfl, rfl⟩, ⟨rfl, rfl, rfl, .inl rfl⟩, by decide, by decide, ?_, by decide⟩
  rw [CodeAt, if_neg (by decide)]
  intro j hj
  have : j < 4 := hj
  interval_cases j <;> exact ⟨_, rfl, by decide +kernel⟩

theorem witness_BadWordsTrapAtTheFetch :
    let s := State.reset.withFetchWord 32 0x3C0
    let t := (State.reset.withFetchWord 160 1).modMe (·.modPl fun p => { p with pc := 16 })
    Moves s 0 s ∧ Issuing s ∧ CodeAt s [0x3C0] ∧ [0x3C0].length = wordCount 0x3C0 ∧ decode [0x3C0] = .error (.unassigned 0xF0) ∧
    s.me.pl.pc + 4 * wordCount 0x3C0 ≤ s.codeSize 0 s.me.pl.sup ∧ Issuing t ∧ wordCount 1 = 3 ∧
    t.codeSize 0 t.me.pl.sup < t.me.pl.pc + 4 * wordCount 1 := by
  refine ⟨.inl ⟨rfl, rfl, rfl⟩, ⟨rfl, rfl, rfl, .inl rfl⟩, ?_, by decide, by decide, by decide, ⟨rfl, rfl, rfl, .inl rfl⟩, by decide,
    by decide⟩
  rw [CodeAt, if_neg (by decide)]
  intro j hj
  have : j < 4 := hj
  interval_cases j <;> exact ⟨_, rfl, by decide +kernel⟩

theorem witness_StepRunsTheScheduledEvent :
    ({ State.reset with sched := [.event (.nopc 4095)] } : State).sched = .event (.nopc 4095) :: [] ∧
    (Instr.nopc 4095).isCore = false ∧ (Instr.nopc 4095).wf = true ∧ (Instr.nopc 4096).wf = false ∧ Instr.nop.isCore = true := by decide

theorem witness_GuardNotHoldingChangesNothing :
    let i := Instr.add { g := 1 }
    i.wf = true ∧ i.isCore = true ∧ i ≠ .nop ∧ ¬ Runs i (regs []) ∧ supervisorForm i = false ∧ majorOf i = some 0x20 := by
  refine ⟨by decide, by decide, by decide, ?_, by decide, by decide⟩
  intro h
  exact absurd h.1 (by decide)

theorem witness_SupervisorFormsTrapInUserMode :
    ∀ i ∈ [Instr.rfe {}, .waiti {}, .synci { x := { sc := 1 } }, .tlbi { x := { sc := 4 } }, .cflush { w := { m := 1 } },
        .spinv { m := 1 }],
      i.wf = true ∧ supervisorForm i = true ∧ (regs []).me.pl.sup = false := by decide

theorem witness_TrapInstructionsTrap : ∀ i ∈ [Instr.svc {}, .trap { d := 1 }, .trap { d := 20 }, .brk {}], i.wf = true ∧
    (regs []).me.guard (fieldsOf i).w.g = true ∧ (regs []).me.guard (fieldsOf i).x.g2 = true := by decide

/-- A core in supervisor mode with a threadlet under it, a disposition, an EPC and a cause. -/
def trapped (disp epc cause : Nat) : State :=
  (superRegs []).modMe fun c => { c with sup := { c.sup with
    estat := BitVec.ofNat 64 (disp * 2 ^ 38 + 0x101), epc := BitVec.ofNat 32 epc, ecause := BitVec.ofNat 8 cause } }

theorem witness_RfeActsByItsDisposition :
    Ok (.rfe {}) (trapped 0 16 4) ∧ (trapped 0 16 4).me.pl.sup = true ∧ (trapped 0 16 4).me.sup.estat.getLsbD 40 = false ∧
    (trapped 0 16 4).me.sup.estat.extractLsb' 0 32 ≠ 0 ∧ (trapped 0 16 4).me.pl.doomed = false ∧ (trapped 0 16 4).me.pl.haltReq = false ∧
    (trapped 0 16 4).codeSize 0 false = 20 ∧ ((trapped 3 0 0).finishMoves 0).settling 0 = false ∧ (trapped 3 0 16).me.sup.ecause = 0x10 ∧
    (trapped 3 0 16).me.sup.estat.getLsbD 41 = false ∧
    ((trapped 1 16 4).modMe (·.modPl fun p => { p with doomed := true })).me.pl.doomed = true ∧
    (∀ c ∈ [0, 0x0B, 0x0E], (trapped 4 16 c).me.sup.estat.getLsbD 40 = true ∧ (trapped 4 16 c).me.sup.ecause = BitVec.ofNat 8 c ∧
      (trapped 4 16 c).me.sup.estat.extractLsb' 38 2 = 0) ∧
    (let s := ({ trapped 0 16 4 with cur := 4096 } : State).modMe fun _ => { (trapped 0 16 4).me with sup := {} }
     isFw s.cur = true ∧ s.me.sup.estat.extractLsb' 0 32 = 0 ∧ s.me.sup.epc = 0 ∧ 0 < s.codeSize s.cur false) ∧
    (let s := (trapped 3 0 0).modMe (·.modEng fun e => { e with copy := [{ live := true }] })
     (s.finishMoves 0).settling 0 = true) := by
  refine ⟨okOf (by decide), ?_⟩
  decide

/-- A memory error after which the threadlet may restart: one that the firing log holds, on its first try, with core 1 to go to; one that
has had its three tries; one of which the log holds nothing. -/
theorem witness_RfeRestarts :
    let s : State := (trapped 3 16 0x10).modMe fun c => { c with
      sup := { c.sup with estat := c.sup.estat ||| BitVec.ofNat 64 (2 ^ 41) }, pl := { c.pl with after := some 7 } }
    let u (retry : Nat) : State := s.setCluster 0 { log := [(7, some { retry := retry })] }
    Ok (.rfe {}) (u 0) ∧ (u 0).me.sup.ecause = 0x10 ∧ (u 0).me.sup.estat.getLsbD 41 = true ∧ (u 0).me.sup.estat.extractLsb' 38 2 = 3 ∧
    (u 0).me.pl.doomed = false ∧ (u 0).me.pl.haltReq = false ∧ (u 0).regionOf (u 0).cur = some 0 ∧ clusterOf (u 0).cur = 0 ∧
    (u 0).me.sup.estat.getLsbD 40 = false ∧ (u 0).me.sup.estat.extractLsb' 0 32 ≠ 0 ∧
    (Sparse.get none ((u 0).cluster 0).log 7).map (·.retry) = some 0 ∧ (Sparse.get none ((u 3).cluster 0).log 7).map (·.retry) = some 3 ∧
    Sparse.get none (s.cluster 0).log 7 = none ∧ 0 ∈ ((u 0).region 0).cores ∧ (u 0).fw.fenced.testBit 0 = false := by
  refine ⟨okOf (by decide), ?_⟩
  unfold State.cluster
  decide +kernel

theorem witness_WaitiAndSynciAct :
    Ok (.waiti {}) (superRegs []) ∧ Well (.synci { x := { sc := 5 } }) (superRegs []) ∧ (superRegs []).me.pl.sup = true ∧
    isFw 4096 = true ∧ validCore 3831 = true := by
  refine ⟨okOf (by decide), wellOf (by decide) (by decide), by decide, by decide, by decide⟩

/-- Core 2, told by core 0's SYNCI to empty its caches, among those still awaited. -/
def told (await : List Nat) : State := { State.reset with
  msgs := [{ src := .core 0, dst := .core 2, chan := .signal, body := .synci 0 }], syncs := [{ id := 0, ref := {}, await := await }] }
theorem witness_SynciArrives :
    ∀ await ∈ [[2], [2, 5]],
      (told await).deliverable 0 = some { src := .core 0, dst := .core 2, chan := .signal, body := .synci 0 } ∧
      (told await).syncs.find? (fun x => x.id == 0) = some { id := 0, ref := {}, await := await } ∧
      (await.filter (fun c => c != 2) = if await = [2] then [] else [5]) := by
  decide

/-- An unassigned number, a read-only one, one for the supervisor, and one of 6 bits at 63 and at 64. -/
theorem witness_MfsAndMtsAct :
    Ok (.mts { b := 0, d := 4, a := 1 }) (regs []) ∧ Ok (.mfs { b := 0, d := 1, a := 4 }) (regs []) ∧ sprInfo 0x19 = none ∧
    sprInfo 0 = some ⟨true, false, true, 0⟩ ∧ sprInfo 0x10 = some ⟨false, false, false, 2 ^ 20 - 1⟩ ∧
    sprInfo 4 = some ⟨true, true, false, 63⟩ ∧ (63 : Word) &&& ~~~BitVec.ofNat 64 63 = 0 ∧ (64 : Word) &&& ~~~BitVec.ofNat 64 63 ≠ 0 ∧
    (regs []).sprCond 0 4 63 = true ∧ (superRegs []).me.pl.sup = true ∧ (256 : Word) &&& ~~~BitVec.ofNat 64 (2 ^ 20 - 1) = 0 ∧
    (superRegs []).sprCond 0 0x11 256 = false ∧ State.reset.sprCond 0 0x11 256 = true ∧ State.reset.sprCond 0 0x11 255 = false := by
  refine ⟨okOf (by decide), okOf (by decide), ?_⟩
  decide

theorem witness_SpecialRegistersReadBack :
    sprInfo 0x10F = some ⟨false, false, false, 2 ^ 64 - 1⟩ ∧ (2 ^ 64 - 1) &&& (2 ^ 64 - 1) = 2 ^ 64 - 1 ∧ 0x10F ≠ 0x110 ∧ 0x108 ≤ 0x10F := by decide

/-- The integer, floating-point and vector instructions in register mode complete on any operands: one for each clause of their
statements, at the ends of its opcodes. -/
theorem witness_results :
    ∀ x ∈ [(Instr.add {}, 0x20), (.mul {}, 0x22), (.mulh {}, 0x23), (.remn {}, 0x28), (.and {}, 0x29), (.orn {}, 0x2D), (.shl {}, 0x2E),
        (.rot {}, 0x31), (.min {}, 0x32), (.neg {}, 0x37), (.cmp {}, 0x38), (.cmpExt {}, 0x38), (.sel {}, 0x39), (.mov {}, 0x3A), (.pand {}, 0x46), (.por {}, 0x47),
        (.pxor {}, 0x48), (.pnot {}, 0x49), (.pmov {}, 0x4A), (.clz {}, 0x3B), (.brev {}, 0x3F), (.bfx { imm := 0x4000 }, 0x40),
        (.bfi { imm := 0x13F }, 0x41), (.sext {}, 0x42), (.zext {}, 0x43), (.lea {}, 0x44), (.madd {}, 0x45), (.slice {}, 0x4B), (.fadd {}, 0x60),
        (.fsub {}, 0x61), (.fmul {}, 0x62), (.ffma {}, 0x63), (.fdiv {}, 0x64), (.fsqrt {}, 0x65), (.fmin {}, 0x66), (.fmax {}, 0x67),
        (.fcmp {}, 0x68), (.fcvt { x := { c := 1 } }, 0x69), (.fcvt {}, 0x69), (.fcvt { x := { c := 7 } }, 0x69), (.fcvt { w := { m := 7 } }, 0x69),
        (.fabs {}, 0x6A), (.fneg {}, 0x6B), (.fclass {}, 0x6C)],
      okB x.1 (regs []) = true ∧ majorOf x.1 = some x.2 := by decide

theorem witness_vector_results :
    ∀ x ∈ [(Instr.vadd {}, 0xA0), (.vsub {}, 0xA1), (.vmul {}, 0xA2), (.vfma {}, 0xA3),
        (.vmin {}, 0xA4), (.vmax {}, 0xA5), (.vabs {}, 0xA6), (.vneg {}, 0xA7), (.vcmp {}, 0xA8), (.vsel {}, 0xA9), (.vand { m := 5 }, 0xAA),
        (.vimul { m := 7 }, 0xB0), (.vcvt { x := { c := 1 } }, 0xB1), (.vred {}, 0xB2), (.vred { m := 5 }, 0xB2), (.vscan {}, 0xB3), (.vexp2 {}, 0xB4),
        (.vsqrt {}, 0xB8), (.vsigm {}, 0xBC), (.vperm {}, 0xBD), (.vbcast {}, 0xBE), (.vmov {}, 0xBF), (.vrand { m := 5 }, 0xC4),
        (.vdot { m := 7 }, 0xC6), (.vdot { m := 1 }, 0xC6), (.vqnt { x := { c := 6 } }, 0xC5)],
      okB x.1 (regs []) = true ∧ majorOf x.1 = some x.2 ∧ (fieldsOf x.1).bound (regs []) = [] := by decide

theorem witness_RoundingGivesTheNeighbour :
    6 ∈ [1, 2, 3, 4, 5, 6, 11] ∧ (roundTo (fmtOf 6) 3 0 true 7 (-1)).2 &&& 4 = 0 ∧ 15 < 2 ^ (fmtOf 6).width ∧
    unpack (fmtOf 6) 15 ≠ .nan false := by decide +kernel

theorem witness_SpecialFunctionExactCases :
    0x7F800000 < 2 ^ vtWidth 0 ∧ unpack (vtFmt 0) 0x7F800000 = .inf false ∧ unpack (vtFmt 0) 0xFF800000 = .inf true ∧
    unpack (vtFmt 0) 0x7FC00000 = .nan false ∧ unpack (vtFmt 0) 0x7F800001 = .nan true ∧ unpack (vtFmt 1) 0x7F80 = .inf false ∧
    unpack (vtFmt 0) 0x48800000 = .fin false 8388608 (-5) ∧ unpack (vtFmt 0) 0x80000000 = .fin true 0 (-149) ∧
    unpack (vtFmt 0) 0x43000000 = .fin false 8388608 (-16) ∧ (vtFmt 0).emin = -149 ∧ (vtFmt 0).eb = 8 ∧ (vtFmt 2).emin = -24 := by decide +kernel

/-- 1/2 for VEXP2, VSIN and VTANH; 3 for VLOG2; 2^127 for VRCP; 2 for VRSQ. -/
theorem witness_SpecialFunctionBounds :
    unpack (vtFmt 0) 0x3F000000 = .fin false 8388608 (-24) ∧ unpack (vtFmt 0) 0x40400000 = .fin false 12582912 (-22) ∧
    unpack (vtFmt 0) 0x7F000000 = .fin false 8388608 104 ∧ unpack (vtFmt 0) 0x40000000 = .fin false 8388608 (-22) ∧
    (¬ ∃ z : Int, (FV.fin false 8388608 (-24)).rat = z) ∧ (FV.fin false 8388608 (-24)).rat < 2 ^ 7 ∧
    (¬ ∃ z : Int, (FV.fin false 12582912 (-22)).rat = (2 : Rat) ^ z) ∧
    (¬ ∃ z : Int, |(FV.fin false 8388608 104).rat| = (2 : Rat) ^ z ∧ -126 ≤ -z) ∧
    ¬ ∃ z : Int, (FV.fin false 8388608 (-22)).rat = (2 : Rat) ^ (2 * z) := by
  have inj : Function.Injective fun z : Int => (2 : Rat) ^ z := zpow_right_injective₀ (by norm_num) (by norm_num)
  refine ⟨by decide +kernel, by decide +kernel, by decide +kernel, by decide +kernel, ?_, ?_, ?_, ?_, ?_⟩
  · rintro ⟨z, h⟩
    have h2 : (1 : Rat) = ((2 * z : Int) : Rat) := by rw [Int.cast_mul, ← h]; norm_num [FV.rat]
    have := Int.cast_injective (α := Rat) (a₁ := 1) (a₂ := 2 * z) (by simpa using h2)
    omega
  · norm_num [FV.rat]
  · rintro ⟨z, h⟩
    have h3 : (2 : Rat) ^ z = 3 := by rw [← h]; norm_num [FV.rat]
    rcases lt_or_ge z 2 with hz | hz
    · have := zpow_le_zpow_right₀ (a := (2 : Rat)) (by norm_num) (show z ≤ 1 by omega)
      norm_num [h3] at this
    · have := zpow_le_zpow_right₀ (a := (2 : Rat)) (by norm_num) hz
      norm_num [h3] at this
  · rintro ⟨z, h, hz⟩
    have : z = 127 := inj (by simp only; rw [← h]; norm_num [FV.rat])
    omega
  · rintro ⟨z, h⟩
    have : 2 * z = 1 := inj (by simp only; rw [← h]; norm_num [FV.rat])
    omega

/-- Branches from pc 0 in a code of 20 bytes: the targets 0, 16, 20, −4 and 2. -/
theorem witness_BranchesMoveThePc :
    Ok (.br {}) (regs []) ∧ Ok (.jalr { a := 1 }) (regs [(1, 16)]) ∧ Ok (.dbnz { d := 1 }) (regs []) ∧ Ok (.brExt { imm := 0xFFFFFFFF }) (regs []) ∧
    (regs [(1, 16)]).codeSize 0 false = 20 ∧ opA (.jalr { a := 1 }) (regs [(1, 20)]) = 20 ∧
    (opA (.jalr { a := 1 }) (regs [(1, 2 ^ 32 - 1)])).toNat < 2 ^ 32 ∧
    2 ^ 32 ≤ (opA (.jalr { a := 1 }) (regs [(1, 2 ^ 32)])).toNat ∧ opD (.dbnz { d := 1 }) (regs [(1, 1)]) = 1 ∧
    opD (.dbnz { d := 1 }) (regs []) ≠ 1 := by
  refine ⟨okOf (by decide), okOf (by decide), okOf (by decide), okOf (by decide), ?_⟩
  decide

theorem witness_EndDiscardsTheThreadlet :
    Ok (.endInstr {}) (regs []) ∧ majorOf (.endInstr {}) = some 0x01 ∧ (regs []).me.pl.live = true ∧ ((regs []).me.frame 0).freeP = false := by
  refine ⟨okOf (by decide), ?_⟩
  decide

/-- The core in a weave with one threadlet and one template. -/
def woven (gs : List (Nat × Nat)) : State :=
  (regs gs).setRegion 0 { (regs gs).region 0 with weave := { codesz := 20, table := [0], templates := [[]] } }

/-- FORK and ROAM in a weave of one template and one threadlet; the last job of CANCEL, and the values beside it. -/
theorem witness_RequestsAreSent :
    Well (.fork { w := { a := 1 }, imm := 0x1B00 }) (woven [(1, 23)]) ∧ Ok (.free { a := 1 }) (regs [(1, 0x101)]) ∧
    Ok (.roam { imm := 1 }) (woven []) ∧ Ok (.bar { x := { sc := 2 } }) (regs []) ∧ Well (.dqsteal { imm := 26 }) (regs []) ∧
    Well (.wdq { w := { d := 1 } }) (regs [(1, 0xFFFF0)]) ∧ Well (.termw { x := { sc := 3 } }) (regs []) ∧
    Well (.cancelInstruction { w := { a := 1 } }) (regs [(1, 65535)]) ∧
    (woven []).coreOk 23 = true ∧ (woven []).coreOk 32 = false ∧ (woven []).tplcnt = 1 ∧ (woven []).tlcnt = 1 ∧
    (regs []).handleOk 0 0x101 = true ∧ (regs []).handleOk 0 0 = false ∧ (regs []).me.pl.handle = 1 ∧ localRange 0xFFFF0 16 = true ∧
    (∀ i ∈ [Instr.fork { x := { sr := 1 } }, .dqsteal { x := { sr := 1 } }, .wdq { x := { sr := 1 } }, .termw { x := { sr := 1, sc := 3 } },
      .cancelInstruction { x := { sr := 1 } }], i.wf = true ∧ (fieldsOf i).refOk (woven []) = false) ∧
    (regs []).regionOf 0 = some 0 := by
  refine ⟨wellOf (by decide) (by decide), okOf (by decide), okOf (by decide), okOf (by decide), wellOf (by decide) (by decide),
    wellOf (by decide) (by decide), wellOf (by decide) (by decide), wellOf (by decide) (by decide), ?_⟩
  decide

/-- A bound barrier; a slot word at 2^31 − 1 and 2^31 under ARM; a full and a free held list. -/
theorem witness_SlotInstructionsUpdateSlots :
    Well (.sig { x := { sr := 1, f := 1 }, imm := 65535 }) (regs [(1, 0x101)]) ∧ Well (.sig { imm := 1 }) (regs []) ∧
    Well (.sigv { w := { m := 2 }, imm := 26 }) (regs []) ∧ Well (.arm { imm := 0x7FFFFFFF }) (regs []) ∧ Ok (.arm { w := { m := 1, a := 1 } }) (woven [(1, 2 ^ 31)]) ∧
    Well (.arm { w := { m := 1, a := 1 } }) (woven [(1, 65535)]) ∧ slotTix 65535 < (woven []).tlcnt ∧ Ok (.slotrd {}) (regs []) ∧
    (regs []).me.live 1 = true ∧ ((regs []).me.frame 0).resident = true ∧ (regs []).me.sup.shtcmp = [] ∧ (regs []).me.fe.held = [] ∧
    1 < slotCount (((regs []).scrWrite 0 0 [2, 0, 0, 0]).me.slotWord 0 0) ∧ (regs []).handleOk 0 0xFFFFFFFF = false ∧
    (regs []).me.net.region ≠ none ∧ (State.reset.core 5).net.region = none ∧
    (let m : Msg := { src := .core 0, dst := .core 0, chan := .signal, body := .arrival { handle := 1, slot := 0, n := 1 }, own := true }
     let f := (regs []).me
     f.holds m = false ∧ f.away m = false ∧ (f.modPl fun p => { p with halted := true }).holds m = true ∧
     (f.modFe fun e => { e with released := [m] }).fe.released.any m.sameLine = true ∧
     (f.modFe fun e => { e with pending := [m] }).fe.pending.any m.sameLine = true ∧ (f.modFrame 0 fun e => { e with st := 5 }).away m = true) := by
  refine ⟨wellOf (by decide) (by decide), wellOf (by decide) (by decide), wellOf (by decide) (by decide), wellOf (by decide) (by decide),
    okOf (by decide), wellOf (by decide) (by decide), ?_, okOf (by decide), ?_⟩ <;> decide

/-- The core with a deque of n entries at 0x1000, its header and its entries given. -/
def deque (n top cnt : Nat) : State :=
  ((regs []).modMe fun c => { c with spr := { c.spr with dqbase := 0x1000, dqlim := BitVec.ofNat 21 (0x1000 + 64 + 16 * n) } }).scrWrite 0
    0x1000 (natLE 4 top ++ natLE 4 0 ++ natLE 4 cnt)

/-- An uncorrectable error in an 8-byte word of the moving core's scratchpad. -/
def struck (s : State) (word : Nat) : State := s.modMe fun c => { c with scr := { c.scr with bad := [(word, true)] } }

theorem witness_PriorityBarrierAndDequeResults :
    Ok (.prio { m := 3 }) (regs []) ∧ Ok (.barcfg { w := { a := 1 }, x := { sc := 2 }, imm := 0xFFFF0000 }) (regs [(1, 0x101)]) ∧
    Ok (.dqpush {}) (regs []) ∧ Ok (.dqpop { d := 28 }) (regs []) ∧ sameInst 2 0 0 = true ∧ sameInst 2 0 2048 = false ∧ (regs []).me.dqCap = 0 ∧
    (deque 2 1 2).me.dqCap = 2 ∧ (deque 2 1 2).me.dqCnt = 2 ∧ (deque 2 1 1).me.dqCnt = 1 ∧ (deque 2 1 0).me.dqCnt = 0 ∧
    (deque 2 1 1).me.dqHeadBad = false ∧ (deque 2 1 1).me.dqEntryBad 1 = false ∧ (struck (deque 2 1 1) 0x201).me.dqHeadBad = true ∧
    (struck (deque 2 1 1) 0x20A).me.dqHeadBad = false ∧ (struck (deque 2 1 1) 0x20A).me.dqEntryBad 1 = true := by
  refine ⟨okOf (by decide), okOf (by decide), okOf (by decide), okOf (by decide), ?_⟩
  decide +kernel

/-- Addresses at the ends of the map and of the descriptor window; a value that is no tile descriptor. -/
theorem witness_LoadsAndStoresMoveLocalBytes :
    Ok (.ld { m := 3, a := 1 }) (regs [(1, 0xFFFF8)]) ∧ Ok (.st { m := 2, a := 1, d := 2 }) (regs [(1, 0x27FFFFC)]) ∧
    Ok (.ld { m := 3, a := 1 }) (regs [(1, 0x800038)]) ∧ localRange 0xFFFF8 8 = true ∧ localRange 0xFFFFC 8 = false ∧
    localRange 0x27FFFFC 4 = true ∧ inWindow 0x80003F = true ∧ inWindow 0x800040 = false ∧ inWindow 0x7FFFFF = false ∧
    (regs []).localBad 0 0xFFFF8 8 = false ∧
    (struck (regs []) 0x1FFFF).localBad 0 0xFFFF8 8 = true ∧
    okB (.ldExt { w := { m := 3, a := 1 }, x := { xop := 1 } }) (regs [(1, 0x800038)]) = true ∧
    (2 ^ 41 - 1 : Word) >>> 41 = 0 ∧ (2 ^ 41 : Word) >>> 41 ≠ 0 ∧ (0xA0000000 : Word).extractLsb' 28 4 ≤ 10 ∧
    ¬ (0xB0000000 : Word).extractLsb' 28 4 ≤ 10 := by
  refine ⟨okOf (by decide), okOf (by decide), okOf (by decide), ?_⟩
  decide +kernel

theorem witness_StoresChangeOnlyTheirBytes :
    let i := Instr.st { m := 3, a := 1, d := 2 }
    let s := regs [(1, 0x100000 - 8), (2, 5)]
    Ok i s ∧ majorOf i = some 0x71 ∧ NoSave s ∧ inWindow (addressOf i s) = false ∧ LocalOk (addressOf i s) 8 8 ∧
    s.localBad s.cur (addressOf i s) 8 = false ∧ ∃ t, exec i s = .next t := by
  refine ⟨okOf (by decide), by decide, ?_, by decide, ⟨by decide, by decide⟩, by decide, _, rfl⟩
  unfold NoSave
  decide

/-- The last global address, the first beyond, and a misaligned one; a local operand that fits and one that does not. -/
theorem witness_AddressChecksTrap :
    Ok (.fetch { w := { m := 3, a := 1, d := 2 } }) (regs [(1, 2 ^ 48 - 8)]) ∧ GlobalOk (2 ^ 48 - 8) 8 ∧ ¬ 2 ^ 48 < 2 ^ 48 ∧ (2 ^ 48 - 4) % 8 ≠ 0 ∧
    addressOf (.fetch { w := { m := 3, a := 1, d := 2 } }) (regs [(1, 2 ^ 48)]) = 2 ^ 48 ∧ Ok (.ld { m := 3, a := 1 }) (regs [(1, 0x100000)]) ∧
    localRange 0x100000 8 = false ∧ localRange 0xFFFFC 4 = true ∧ 0xFFFFC % 8 ≠ 0 ∧ inWindow 0x100000 = false ∧
    (∀ i ∈ [Instr.post { w := { m := 4, a := 1, d := 2 } }, .stf { m := 4, a := 1, d := 2 }, .stn { w := { m := 6, a := 1, d := 2 } }],
      okB i (regs [(1, 2 ^ 48 - 64)]) = true) ∧ localRange 0xFFFF8 16 = false ∧ localRange 0x8 16 = true ∧ 8 % 16 ≠ 0 := by
  refine ⟨okOf (by decide), ⟨by decide, by decide⟩, by decide, by decide, by decide, okOf (by decide), ?_⟩
  decide

theorem witness_GlobalReadsAreRequested :
    (∀ i ∈ [Instr.fetch { w := { m := 6, a := 1, d := 2 } }, .ldf { w := { m := 3, a := 1, d := 2 } }, .aop { w := { m := 3, a := 1, d := 2 } },
        .aop { w := { m := 3, a := 1 } }, .acas { w := { m := 3, a := 1, d := 2 } }],
      okB i (regs [(1, 2 ^ 48 - 64)]) = true ∧ (fieldsOf i).refOk (regs []) = true) ∧
    GlobalOk (2 ^ 48 - 64) 64 ∧ LocalOk 0 64 64 ∧ (regs []).constHit 0 (2 ^ 48 - 64) 64 = none ∧ (Instr.acas { w := { m := 4, a := 1, b := 28, d := 2 }, x := { c := 2 } }).wf = true := by
  refine ⟨by decide, ⟨by decide, by decide⟩, ⟨by decide, by decide⟩, by decide, by decide⟩

/-- A journal with room and one that is full. -/
theorem witness_PostedStoresEnterTheJournal :
    (∀ i ∈ [Instr.stf { m := 3, a := 1 }, .post { w := { m := 6, a := 1, d := 2 } }, .stn { w := { m := 0, a := 1 } }, .feop { m := 1, a := 1 }],
      okB i (regs [(1, 2 ^ 48 - 64)]) = true) ∧
    (regs []).me.journalFree = some 0 ∧
    ((regs []).modMe (·.modNet fun n => { n with journal := (List.range 64).map fun e => (e, { state := 1 }) })).me.journalFree = none ∧
    (regs []).localBad 0 0 64 = false ∧ (struck (regs []) 7).localBad 0 0 64 = true ∧ (struck (regs []) 8).localBad 0 0 64 = false := by
  decide +kernel

/-- With nothing in flight, with a store in flight, and with one that the Belide port has accepted. -/
theorem witness_FencesWaitForTheirStores :
    Well (.fence { x := { sc := 5 } }) (regs []) ∧ Well (.fence { x := { sc := 6 } }) (regs []) ∧ Well (.drain { x := { sc := 1 } }) (regs []) ∧
    (regs []).me.net.fences = [] := by
  refine ⟨wellOf (by decide) (by decide), wellOf (by decide) (by decide), wellOf (by decide) (by decide), ?_⟩
  decide

theorem witness_CacheInstructionsAct :
    Ok (.pref { a := 1 }) (regs [(1, 2 ^ 48 - 1)]) ∧ Well (.tlbi { w := { a := 1, b := 2 }, x := { sc := 4 } }) (superRegs [(1, 2 ^ 48 - 1), (2, 65535)]) ∧
    Well (.cflush { w := { a := 1, b := 2 } }) (regs [(1, 2 ^ 48 - 1), (2, 1)]) ∧ (superRegs []).me.pl.sup = true ∧ (2 ^ 48 - 1) + 1 ≤ 2 ^ 48 ∧
    2 ^ 48 < (2 ^ 48 - 1) + 2 ∧ okB (.tlbi { x := { sc := 4 } }) (superRegs []) = true ∧ (superRegs [(2, 65536)]).me.readG 2 = 65536 ∧
    (fieldsOf (.tlbi { x := { sc := 4, sr := 1 } })).refOk (superRegs []) = false ∧ (fieldsOf (.cflush { x := { sr := 1 } })).refOk (regs []) = false := by
  refine ⟨okOf (by decide), wellOf (by decide) (by decide), wellOf (by decide) (by decide), ?_⟩
  decide

/-- GET and PUT in both forms: nothing, one byte at the end of the scratchpad, one beyond; part 65,535 and 65,536; element sizes 0, 1,
65,536 and 65,537; 31 and 32 operations in the engine. -/
theorem witness_TransfersEnterTheCopyEngine :
    Well (.copy { w := { a := 1 }, imm := 0xFF }) (regs [(1, 0xFFFA0)]) ∧ Well (.bupd { w := { m := 3, a := 1 }, x := { c := 3 } }) (regs [(3, 1)]) ∧
    Well (.get { w := { a := 1, b := 2, d := 3 } }) (regs [(1, 2 ^ 48 - 1), (2, 1), (3, 0xFFFFF)]) ∧
    Well (.put { w := { m := 1, b := 2 } }) (regs [(2, 0xFFFF0)]) ∧ LocalOk 0xFFFA0 96 32 ∧ localRange 0xFFFFF 1 = true ∧ localRange 0xFFFFF 2 = false ∧
    LocalOk 0xFFFF0 16 16 ∧ localRange 0 (1 * 65536) = true ∧ LocalOk 0 (4 * 1) 4 ∧ (regs []).localBad 0 0xFFFF0 16 = false ∧
    (struck (regs []) 0x1FFFF).localBad 0 0xFFFF0 16 = true ∧ okB (.put { w := { m := 1, b := 2, d := 3 }, x := { c := 4 } }) (regs []) = true ∧
    ((regs []).scrWrite 0 68 [2, 0, 0, 0, 16]).localN 0 68 2 = 2 ∧ ((regs []).scrWrite 0 68 [2, 0, 0, 0, 16]).localN 0 72 4 = 16 ∧
    (regs []).me.eng.remote = [] ∧ ((regs []).me.ops .copy).length < 32 ∧
    ¬ ((((regs []).modMe (·.modEng fun e => { e with copy := List.replicate 32 {} })).me.ops .copy).length < 32) := by
  refine ⟨wellOf (by decide) (by decide), wellOf (by decide) (by decide), wellOf (by decide) (by decide), wellOf (by decide) (by decide),
    ⟨by decide, by decide⟩, by decide, by decide, ⟨by decide, by decide⟩, by decide, ⟨by decide, by decide⟩, ?_⟩
  decide

/-- The core with an entry in its queue 0, and with a stream bound to f1. -/
def queued : State := (regs []).modMe fun c => (c.modNet fun n => { n with queues := [(0, { entries := [(7, false)] })] }).setStream 1
  (some { words := [0, 4, 0, 0, 0, 0, 0, 0] })

/-- Queue addresses at the ends of their range; a full register and an empty one; a configuration at and beyond its bits. -/
theorem witness_QueuesAndStreamsAct :
    Well (.enq { w := { a := 1, b := 2 } }) (regs [(1, 0x7EF7)]) ∧ validCore (0x7EF7 % 4096) = true ∧ validCore (0x7EF8 % 4096) = false ∧ 0x7EF8 < 2 ^ 15 ∧
    Ok (.deq { d := 1 }) queued ∧ queued.me.queueBound 0 = false ∧ (queued.me.lq 0).entries = [(7, false)] ∧ (queued.me.lq 1).entries = [] ∧
    Ok (.qcfg { w := { a := 7, b := 2 } }) (regs [(2, 1)]) ∧ cfgGlen 1 = false ∧ 2 ^ 48 - 512 + 1 < 2 ^ 48 ∧ (2 ^ 48 - 512 + 1) / 2 % 256 = 0 ∧
    Ok (.sbind { w := { a := 1, d := 1 } }) (regs [(1, 0xFFFC0)]) ∧ LocalOk 0xFFFC0 64 64 ∧ (regs []).me.streamBusy 1 = false ∧
    Ok (.sunb { a := 1, d := 2 }) queued ∧ Ok (.sunb { m := 1, a := 1, d := 2 }) queued ∧ (queued.me.stream 1).isSome = true ∧ queued.me.stream 0 = none := by
  refine ⟨wellOf (by decide) (by decide), by decide, by decide, by decide, okOf (by decide), by decide, by decide, by decide, okOf (by decide),
    by decide, by decide, by decide, okOf (by decide), ⟨by decide, by decide⟩, by decide, okOf (by decide), okOf (by decide), by decide, by decide⟩

/-- A control entry in a queue with and without GLEN; a glint handler of the weave; the words of a channel's descriptor, its ring at the
end of the scratchpad and beyond it, its core within the region and outside it, its handle good and bad. -/
theorem witness_ControlEntriesAndChannels :
    (let s := (regs []).modMe fun c => c.setLq 0 { entries := [(7, true)], cfg := 2 ^ 33 }
     (s.me.lq 0).entries = [(7, true)] ∧ s.me.queueBound 0 = false ∧ cfgGlen (s.me.lq 0).cfg = true) ∧
    (let s := (regs []).setRegion 0 { (regs []).region 0 with weave := { codesz := 20, table := [2 ^ 33], templates := [[]] } }
     cfgGtix (2 ^ 33) < s.tlcnt ∧ (s.weaveOf s.cur).glint (cfgGtix (2 ^ 33)) = true ∧ s.tplcnt ≠ 0) ∧
    ((streamWords 2 [0xFFFC0 + 17 * 2 ^ 48, 0, 1, 1, 0, 0, 0, 0]).all (·.2)) = true ∧ 0xFFFC0 + 64 * 1 ≤ 0x100000 ∧
    (regs []).inRegion 0 0 = true ∧ (regs []).inRegion 0 32 = false ∧ (regs []).handleOk 0 1 = true ∧ (regs []).handleOk 0 0 = false ∧
    okB (.sbind { w := { m := 2, a := 1, d := 1 } }) (regs []) = true := by decide +kernel

theorem witness_ReductionsAreSent :
    Well (.redsend { w := { m := 5, a := 1, b := 2 }, imm := 63 }) (regs [(1, 0xFFF00), (2, 64)]) ∧ LocalOk 0xFFF00 (64 * (vtWidth 5 / 8)) 64 ∧
    256 < 65 * (vtWidth 5 / 8) ∧ Ok (.redcfg { w := { a := 1 } }) (regs [(1, 0xFFFC0)]) ∧ LocalOk 0xFFFC0 64 64 ∧
    (regs []).localBad 0 0xFFF00 256 = false ∧ redcfgBad (regs []) [1 + 2 ^ 32, 0, 0, 0, 0, 0, 0, 0] = none ∧
    redcfgBad (regs []) [1, 1, 0xFFFC0, 0, 0, 0, 0, 0] = none ∧ redcfgBad (regs []) [1, 1, 0x100000, 0, 0, 0, 0, 0] = none ∧
    (regs []).handleOk 0 1 = true ∧ (regs []).handleOk 0 0 = false := by
  refine ⟨wellOf (by decide) (by decide), ⟨by decide, by decide⟩, by decide, okOf (by decide), ⟨by decide, by decide⟩, ?_⟩
  decide

/-- Aligned, misaligned and out of the map; the last base of a gather. -/
theorem witness_VectorMemoryResults :
    (let i := Instr.vstExt { w := { a := 1 }, x := { f := 3 } }
      let s := struck (regs [(3, 7)]) 1
      okB i s = true ∧ (fieldsOf i).bound s = [] ∧ (maskOf i s).getLsbD 2 = true ∧ (maskOf i s).getLsbD 3 = false ∧
        s.localBad 0 8 8 = true ∧ s.localBad 0 16 8 = false) ∧
    (let i := Instr.vscatExt { w := { a := 1, b := 2 }, x := { f := 3 } }
      let s := struck (regs [(3, 7)]) 0
      okB i s = true ∧ (fieldsOf i).bound s = [] ∧ (maskOf i s).getLsbD 0 = true ∧ (maskOf i s).getLsbD 3 = false ∧ s.localBad 0 0 4 = true) ∧
    resolveLocal 0 0x40 = resolveLocal 0 0x1000040 ∧ (resolveLocal 0 0x40).isSome = true ∧ resolveLocal 4096 0x40000 = none ∧
    (∀ i ∈ [Instr.vld { a := 1 }, .vst { a := 1 }, .vgath { a := 1, b := 2 }, .vscat { a := 1, b := 2 }],
      okB i (regs [(1, 0xFFFC0)]) = true ∧ (fieldsOf i).bound (regs []) = []) ∧
    LocalOk 0xFFFC0 64 64 ∧ localRange 0xFFFE0 64 = false ∧ localRange 0x20 64 = true ∧ 0x20 % 64 ≠ 0 ∧ 2 % 4 ≠ 0 ∧
    maskOf (.vld { a := 1 }) (regs []) = BitVec.allOnes 64 ∧ (regs []).localBad 0 0xFFFC0 64 = false := by
  unfold LocalOk
  decide +kernel

theorem witness_VectorQuantizeResults :
    LocalOk 0xFFFFF 1 1 ∧ (qntBlock 6 0 [(true, .nan false, 0)]).2.2 ≠ 0 ∧ (qntBlock 6 0 [(true, .fin false 0 0, 0)]).2.2 = 0 ∧
    (FV.fin false 0 0).rat = 0 ∧ (2 : Rat) ^ (9 : Int) ≤ |(FV.fin false 600 0).rat| ∧ |(FV.fin false 600 0).rat| < (2 : Rat) ^ (9 + 1 : Int) := by
  refine ⟨⟨by decide, by decide⟩, by decide, by decide, ?_, ?_, ?_⟩ <;> norm_num [FV.rat]

/-- The core with f1 bound as a source and f2 as a destination, each of four elements. -/
def streaming : State := (regs []).modMe fun c =>
  let words (dst : Nat) : List Nat := [dst * 2 ^ 52, 4, 4, 0, 0, 0, 0, 0]
  (c.setStream 1 (some { words := words 0 })).setStream 2 (some { words := words 1 })

theorem witness_StreamModeIssues :
    Well (.vabsExt { w := { a := 1, d := 2 } }) streaming ∧ (fieldsOf (.vabsExt { w := { a := 1, d := 2 } })).bound streaming ≠ [] ∧
    majorOf (.vabsExt { w := { a := 1, d := 2 } }) = some 0xA6 ∧ Ok (.vabs { a := 1, d := 2 }) streaming ∧
    streaming.me.stream 2 ≠ none ∧ streaming.me.stream 3 = none ∧ streaming.me.streamBusy 1 = false ∧
    ((fieldsOf (.vabsExt { w := { a := 1, d := 2 } })).bound streaming).find? (fun e => vecUnbound 0xA6 || streaming.me.streamBusy e.2.1 || (e.2.2.dst != (e.1 == 0))) = none ∧
    (streamLength 0xA6 0 0 ((fieldsOf (.vabsExt { w := { a := 1, d := 2 } })).bound streaming)).isSome = true := by
  refine ⟨wellOf (by decide) (by decide), by decide, by decide, okOf (by decide), ?_⟩
  decide

/-- A core whose td0 and td1 name full tiles of 16 × 16 elements of FP16 and FP32, and td2 one of FP16 beside the first. -/
def tiled : State := (regs []).modMe fun c =>
  ((c.setTd 0 0x12FF00000).setTd 1 0x11FF01000).setTd 2 0x12FF02000

theorem witness_TensorInstructionsEnterTheQueue :
    (∀ i ∈ [Instr.tacld {}, .tacst {}, .tmma { w := { a := 0, b := 2 } }, .tmmas { w := { a := 0, b := 2 } }, .tmmsp {},
        .tcvt {}, .tcvt { w := { m := 1, d := 2, a := 0 } }, .tred { w := { d := 1 } }, .tnorm { w := { a := 1 } }, .tsmax {}, .ttrn { w := { d := 2 } },
        .tmask {}, .tadd {}],
      okB i tiled = true ∧ (fieldsOf i).refOk tiled = true) ∧
    tdFail 0x12FF00000 true = none ∧ tdFail 0x11FF01000 true = none ∧ tdCols 0x12FF00000 = 16 ∧ tdK 0x12FF00000 = 16 ∧ pairOk 2 2 = true ∧
    tilesMeet 0x12FF02000 0x12FF00000 = false ∧ tdRows 0x12FF00000 = tdK 0x12FF02000 ∧ tcvtPairs false 2 2 = true ∧
    LocalOk 0 1024 64 ∧ LocalOk 0 16 16 ∧ LocalOk 0 (8 * 16) 8 ∧ GlobalOk 0 64 ∧ tiled.me.kindKnown 0 = true ∧ ((tiled.me.ops .tensor).length < 16) := by
  unfold LocalOk GlobalOk
  decide +kernel

/-- A core whose shape-cache entry 0 is valid with two boundary entries. -/
def shaped : State := tiled.modMe (·.modEng fun e => { e with shapes := [(0, { valid := true, words := 0x80 :: List.replicate 10 0 ++ [2 * 2 ^ 48] })] })

theorem witness_TileAndShapeInstructionsAct :
    (∀ i ∈ [Instr.tacz {}, .texlog {}, .texlog { m := 1, a := 7 }, .spcomp {}, .spinv {}, .shld {}, .shinv {}, .shinv { m := 1 }, .shbnd {}, .tld {},
        .tld { w := { m := 1 } }, .rgld {}],
      okB i shaped = true) ∧
    Ok (.spinv { m := 1 }) (superRegs []) ∧ GlobalOk 0 64 ∧ (fieldsOf (.spcomp {})).refOk shaped = true ∧
    ((shaped.me.ops .copy).length + shaped.me.eng.remote.length < 32) ∧ LocalOk 0 96 32 ∧ (shaped.me.shape 0).valid = true ∧
    (shaped.me.shape 1).valid = false ∧ (shaped.me.shape 0).entries = 2 ∧ shaped.me.ops .shape = [] ∧ tdFail 0 true = some (0x02, 0) ∧ tdFail 0 false = some (0x07, 0) ∧
    Sparse.wf {} (shaped.cluster 0).dir = true := by
  refine ⟨by decide, okOf (by decide), ⟨by decide, by decide⟩, by decide, by decide, ⟨by decide, by decide⟩, ?_⟩
  decide

/-- The same core under a leader on die 0, with queue 5 enabled and holding packets given by their words. -/
def led (ps : List (List Nat)) : State :=
  let s := regs []
  let s := { s with fw := { s.fw with ready := true, trained := 12, powered := 96 } }.setDie 0 { boot := 1 }
  s.setQueue 5 { en := true, accepted := ps.map fun ws => { words := ws } }

/-- The page of ASID 0 at VA 4096, every access permitted, whose lines slice 1 holds, with the words given at their offsets. -/
def paged (s : State) (ws : List (Nat × Nat)) : State :=
  s.setSlice 1 {
    tlb := [{ va := 4096, leaf := 0x400F, ent := 0xD0000001000 }]
    lines := (List.range 64).map fun l => (l, some {
      data := BitVec.ofNat 512 ((ws.filter fun w => w.1 / 64 == l).foldl (fun v w => v + w.2 * 2 ^ (8 * (w.1 % 64))) 0) }) }

/-- A packet of words 0 to 7 begins at queue 5, and nothing stands in its way. -/
def begunB (s : State) (ws : List Nat) : Bool :=
  let p : Packet := { words := ws }
  s.beginning 5 == some p && (s.queue 5).exec == none && decide (p.cmd ≤ 9) && !p.reserved && !s.behindArrive p

theorem begunOf {s : State} {ws : List Nat} (h : begunB s ws = true) : Begun s 5 { words := ws } := by
  simp only [begunB, Bool.and_eq_true, beq_iff_eq, decide_eq_true_eq, Bool.not_eq_true'] at h
  exact ⟨⟨h.1.1.1.2, h.1.1.1.1⟩, h.1.1.2, h.1.2, h.2⟩

/-- NOPC, WAITQ reached and blocked, SIGNAL, STAMP, FENCEC, GATES, ARRIVE; packets that are rejected. -/
theorem witness_QueueCommandsTakeEffect :
    (∀ ws ∈ [[0, 0], [0x40000, 7, 0], [0x40000, 7, 1], [0x50000, 8, 9], [0x90000, 8], [0x80000, 5], [0x80000, 6], [0x20000, 0x100], [0x20000, 0]],
      begunB (led [ws]) ws = true) ∧
    ((led []).queue 7).cmpl = 0 ∧ (led []).loaded 0 = true ∧ (led []).loaded 1 = false ∧ 4152 % 64 ≤ 56 ∧
    (∀ ws ∈ [[0xA0000], [0x1000000, 0], [0, 1], [0x80000, 4], [0x90000, 4], [0x20000, 0x101], [0x20000, 1]],
      (led [ws]).beginning 5 = some { words := ws } ∧ ((led [ws]).queue 5).exec = none) ∧
    (∀ ws ∈ [[0x20000, 0x300], [0x20000, 0x200], [0x30000, 2 ^ 22], [0x90000, 2 ^ 48], [0x40000, 5, 1], [0x30000, 5 * 2 ^ 16],
        [0x30000, 1], [0x30000, 0, 9]],
      (led [ws]).beginning 5 = some { words := ws } ∧ ((led [ws]).queue 5).exec = none) ∧
    (∀ ws ∈ [[0x20000, 0x300], [0x20000, 0x200], [0x30000, 2 ^ 22], [0x90000, 2 ^ 48]], Packet.reserved { words := ws } = true) ∧
    (∀ ws ∈ [[0x40000, 5, 1], [0x30000, 5 * 2 ^ 16], [0x30000, 1], [0x30000, 0, 9]], Packet.reserved { words := ws } = false) ∧
    ((led []).queue 5).cmpl = 0 ∧ ((led []).region 1).state = 0 ∧ (((paged (led []) []).queue 5).exec.map (·.got)).bind (·.lookup 4104) = none ∧
    ((paged (led []) []).gWritePiece 0 4104 (natLE 8 9) { turn := true }).2.isOk = true := by
  decide +kernel

/-- A region with a root, its gates open: ARRIVE with four values. -/
def rooted (ws : List Nat) : State :=
  (led [ws]).setRegion 0 { (led [ws]).region 0 with roots := [1], gates := true, cjobs := [7] }

theorem witness_ArriveTakesEffect :
    begunB (rooted [7 * 2 ^ 48 + 0x30000, 4 * 2 ^ 16, 1, 2, 3, 4]) [7 * 2 ^ 48 + 0x30000, 4 * 2 ^ 16, 1, 2, 3, 4] = true ∧
    7 ∈ ((rooted []).region 0).cjobs ∧ 8 ∉ ((rooted []).region 0).cjobs ∧ ((rooted []).region 0).state ≠ 0 ∧
    0 < ((rooted []).region 0).roots.length := by decide +kernel

/-- The least image for one cluster: a threadlet, no template, twenty-four records with a pool of one block. -/
def image : List (Nat × Nat) :=
  [(0, 2 ^ 32 + 0x56414557), (8, 4 * 2 ^ 32 + 64), (16, 2 ^ 32 + 128), (24, 192), (32, 192), (40, 1552 * 2 ^ 32 + 192), (48, 1744), (192, 1)] ++
    (List.range 24).flatMap fun n => [(208 + 64 * n, n), (224 + 64 * n, 256)]

/-- LOADW of what stands at VA 4096, as region 1 on cluster 1, begins; the region is free, and so is the cluster. -/
def loadwWords : List Nat := [0x10000, 4096, 2, 0, 1, 0]
def loadw (ws : List (Nat × Nat)) : State := paged (led [loadwWords]) ws
def loadwRead (ws : List (Nat × Nat)) : Bool :=
  ((((loadw ws).start 5 { words := loadwWords }).modExec 5 fun e => { e with phase := 1 }).readImage 5 0 4096 (setBits 96 2)).2.toOption.isSome

theorem witness_LoadwTakesEffect :
    begunB (loadw image) loadwWords = true ∧ (loadw image).taken 2 = false ∧ (loadw image).fw.fenced &&& 2 = 0 ∧
    ((loadw image).region 1).state = 0 ∧ loadwRead [] = false := by decide +kernel
theorem witness_LoadwReads : loadwRead image = true := by decide +kernel

/-- Regions for the other commands: 0 is loaded, 1 is swapped out to VA 4096 with its record committed there. -/
def swapped (ws : List Nat) (cl : Nat) : State :=
  (paged (led [ws]) [(0, 2 ^ 32 + 0x52455653), (8, 1), (120, 1)]).setRegion 1 {
    state := 2, clusters := cl, save := some { va := 4096, committed := true } }

/-- UNLOAD of either region; a SWAP that restores region 1, onto region 0's cluster and onto a free one; CANCEL of job 65,535 in either,
with and without CLR. -/
theorem witness_RegionCommandsTakeEffect :
    (∀ ws ∈ [[0x10000, 0, 0, 0, 0], [0x10000, 0, 0, 0, 1], [0x60000, 0, 0x100, 0, 0, 2 ^ 40 - 4096, 4096], [0x60000, 0, 0x1FF, 0, 0, 0, 4096],
        [0x70000, 65535 * 2 ^ 16], [0x70000, 65535 * 2 ^ 16 + 1], [0x70000, 2 ^ 32 + 65535 * 2 ^ 16]],
      begunB (swapped ws 1) ws = true) ∧
    ((swapped [] 1).region 0).state = 1 ∧ ((swapped [] 1).region 0).gates = false ∧ ((swapped [] 1).region 1).state = 2 ∧
    ((swapped [] 1).region 1).clusters = ((swapped [] 1).region 0).clusters ∧ (swapped [] 2).taken 2 = false ∧
    ((swapped [] 1).gWrite 0 (4096 + 120) (natLE 8 0) { turn := true }).2.isOk = true ∧ ((swapped [] 1).region 0).cjobs = [] ∧
    (match ((swapped [] 1).packetRead 5 0 4096 128).2 with | .ok bs => headerMatches 1 bs | .error _ => false) = true := by
  refine ⟨by decide +kernel, ?_⟩
  decide +kernel

/-- A fresh SWAP of region 0 by the image at VA 4096 as region 1, with room for the save. -/
def swapWords : List Nat := [0x60000, 4096, 0x100, 0, 2 ^ 47, 2 ^ 40 - 4096, 0]
theorem witness_SwapTakesEffect :
    let s := paged (led [swapWords]) image
    begunB s swapWords = true ∧ s.loaded 0 = true ∧ (s.region 1).state = 0 ∧ (s.start 5 { words := swapWords }).saveShort { words := swapWords } = false := by
  decide +kernel
theorem witness_SwapReads :
    ((((paged (led [swapWords]) image).start 5 { words := swapWords }).modExec 5 fun e => { e with phase := 1 }).readImage 5 0 4096 [0]).2.toOption.isSome
      = true := by decide +kernel

/-- The ring stands at VA 4096: slot 3 holds the header that is awaited, slot 0 another, and slot 64 lies beyond the page. -/
def ringed (seq : Nat) : State :=
  let s := paged (led []) [(192, 3)]
  s.setQueue 5 { ring := 4096, size := 16, en := true, seq := BitVec.ofNat 16 seq }

/-- A packet that has taken its effect at the head of two, and one that waits at 800,000 cycles. -/
def finishing : State :=
  { (led []).setQueue 5 { en := true, exec := some { pkt := { words := [0] }, done := true }, accepted := [{ words := [1] }, { words := [2] }] } with
    cycles := 800000 }

theorem witness_PacketsAndLeaseAdvance :
    (ringed 3).leads = true ∧ ((ringed 3).queue 5).en = true ∧ ((ringed 3).queue 5).unread = false ∧ ((ringed 3).queue 5).outstanding < 16 ∧
    (match ((ringed 3).gRead 0 (((ringed 3).queue 5).slotVa 3) 64).2 with | .ok bs => (Packet.mk (wordsOf bs) 0 false).seq == 3 | .error _ => false) = true ∧
    (match ((ringed 4).gRead 0 (((ringed 4).queue 5).slotVa 4) 64).2 with | .ok bs => (Packet.mk (wordsOf bs) 0 false).seq != 4 | .error _ => false) = true ∧
    (((led []).gRead 0 0 64).2.isOk = false) ∧ finishing.leads = true ∧ finishing.finished 5 { pkt := { words := [0] }, done := true } = true ∧
    ((led [[0]]).queue 5).exec = none ∧ 0 + 800000 ≤ finishing.cycles ∧
    (led []).startedUp = false ∧ ({ finishing with dies := [(0, { boot := 1 }), (1, { boot := 1 }), (2, { boot := 2 }), (3, { boot := 1 })] } : State).startedUp = true ∧
    (findWindow [(0, { w0 := 1 + 2 * 12 })] (fun w => bits w.w0.toNat 63 12 * 4096) 4095).isSome = true ∧
    (findWindow [(0, { w0 := 1 + 2 * 12 })] (fun w => bits w.w0.toNat 63 12 * 4096) 4096) = none := by decide +kernel

/-- The lease has lapsed, whatever the die's skew, and is due. -/
theorem witness_LeaseLapses (die : Nat) : (({ led [] with cycles := 2 ^ 40 } : State).reached die 0) = true := by
  have h := (Config.feSkew die).isLt
  exact decide_eq_true (show (2 ^ 40 / 2 - (Config.feSkew die).val + 2 ^ 48 - 0 % 2 ^ 48) % 2 ^ 48 < 2 ^ 47 by omega)

theorem witness_DebugServiceAnswers :
    (led []).leads = true ∧ (led []).port.pending = [] ∧ State.reset.leads = false ∧ (led []).readAddr (7 * 2 ^ 44 + 2 ^ 15) = .word 0 ∧
    (led []).readAddr (9 * 2 ^ 44) = .absent ∧ (led []).readAddr (4 * 2 ^ 44 + 2 ^ 28) = .open_ ∧
    Window.ok { w0 := 1 + 2 * 12 } false = true ∧ Window.ok { w0 := 1 + 2 * 41 } false = false ∧
    (BitVec.extractLsb' 2 2 (5#64 <<< 16 ||| 9)) = 2#2 ∧ ((led []).queue 5).halt = false ∧ ((finishing.failPacket 5 6 0 0 0).queue 5).halt = true ∧
    (255#64).extractLsb' 8 56 = 0 ∧ (256#64).extractLsb' 8 56 ≠ 0 := by decide +kernel

/-- Stack 11, cluster 95, the last slice with no region loaded, a core of a region, a word and a line struck; a flash that holds nothing
fails, whatever key is fused. -/
theorem witness_StartUpAndBoardActs :
    (State.reset.die 3).boot = 0 ∧ ({ trained := 11, powered := 95 } : Firmware).trained = 11 ∧ Sparse.wf false State.reset.mem.empty = true ∧
    (∀ r ∈ State.reset.regions, r.2.state ≠ 1) ∧ (led []).fwRuns 0 = true ∧ (BitVec.extractLsb' 48 16 (2#64 ^ 47)) = 0 ∧
    ((regs []).regionOf 0).isSome = true ∧ ((paged (led []) []).cline 1 1).isSome = true ∧
    Sparse.get false (regs []).me.scr.bad 5 = false ∧ strikeWord 1 0 1 = none ∧ (strikeWord 0 0 1).isSome = true := by decide +kernel
theorem witness_SoftErrorPlaces :
    softLoc (2 ^ 29 - 1) = .scratch 4095 131071 ∧ softLoc (2 ^ 40 + 64) = .memory 1 0 ∧ softLoc (2 ^ 45 + 2 ^ 41 + 8) = .cached 1 1 0 :=
  ⟨rfl, rfl, rfl⟩
theorem witness_BootFails (die : Nat) : Flash.verified {} die = false := by
  simp [Flash.verified, beNat]
/-- One message on its way to core 0 of region 0. -/
def sent (b : Body) : State :=
  { regs [] with msgs := [{ src := .core 1, dst := .core 0, chan := .signal, body := b, region := some 0 }] }

/-- It is the next of its channel and finds the weave that it is for. -/
def meetsB (s : State) (m : Msg) : Bool := decide (s.deliverable 0 = some m) && s.meet 0 m == .here
theorem meetsOf {s : State} {m : Msg} (h : meetsB s m = true) (d : m.dst = .core 0) : Meets s 0 0 m (s.dropMsg 0) := by
  simp only [meetsB, Bool.and_eq_true, decide_eq_true_eq, beq_iff_eq] at h
  exact ⟨⟨h.1, rfl⟩, d, h.2⟩

/-- Every message that acts on a core; nothing stands in the core's way; frame 0 is live, frame 1 is not; a block is free. -/
theorem witness_MessagesActAtTheirCore :
    (∀ b ∈ [Body.arrival { handle := 1, slot := 7, n := 65535 }, .arm 1 7 0x7FFFFFFF, .free 1, .fork {} 27 0 0, .roam [(1, 5)] 0 0,
        .enq 7 5 false false {} 0, .steal 26 {}, .cancel 0 65535, .watermark true],
      meetsB (sent b) { src := .core 1, dst := .core 0, chan := .signal, body := b, region := some 0 } = true) ∧
    (let x := ((sent (.free 1)).dropMsg 0).core 0
     x.net.region ≠ none ∧ x.fe.held = [] ∧ x.pl.halted = false ∧ x.sup.shtcmp = [] ∧ x.fe.pending = [] ∧ x.fe.backlog = [] ∧
     x.wantFill = none ∧ x.fe.exhausted = false ∧ x.fe.closing = false ∧ x.live 1 = true ∧ x.live 0x101 = false ∧ (x.frame 0).st = 3 ∧
     x.freeIndex.isSome = true ∧ x.freeBlock = none ∧ (x.lq 7).entries.length < 16 ∧ x.dqCap = 0) ∧
    (((woven []).modMe fun c => { c with spr := { c.spr with flim := 512 } }).allocFrame 0 [] 0 0).isSome = true ∧
    ((woven []).modMe fun c => { c with spr := { c.spr with flim := 512 } }).me.freeBlock.isSome = true ∧
    (woven []).jobCancelled 0 0 = false ∧ 0 ∈ ((regs []).region 0).cores := by decide +kernel

/-- FORKs of a cancelled job: with an index and a block to be had, and with no block. -/
theorem witness_ForksOfCancelledJobs :
    let s (b : Bool) : State := ((regs []).modMe fun c => { c with spr := { c.spr with flim := if b then 512 else 0 }, fe := { c.fe with
      cancelled := [3] } }).setRegion 0 { (regs []).region 0 with cjobs := [3] }
    (s true).jobCancelled 0 3 = true ∧ (s true).me.freeIndex.isSome = true ∧ (s true).me.freeBlock.isSome = true ∧
    (s false).jobCancelled 0 3 = true ∧ (s false).me.freeBlock = none := by decide +kernel
theorem witness_CancelMeetsASwap : (swapped [] 1).regionOf 0 ≠ some 1 := by decide +kernel

/-- A core at a boundary with an entry in each ready queue, a dormant frame away and one in transfer, and a recorded trap. -/
def resting : State := (regs []).modMe fun k => (k.modPl fun p => { p with pipe := .idle, live := false }).modFe fun f =>
  { f with l2 := { reg := [{ fix := 0, slot := 7, seq := 4, since := 0 }] }, frames := [(0, { st := 2, gen := 1 })] }

theorem witness_CoresActBetweenInstructions :
    resting.me.fe.exhausted = false ∧ resting.me.wantFill = none ∧ resting.me.pl.pipe = .idle ∧ resting.me.pl.sup = false ∧
    resting.me.pl.halted = false ∧ resting.me.pl.preempt = false ∧ resting.me.net.traps = [] ∧
    ((resting.setCore 0 (resting.me.modFe fun f => f.promoteDue resting.cycles)).chooseFiring 0 [3, 2, 1, 0]).isSome = true ∧
    (firstEligible (2 ^ 40) ((resting.me.fe.level 2).reg ++ (resting.me.fe.level 2).prom)).isSome = true ∧
    ((resting.me.fe.level 3).prom).length < 64 ∧ resting.me.scr.isBad 0 256 = false ∧
    (resting.modMe (·.modNet fun n => { n with traps := [{ cause := 0x0B }] })).me.net.traps ≠ [] ∧
    (resting.modMe (·.modPl fun p => { p with preempt := true })).me.pl.pipe ≠ .parked ∧
    ((resting.modMe (·.modFrame 1 fun e => { e with st := 4 })).me.frame 1).st = 4 ∧
    ((resting.modMe (·.modFrame 1 fun e => { e with st := 6 })).me.frame 1).st = 6 ∧
    (resting.modMe (·.modPl fun p => { p with halted := true })).me.pl.stepping = false ∧
    ((resting.modMe (·.modFe fun f => { f with backlog := [{}] })).me.fe.backlog ≠ []) ∧
    (resting.me.fe.nextPromotion 4096 = none) ∧ (resting.me.fe.nextPromotion 8192 = some (4097, 2)) ∧
    (({ resting.me.fe.promote 4097 2 with clock := 4097 } : FrameEng).nextPromotion 8192 = none) ∧
    (resting.me.modPl fun p => { p with halted := true, stepping := true }).pl.stepping = true ∧
    resting.me.fe.released ++ resting.me.fe.held = [] ∧ (resting.enterNow 0 { body := .free 1 }).isSome = true := by decide +kernel

/-- Packets that await core 0's acknowledgement. -/
theorem witness_Acknowledgements :
    (∀ ws ∈ [[0x10000, 0], [0x10000, 4096], [0x60000, 4096]],
      (((led []).setQueue 5 { exec := some { pkt := { words := ws }, await := [0] } }).awaiting 0 fun p => p.cmd == bits (ws.getD 0 0) 23 16).isSome
        = true) := by decide +kernel

/-- A router entry with inputs 0 and 1 bound, and what comes to it. -/
def routed (b : Body) : State :=
  { (regs []).setCluster 0 { trees := [(63, { words := [3 + 2 ^ 28, 0, 0, 0, 0, 0, 0, 0] })] } with
    msgs := [{ src := .core 1, dst := .router 0, chan := .reduce, body := b, region := some 0 }] }

theorem witness_RoutersRunTheirTrees :
    ((routed (.treeEntry 63 [])).atRouter 0).isSome = true ∧ (routed (.treeEntry 63 [])).clusterRegion 0 = some 0 ∧
    ((routed (.contribution 63 { input := 1 } none)).atRouter 0).isSome = true ∧
    (match (routed (.free 1)).tree (some 0) 0 63 with
      | some t => t.inputs.testBit 1 && !t.inputs.testBit 2 && !(routed (.free 1)).roundLate (some 0) 0 t && t.got == []
      | none => false) = true ∧
    (match (routed (.free 1)).tree (some 0) 0 62 with | some t => !t.inputs.testBit 1 | none => false) = true ∧
    ((routed (.contribution 62 { input := 1 } (some { handle := 1, region := some 0 }))).atRouter 0).isSome = true ∧
    ({ words := [3], got := [{}] } : Tree).got ≠ [] ∧ ({ words := [3], got := [{}] } : Tree).start + 2 * ({ words := [3], got := [{}] } : Tree).tmo ≤ 131072 := by
  decide +kernel

/-- Operations at the heads of the engines, and a transfer to another part. -/
def running (o : EngOp) : State := (tiled.modMe (·.modEng fun e => { e with
  tensor := [o], copy := [o], vector := [{ o with streams := [(0, 2, { words := [2 ^ 52] })] }], remote := [{ get := true, pieces := [(0, 0, 2)] }] }))

theorem witness_EnginesGoOnWithTheirOperations :
    (running { opc := 0xD6 }).me.eng.stopped = false ∧ (running { opc := 0xD3 }).me.ops .tensor = [{ opc := 0xD3 }] ∧
    ({ opc := 0xD4, td1 := 0x1012FF00000 } : EngOp).reads = false ∧ (running {}).me.tensorReady { opc := 0xD4, td1 := 0x12FF00000 } = true ∧
    ((running {}).emptyRows 0x1012FF00000).me.tensorReady { opc := 0xD4, td1 := 0x1012FF00000 } = false ∧
    (chooseOp 0 [{ prio := 1 }, { prio := 3, parked := true }, { prio := 2, id := 7 }]) = some { prio := 2, id := 7 } ∧
    ((running {}).me.ops .copy)[0]? = some ({} : EngOp) ∧ 0 + 4096 ≤ 4096 ∧ ([(0, 2, { words := [2 ^ 52] })] : List (Nat × Nat × Stream)).all (fun e => e.2.2.kind != 1) = true ∧
    (running {}).me.eng.remote.length = 1 ∧ [1, (2 : Byte)].length = ({ get := true, pieces := [(0, 0, 2)] } : Remote).bytes ∧
    ({ acked := true, todo := [(0, 0, 2)] } : Remote).todo[0]? = some (0, 0, 2) ∧ ({} : EngOp).waits = false ∧
    (match ((running {}).engLocal 0 0 2).2 with | .ok bs => bs == [0, 0] | .error _ => false) = true ∧
    (match ((running {}).engPut 0 0 [1, 2]).2 with | .ok _ => true | .error _ => false) = true := by
  decide +kernel

/-- A GET and a PUT of one piece whose line slice 1 holds and whose page it has cached. -/
theorem witness_PiecesMove : ∀ need ∈ [Need.read, .write],
    PieceGoes (paged (led []) []) 0 4096 need { va := 4096, leaf := 0x400F, ent := 0xD0000001000 } 0 0 true ∧
    ([(0, 8)] : List (Nat × Nat))[0]? = some (0, 8) ∧ localRange 0x40 8 = true ∧ (paged (led []) []).isConst 0 4096 8 = false := by
  intro need hn
  refine ⟨⟨by decide +kernel, by decide +kernel, by decide +kernel, by decide +kernel, ?_, by decide +kernel, ?_, by decide +kernel,
    by unfold NoSave; decide +kernel, fun q => ?_⟩, by decide +kernel, by decide +kernel, by decide +kernel⟩
  · fin_cases hn <;> exact ⟨by unfold Allows; decide, by decide⟩
  · exact ⟨by decide +kernel, by decide +kernel, {}, by decide +kernel⟩
  · exact Sparse.get_all (d := ({} : Core)) (p := fun k => decide (k.scr.bad = [])) (by decide) (by decide +kernel) q |> of_decide_eq_true

/-- Rows of TMMA, TACST and TCVT with finite elements: BF16 ones, and words that are zero. -/
theorem witness_RowsAreComputed :
    let v := 0x137001000
    tdFmt v = 3 ∧ tdK v = 8 ∧ tdRows v = 1 ∧ localRange (tdRow v 0) (tdData v) = true ∧ pairOk 3 3 = true ∧ pairOk 7 8 = true ∧
    (∀ p, p < 8 → (unpack (fmtOf 3) (tileCode (led []) 0 v 0 p)).finite = true) ∧ ((led []).me.acc 0).kind.isTri = false ∧
    (unpack (fmtOf 1) 0x3F800000).finite = true ∧ triOk 0 = true ∧ NoSave (led []) := by
  unfold NoSave
  decide +kernel

/-- Accesses at slice 1: to a line it holds, to one it does not, and to a page that no leaf maps. -/
def accessing (a : Access) : State :=
  { paged (led []) [] with msgs := [{ src := .core 0, dst := .slice 1, body := .access a }] }

theorem witness_SlicesPerformAccesses :
    (∀ a ∈ [({ va := 4096, size := 8 } : Access), { kind := .post, va := 8184, size := 8, data := natLE 8 1 }, { kind := .hostWrite, va := 4096, core := 0xFFF }],
      ((accessing a).deliverable 0).isSome = true ∧ (accessing a).hostWaits a = false ∧ ((accessing a).slice 1).faultAt 0 a.va = none ∧
      ((accessing a).dropMsg 0 |>.access 1 a).isSome = true ∧
      (match ((accessing a).gTrans 0 a.va a.kind.need).2 with
        | .ok (pa, leaf) => pa == a.va - 4096 && (accessing a).paKind pa == .hbm && !(accessing a).mustHold 1 [] a leaf pa false &&
            ((accessing a).cline 1 (pa / 64)).isSome && !(accessing a).ldfWaits 1 a pa leaf
        | .error _ => false) = true) ∧
    ((accessing {}).cline 1 64) = none ∧ ((accessing {}).slice 1).regsUsed < 64 ∧ ((accessing {}).slice 1).misses = [] ∧
    ((accessing {}).gTrans 0 0 .read).2.isOk = false ∧
    (((accessing {}).setSlice 1 { misses := [(64, [({}, 0x400F, 4096)])] }).slice 1).misses[0]? = some (64, [(({} : Access), 0x400F, 4096)]) ∧
    (((accessing {}).setSlice 1 { faults := [{ base := 4096 }] }).slice 1).faultAt 0 8191 = some 0 ∧
    (((accessing {}).setSlice 1 { faults := [{ base := 4096 }] }).slice 1).faultAt 0 8192 = none := by decide +kernel

/-- A walk that would read direct memory without a write of core 0's that a release has overtaken. -/
theorem witness_WalksWait :
    (((led []).setSlice 3 { early := [{ walked := true, writes := true, ord := 3, region := some 0, scope := 4 }] }).modMe
      (·.modNet fun n => { n with orders := [{ tag := 3 }] })).walkWaits 1 0 4096 .read ({ core := 1 } : Access).viewer = true := by
  decide +kernel

/-- Slice 1 holds line 0 of `paged`, and what an access finds there is a line that R194 to R211 act on: with a bank operand, full or empty,
with an LDF parked on it, or in direct memory. -/
theorem witness_LinesAreActedOn :
    (∀ f ∈ [true, false], let s : State := (paged (led []) []).setCline 1 0 (some { data := 5, full := f })
      HoldsLine s 1 0 (leafKey 0x400F) 5 f ∧ s.isConst 0 4096 8 = false ∧ (s.slice 1).ldf.length < 256 ∧ s.paKind 63 = .hbm) ∧
    (let s : State := (paged (led []) []).setSlice 1 { (paged (led []) []).slice 1 with ldf := [({ kind := .ldf, size := 8 }, 0)] }
     HoldsLine s 1 0 (leafKey 0x400F) 0 true ∧ (s.slice 1).ldf = [({ kind := .ldf, size := 8 }, 0)] ∧ leafKey 0 = leafKey 0x400F) ∧
    (let s : State := (led []).setSlice 3 { config := BitVec.ofNat 64 (2 ^ 44) }
     s.paKind (0xD0000000000 + 3 * 0x400000) = .direct 3 ∧ s.unreadable ((0xD0000000000 + 3 * 0x400000) / 64) = false ∧ s.mem.soft = [] ∧
       s.cline 1 ((0xD0000000000 + 3 * 0x400000) / 64) = none) := by
  refine ⟨?_, ?_, by decide +kernel⟩
  · intro f hf
    fin_cases hf
    · exact ⟨⟨by decide +kernel, by decide +kernel, { data := 5, full := true }, by decide +kernel⟩, by decide +kernel⟩
    · exact ⟨⟨by decide +kernel, by decide +kernel, { data := 5, full := false }, by decide +kernel⟩, by decide +kernel⟩
  · refine ⟨⟨by decide +kernel, by decide +kernel, {}, ?_⟩, ?_⟩ <;> decide +kernel

/-- The walk of R344 for the POST of ASID 0x21 to VA 0x0010_0045_6780, at slice 0x53, with the addresses and values of its table. -/
def walked : State :=
  { (led []).setSlice 0x53 { config := BitVec.ofNat 64 (0x1000 * 2 ^ 12) } with mem := { (led []).mem with
      cells := writeCells (writeCells (writeCells (writeCells [] 0x1000210 (natLE 8 0x100001)) 0x100000 (natLE 8 0x0000010200000001))
        0x102200 (natLE 8 0x0000010300000001)) 0x103020 (natLE 8 0x0123400003000057) } }

/-- What R344 says of it: the PA, and ACC and DIRTY set in the entry; the next access finds the leaf. -/
theorem test_walk_of_the_worked_example :
    homeSlice 0x1000456780 = 0x53 ∧ (walked.gTrans 0x21 0x1000456780 .write).2 = .ok (0x1234056780, 0x0123400003006057) ∧
    (walked.gTrans 0x21 0x1000456780 .write).1.physRead 0x103020 8 = some 0x0123400003006057 := by
  unfold walked
  decide +kernel

/-- The tables that this walk comes to, level by level, and the leaf at which it ends, which permits a write and no fetch of instructions; an
ASID that is not in use; a leaf that slice 1 holds, for a read and for a write. -/
theorem witness_TranslationsAreTheTables :
    walked.tableOf 0x53 0x21 0x1000456780 0 = some 0x100000 ∧ walked.tableOf 0x53 0x21 0x1000456780 1 = some 0x102000 ∧
    walked.tableOf 0x53 0x21 0x1000456780 2 = some 0x103000 ∧ vaIndex 0x1000456780 2 = 4 ∧
    walked.physRead (walked.asidEntry 0x53 0x22) 8 = some 0 ∧ (walked.slice 0x53).tlb = [] ∧ walked.mem.soft = [] ∧ walked.mem.bad = [] ∧
    walked.mem.poison = [] ∧ (0x0123400003000057 : Nat).testBit 2 = true ∧ (0x0123400003000057 : Nat).testBit 3 = false ∧
    (0x0123400003000057 : Nat) / 2 ^ 32 * 2 ^ 12 % 2 ^ (12 + 2 * 5) = 0 ∧ walked.walkWaits 0x53 0x21 0x1000456780 .write {} = false ∧
    (((paged (led []) []).slice 1).tlb.filter (·.covers 0 4100)).length = 1 ∧ (0x400F : Nat).testBit 1 = true ∧
    (0x400F : Nat).testBit 14 = true := by
  unfold walked
  decide +kernel

/-- A store's entry that its acknowledgement and its refusal name; the other messages of slices. -/
def storing (b : Body) : State :=
  { (regs []).modMe (·.setJournal 63 { state := 1, ord := 9 }) with
    msgs := [{ src := .slice 1, dst := .core 0, chan := .reply, body := b, region := some 0 }] }

theorem witness_StoresAreAnswered :
    (∀ b ∈ [Body.storeAck 63 9 0, .storeRefusal 63 1 9 0, .watchAdvance 0 4096 4096 {} [], .hostMem true 0 [1] (some {}), .hostMem false 0 [] (some {})],
      ((storing b).deliverable 0).isSome = true) ∧
    (storing (.free 0)).regionOf 0 = some 0 ∧ ((storing (.free 0)).me.journal 63).ord = 9 ∧ ((storing (.free 0)).me.journal 63).state = 1 ∧
    ((storing (.free 0)).owner (some 0) 0).isSome = true := by decide +kernel

/-- A fault record that comes to its supervisor's core, whose ring has room. -/
theorem witness_FaultRecordArrives :
    let b := Body.faultRecord 0 4096 1 5 0 0 1 0 0
    let u := (sent b).dropMsg 0
    meetsB (sent b) { src := .core 1, dst := .core 0, chan := .signal, body := b, region := some 0 } = true ∧
    ((u.core 0).scr.readN (((u.wake 0).service 0 0).2.2.2 + 40) 1).testBit 0 = false := by decide +kernel

/-- What the shared units serve: a reply word that names a fault, a compile, queries, and samples. -/
theorem witness_SharedUnitsServe :
    (match (((paged (led []) []).setSlice 1 { faults := [{ base := 4096 }] }).gTransVia { turn := true } 0 4096 .read).2 with
      | .error (.behind va _) => va == 4096
      | _ => false) = true ∧ ({} : Compile).parked = false ∧ ({} : Compile).got = none ∧
    ({ compiles := [{ va := 4096 }] } : Cluster).compiles.find? (·.unread 0 4096) = some { va := 4096 } ∧
    (({ dir := [(2, { kind := 2, va := 4096, gen := 3 })] } : Cluster).entryOf 0 4096 3).isSome = true ∧
    (({ faults := [{ serial := 5 }] } : Slice).replyFault 3 (2 ^ 62 + 3 * 2 ^ 24 + 5)).isSome = true ∧
    (({ faults := [{ serial := 5 }] } : Slice).replyFault 3 (2 ^ 63 + 3 * 2 ^ 24 + 5)).isSome = true ∧
    bits (2 ^ 62 + 3 * 2 ^ 24 + 5) 63 62 = 1 ∧ bits (2 ^ 63 + 3 * 2 ^ 24 + 5) 63 62 = 2 ∧
    ((paged (led []) []).gTransVia { turn := true } 0 4096 .read).2.isOk = true ∧ leafWatch 0xC0F = true ∧ leafWatch 0x400F = false ∧
    (regs []).queryParked {} 0 = false ∧ gridBad (2 ^ 48 + 2 ^ 32 + 2 ^ 16 + 1) 1 0 0 = none ∧
    ((regs []).termwCores { region := 0, scope := 3, inst := 0 }) ≠ [] ∧
    resting.me.idle = false ∧ (resting.core 1).idle = true ∧ ((regs []).region 0).state = 1 ∧ ((regs []).coresOn 0 0) = [0] := by decide +kernel

theorem witness_EveryStepKeepsMemoryAndStartUpInOrder : State.reset.inOrder = true ∧ (led []).inOrder = true := by decide +kernel

/-- Operands that the checks turn away: ROAM beyond the threadlets and without templates, WDQ and REDSEND at the edge of the map and
misaligned, forbidden slots of ENQ and REDSEND, VQNT beyond the map, TLD and RGLD at misaligned places; a CFLUSH that waits. -/
theorem witness_OperandsAreTurnedAway :
    okB (.roam { w := { b := 1 }, imm := 1 }) (woven [(1, 1)]) = true ∧ (woven []).tlcnt = 1 ∧ (woven []).tplcnt ≠ 0 ∧ (regs []).tplcnt = 0 ∧
    (∀ i ∈ [Instr.wdq { w := { d := 1 } }, .vqnt { w := { b := 1 }, x := { c := 6 } }, .redsend { w := { m := 5, a := 1, b := 2 } },
        .tld { w := { a := 1, b := 2 } }, .tld { w := { m := 1, a := 1 } }, .rgld { w := { a := 1, b := 2 } }, .spcomp { w := { a := 1 } },
        .shld { w := { a := 1 } }], okB i (regs [(1, 0x100008), (2, 1)]) = true) ∧
    localRange 0x100000 1 = false ∧ localRange 0xFFFF1 16 = false ∧ localRange 0xFFFE1 16 = true ∧ 0xFFFE1 % 16 ≠ 0 ∧
    localRange 0xFFFC8 4 = true ∧ 0xFFFC8 % 64 ≠ 0 ∧ localRange 0xFFFFC 8 = false ∧ localRange 2 4 = true ∧ 2 % 4 ≠ 0 ∧
    localRange 0xFFFC0 96 = false ∧ localRange 16 96 = true ∧ 16 % 32 ≠ 0 ∧ GlobalOk (2 ^ 48 - 4) 4 ∧ 1 % 2 ≠ 0 ∧ tdFail 0x12FF00000 true = none ∧
    (∀ i ∈ [Instr.enq { x := { sr := 1 } }, .redsend { x := { sr := 1 } }], (fieldsOf i).refOk (regs []) = false) ∧
    (regs []).flushWaits = false ∧
    (((regs []).setSlice 1 { early := [{ writes := true, ord := 3, region := some 0, scope := 4 }] }).modMe
      (·.modNet fun n => { n with orders := [{ tag := 3 }] })).flushWaits = true := by
  unfold GlobalOk
  decide +kernel

/-- LOADW, SWAP and CANCEL that R72 rejects: with 0x01, 0x03, 0x04, 0x0A and 0x08. -/
theorem witness_RegionCommandsAreRejected :
    let s (ws : List Nat) : State := { swapped ws 2 with fw := { (swapped ws 2).fw with fenced := 6 } }
    let full : State := (led [[0x70000, 2 ^ 16]]).setRegion 0 { (led []).region 0 with cjobs := (List.range 16).map (· + 2) }
    let p (ws : List Nat) : Packet := { words := ws }
    let begins (s : State) (ws : List Nat) : Bool := s.beginning 5 == some (p ws) && (s.queue 5).exec == none
    (∀ ws ∈ [[0x1010000, 4096], [0x1060000, 0], [0x1070000, 0]], begins (s ws) ws = true ∧ (p ws).reserved = true) ∧
    (∀ ws ∈ [[0x10000, 4096, 0, 0, 2], [0x10000, 4096, 1, 0, 95], [0x10000, 4096, 4, 0, 95], [0x10000, 0, 0, 0, 95], [0x60000, 4096, 0x100, 0, 0, 0, 4096],
        [0x60000, 4096, 0x101], [0x60000, 4096, 0x100], [0x60000, 0, 0x1FF, 0, 0, 0, 8192], [0x60000, 0, 0x1FF, 0, 0, 0, 4096],
        [0x60000, 0, 0x100, 0, 0, 0, 4096], [0x70000, 96 + 2 ^ 16], [0x70000, 95 + 2 ^ 16], [0x70000, 2 ^ 32 + 95 + 2 ^ 16]],
      begins (s ws) ws = true ∧ (p ws).reserved = false) ∧
    ((s []).taken 1 = true ∧ (s []).taken 4 = false ∧ (s []).fw.fenced &&& 4 ≠ 0 ∧ ((s []).region 95).state = 0) ∧
    ((s []).loaded 1 = false ∧ ((s []).region 1).state = 2 ∧ (s []).taken 2 = false ∧ (s []).fw.fenced &&& 2 ≠ 0) ∧
    begins full [0x70000, 2 ^ 16] = true ∧ 1 ∉ (full.region 0).cjobs ∧ 16 ≤ (full.region 0).cjobs.length ∧ (full.region 0).state ≠ 0 := by
  decide +kernel

/-- Writes that the debug service refuses: a queue that is enabled, one that is not, a reserved bit, ACT = 11. -/
theorem witness_DebugWritesAreRefused :
    ((led []).queue 5).en = true ∧ ((led []).queue 6).en = false ∧ ((led []).queue 6).exec = none ∧ ((led []).queue 5).halt = false ∧
    (BitVec.extractLsb' 16 16 (0x10005 : BitVec 64)) ≠ ((led []).queue 5).asid ∧ (BitVec.extractLsb' 2 2 (0x10005 : BitVec 64)) = 1#2 ∧
    (BitVec.extractLsb' 2 2 (12 : BitVec 64)) = 3#2 ∧ (BitVec.extractLsb' 4 12 (16 : BitVec 64)) ≠ 0 ∧ (4096 : BitVec 64).toNat = 2 ^ 12 := by decide +kernel

/-- A transfer whose ending waits, by a piece parked and behind an earlier ending, and one whose ending goes. -/
theorem witness_EndingsWait :
    let x : Remote := { get := true, pieces := [(0, 0, 2)], id := 7 }
    let s : State := (regs []).modMe (·.modEng fun e => { e with remote := [x] })
    let a := completion {} false 0 0 2
    x.fin = none ∧ s.me.eng.remote[0]? = some x ∧ s.pieceParked (some 0) 0 .copy 7 = false ∧ s.waitsRoom 0 a none = false ∧
    (s.setSlice 1 { faults := [{ base := 0, parked := [.piece 0 .copy 7 (some 0) 0 none []] }] }).pieceParked (some 0) 0 .copy 7 = true ∧
    (s.modMe (·.modEng fun e => { e with remote := [x, { x with id := 8, fin := some { place := some 0 } }] })).waitsRoom 0 a none = true := by
  decide +kernel

end Sys2Proof.Tests
end

section
/-! SUPPORT and PROOFS. What the reset state reads as (R9, R89, R97, R99), and the two statements about it: O16 and O60. -/

namespace Sys2Proof.Machine

/-! ### The units of the reset state -/

@[simp] theorem State.reset_core (c : Nat) : State.reset.core c = {} := rfl
@[simp] theorem State.reset_queue (q : Nat) : State.reset.queue q = {} := rfl
@[simp] theorem State.reset_region (r : Nat) : State.reset.region r = {} := rfl
@[simp] theorem State.reset_cbase (c : Nat) : State.reset.cbase c = 0 := rfl

/-- A die's skew lowers no count below zero, so FETIME starts at 0 on every die (R78). -/
@[simp] theorem State.reset_fetime (die : Nat) : State.reset.fetime die = 0 := Nat.zero_sub _

/-- No frame of a core at reset is live. -/
theorem Core.default_frame_st (f : Nat) : (({} : Core).frame f).st = 0 := rfl

/-- A core at reset neither steps nor stands halted, and holds no firing, so STEPCTL reads 0 (R441). -/
theorem Core.default_stepctl : ({} : Core).stepctl = 0 := by decide

/-! ### The special registers at reset (R97, R99) -/

/-- The numbers of the special registers that reset does not leave 0, or leaves to the device or to firmware: CORE_ID, RGNID,
FWLO, FWHI and EVEC (R97, R99). -/
def sprsApartAtReset : List Nat := [0x000, 0x001, 0x016, 0x017, 0x032]

/-- RGNID of a core in no region (R97). -/
theorem State.reset_rgnid (c : Nat) : State.reset.readSpr c 0x001 = 0x7F := rfl
theorem State.reset_fwlo (c : Nat) : State.reset.readSpr c 0x016 = 8 := rfl
theorem State.reset_fwhi (c : Nat) : State.reset.readSpr c 0x017 = 16 := rfl

/-- Beside those set apart, the special registers are fields that start at 0; FETIME, which a die's skew enters; STEPCTL, which
is computed; and the banks ORPHLOG, SHTCMP and SHTVAL, where an empty table reads 0 at every index. -/
theorem State.reset_readSpr_eq_zero (c : Nat) {n : Nat} (hn : n ∉ sprsApartAtReset) : State.reset.readSpr c n = 0 := by
  unfold State.readSpr
  split
  case h_1 => exact absurd (by decide) hn -- CORE_ID
  case h_2 => exact absurd (by decide) hn -- RGNID
  case h_11 => simp -- FETIME
  case h_19 => exact absurd (by decide) hn -- FWLO
  case h_20 => exact absurd (by decide) hn -- FWHI
  case h_24 => exact absurd (by decide) hn -- EVEC
  case h_31 => exact Core.default_stepctl -- STEPCTL
  case h_32 => simp -- the banks
  all_goals rfl

/-! ### The statements -/

/-- Settles O16, unit by unit: every table of the reset state is empty, so each unit reads as its initial value. -/
theorem resetLeavesWhatTheSpecGives : Obligations.ResetLeavesWhatTheSpecGives := by
  refine ⟨rfl, rfl, rfl, State.reset_queue, State.reset_region, rfl, ?frames, ?registers, ?special⟩
  case frames => exact fun _ => Core.default_frame_st
  case registers => exact fun c => ⟨Core.readP_zero _, Core.readG_zero _⟩
  case special =>
    exact fun c => ⟨State.reset_rgnid c, State.reset_fwlo c, State.reset_fwhi c, fun _ _ _ hn =>
      State.reset_readSpr_eq_zero c hn⟩

/-- Start-up has not begun at reset: no stack trained, no cluster powered, no leader. -/
theorem Firmware.inOrder_default : ({} : Firmware).inOrder = true := by decide

/-- Settles O60: memory is canonical, start-up has not begun, and no core, region or cluster is listed. -/
theorem resetIsInOrder : Obligations.ResetIsInOrder :=
  State.inOrder_iff.2 ⟨wf_reset, Firmware.inOrder_default, rfl, rfl, rfl⟩

end Sys2Proof.Machine
end

section
/-! SUPPORT and PROOFS. No meaning faults and none is refused: first the shared shapes of the meanings, then each meaning by the
branches of its definition, and O8. -/

namespace Sys2Proof.Machine

/-- A meaning that gives a next state: it neither faults nor is refused. -/
def Continues (o : Out) : Prop := ∃ t, o = .next t

/-! ### The shared shapes -/

section Shapes

variable {k : Ctx} {s t : State} {b : Out} {q n : Nat}

theorem Continues.next : Continues (.next t) := ⟨t, rfl⟩

/-- A trap is taken within the machine: the next state is the handler's. -/
theorem Continues.trap {c v : Nat} : Continues (trapOut s c v) := .next

theorem Continues.ite {a : Out} {c : Prop} [Decidable c] (ha : Continues a) (hb : Continues b) :
    Continues (if c then a else b) := by
  split
  · exact ha
  · exact hb

/-- Privilege and guards (R104, R123): a trap, the meaning, or nothing but the pc. -/
theorem Continues.run {sv : Bool} {body : State → Out} (h : Continues (body s)) : Continues (run sv k s body) :=
  .ite .trap (.ite h .next)

theorem Continues.withRef {body : Ref → Out} (h : Continues (body (k.ref s))) : Continues (withRef k s body) := .ite h .trap

theorem Continues.checkLocal {v al : Nat} (h : Continues b) : Continues (checkLocal s v n al b) := .ite .trap (.ite .trap h)

theorem Continues.checkGlobal {ea al : Nat} (h : Continues b) : Continues (checkGlobal s ea al b) := .ite .trap (.ite .trap h)

theorem Continues.checkEcc {v : Nat} (h : Continues b) : Continues (checkEcc s v n b) := .ite .trap h

theorem Continues.checkEccAll {l : List (Nat × Nat)} (h : Continues b) : Continues (checkEccAll s l b) := by
  induction l with
  | nil => exact h
  | cons a l ih => exact .checkEcc ih

theorem Continues.checkTd {v : Nat} {ok : Bool} (h : Continues b) : Continues (checkTd s v ok b) := by
  unfold Machine.checkTd
  split
  · exact .trap
  · exact h

theorem Continues.raise {fl : Nat} {f : Core → Core} : Continues (raise k s fl f) := .ite .trap .next

theorem Continues.setLanes {w : Nat} {f : Nat → Nat × Nat} : Continues (setLanes k s w n f) := .raise

theorem Continues.branchTo {i : Int} {f : Core → Core} : Continues (branchTo s i f) := by
  unfold Machine.branchTo
  split
  · exact .trap
  · exact .next

theorem Continues.arrive {r : Ref} {deps : List (Nat × Nat)} : Continues (arrive k s r n deps) := by
  unfold Machine.arrive
  refine .ite .next ?_
  split
  · exact .next
  · exact .next

theorem Continues.opPosted {a : Access} {jkind size data : Nat} : Continues (opPosted k s a jkind size data) := by
  unfold Machine.opPosted
  split
  · exact .next
  · exact .next

theorem Continues.refusePosted {a : Access} {jkind size data : Nat} : Continues (refusePosted k s a jkind size data) := by
  unfold Machine.refusePosted
  split
  · exact .next
  · exact .next

theorem Continues.copyIssue {r : Ref} {start : State → State} : Continues (copyIssue k s r start) := .ite .next .next

theorem Continues.tensorIssue {r : Ref} {start : State → State} : Continues (tensorIssue k s r start) := .ite .next .next

theorem Continues.tmmaChecks (h : Continues b) : Continues (tmmaChecks k s b) := .checkTd <| .checkTd <| .ite .trap h

theorem Continues.opMoveGo {lanes : List Nat} : Continues (opMoveGo k s n lanes) := by
  refine .withRef <| .ite .next <| .ite .copyIssue <| .ite .next ?_
  split
  · exact .next
  · exact .next

theorem Continues.streamIssue {bs : List (Nat × Nat × Stream)} : Continues (streamIssue k s bs) := by
  unfold Machine.streamIssue
  dsimp only
  split
  · exact .trap
  · refine .ite .trap ?_
    split
    · exact .trap
    · exact .ite (.checkLocal <| .withRef .next) (.withRef .next)

theorem Continues.vec {body : State → Out} (h : Continues (body s)) : Continues (vec k s body) := by
  refine .run ?_
  split
  · exact h
  · exact .ite .streamIssue .trap

theorem Continues.gather {body : List (Nat × Nat) → Out} (h : ∀ l, Continues (body l)) : Continues (gather k s body) := by
  refine .ite .trap ?_
  split
  · exact .trap
  · exact h _

/-- A packet begins, is rejected, goes on, or its turn has not come: each is a next state (R71, R72). -/
theorem Continues.command {form : Packet → Bool} {check : State → Nat → Packet → Option Nat}
    {act : State → Nat → Packet → State} : Continues (command q form check act s) := by
  unfold Machine.command
  split
  · exact .ite .next .next
  · split
    · exact .next
    · refine .ite .next ?_
      split
      · exact .next
      · exact .next

theorem Continues.onCore {sel : Body → Bool} {act : State → Nat → Msg → Option State}
    {lost : State → Nat → Msg → State} : Continues (onCore s n sel act lost) := by
  unfold Machine.onCore
  split
  · exact .next
  · split
    · exact .next
    · exact .ite .next .next

theorem Continues.onBeacon {act : Nat} {f : State → BeaconQuery → Option State} : Continues (onBeacon s n act f) := by
  unfold Machine.onBeacon
  split
  · exact .ite .next .next
  · exact .next

theorem Continues.onReply {act : Nat} {f : State → Nat → List Parked → State} : Continues (onReply s n act f) := by
  unfold Machine.onReply
  split
  · dsimp only
    split
    · exact .next
    · exact .ite .next .next
  · exact .next

end Shapes

/-! ### The core instructions -/

section Instructions

variable {k : Ctx} {s : State}

theorem continues_opEnd : Continues (opEnd k s) := .run .next
theorem continues_opFork : Continues (opFork k s) := .run <| .ite .trap <| .ite .trap <| .withRef .next
theorem continues_opFree : Continues (opFree k s) := .run <| .ite .trap <| .ite .next .next
theorem continues_opSig : Continues (opSig k s) := .run <| .withRef .arrive
theorem continues_opSigv : Continues (opSigv k s) := .run <| .withRef .arrive

theorem continues_opArm : Continues (opArm k s) := by
  refine .run <| .ite .trap <| .ite .trap <| .withRef <| .ite .next ?_
  split
  · exact .next
  · exact .next

theorem continues_opSlotrd : Continues (opSlotrd k s) := .run .next
theorem continues_opRoam : Continues (opRoam k s) := .run <| .ite .trap .next
theorem continues_opPrio : Continues (opPrio k s) := .run .next
theorem continues_opBarcfg : Continues (opBarcfg k s) := .run <| .ite .trap .next

theorem continues_opBar : Continues (opBar k s) := by
  refine .run ?_
  split
  · exact .trap
  · exact .next

theorem continues_opDqpush : Continues (opDqpush k s) :=
  .run <| .ite .next <| .ite .trap <| .ite .next <| .ite .trap .next
theorem continues_opDqpop : Continues (opDqpop k s) :=
  .run <| .ite .next <| .ite .trap <| .ite .next <| .ite .trap .next
theorem continues_opDqsteal : Continues (opDqsteal k s) := .run <| .ite .trap <| .withRef .next
theorem continues_opWdq : Continues (opWdq k s) := .run <| .checkLocal <| .withRef .next
theorem continues_opBr : Continues (opBr k s) := .run .branchTo
theorem continues_opJal : Continues (opJal k s) := .run .branchTo
theorem continues_opJalr : Continues (opJalr k s) := .run <| .ite .trap .branchTo
theorem continues_opDbnz : Continues (opDbnz k s) := .run <| .ite .next .branchTo
theorem continues_opTermw : Continues (opTermw k s) := .run <| .withRef .next
theorem continues_opCancel : Continues (opCancel k s) := .run <| .ite .trap <| .withRef .next

theorem continues_opMfs : Continues (opMfs k s) := by
  unfold opMfs
  dsimp only
  split
  · exact .trap
  · exact .run .next

theorem continues_opMts : Continues (opMts k s) := by
  unfold opMts
  dsimp only
  split
  · exact .trap
  · exact .run <| .ite .trap .next

theorem continues_opSvc : Continues (opSvc k s) := .run .trap
theorem continues_opTrap : Continues (opTrap k s) := .run .trap
theorem continues_opBrk : Continues (opBrk k s) := .run .trap
theorem continues_opWaiti : Continues (opWaiti k s) := .run .next
theorem continues_opSynci : Continues (opSynci k s) := .run <| .withRef .next

theorem continues_opRfe : Continues (opRfe k s) := by
  refine .run ?_
  split
  · exact .next
  · exact .trap

theorem continues_opInt {b : Bool} {f : Nat → Int → Int → Int} : Continues (opInt b f k s) := .run .next
theorem continues_opArith {f : Int → Int → Int} : Continues (opArith f k s) := by
  unfold opArith
  exact continues_opInt
theorem continues_opBits {f : Nat → Nat → Nat → Nat} : Continues (opBits f k s) := .run .next
theorem continues_opCmp : Continues (opCmp k s) := .run .next
theorem continues_opSel : Continues (opSel k s) := .run .next
theorem continues_opMov : Continues (opMov k s) := .run .next
theorem continues_opPacked {f : Nat → Nat → Nat} : Continues (opPacked f k s) := .run .next
theorem continues_opBfx : Continues (opBfx k s) := .run .next
theorem continues_opBfi : Continues (opBfi k s) := .run .next
theorem continues_opSext : Continues (opSext k s) := .run .next
theorem continues_opZext : Continues (opZext k s) := .run .next
theorem continues_opLea : Continues (opLea k s) := .run .next
theorem continues_opMadd : Continues (opMadd k s) := .run .next
theorem continues_opPred {f : Bool → Bool → Bool} : Continues (opPred f k s) := .run .next
theorem continues_opSlice : Continues (opSlice k s) := .run .next
theorem continues_opF2 {f : Fmt → Nat → Nat → FV → FV → Nat × Nat} : Continues (opF2 f k s) := .run .raise
theorem continues_opFfma : Continues (opFfma k s) := .run .raise
theorem continues_opFsqrt : Continues (opFsqrt k s) := .run .raise
theorem continues_opFMinMax {b : Bool} : Continues (opFMinMax b k s) := .run .raise
theorem continues_opFcmp : Continues (opFcmp k s) := .run .raise
theorem continues_opFSign {b : Bool} : Continues (opFSign b k s) := .run .next
theorem continues_opFclass : Continues (opFclass k s) := .run .next

theorem continues_opFcvt : Continues (opFcvt k s) := by
  refine .run <| .ite ?_ (.ite .raise .raise)
  dsimp only
  split
  · exact .next
  · exact .raise

theorem continues_opLd : Continues (opLd k s) :=
  .run <| .ite (.ite .trap <| .ite .trap .next) <| .checkLocal <| .checkEcc .next
theorem continues_opSt : Continues (opSt k s) :=
  .run <| .ite (.ite .trap <| .ite .next .trap) <| .checkLocal <| .ite .trap .next

theorem continues_opFetch {kind : AccKind} : Continues (opFetch kind k s) := by
  refine .run <| .checkGlobal <| .checkLocal <| .withRef ?_
  dsimp only
  split
  · exact .next
  · exact .next

theorem continues_opStore {kind : AccKind} {jkind : Ctx → Nat} : Continues (opStore kind jkind k s) :=
  .run <| .checkGlobal <| .ite .opPosted <| .checkLocal <| .ite .refusePosted .opPosted
theorem continues_opFeop : Continues (opFeop k s) := .run <| .checkGlobal .opPosted
theorem continues_opFence {drain : Bool} : Continues (opFence drain k s) := .run <| .withRef .next
theorem continues_opAop : Continues (opAop k s) :=
  .run <| .checkGlobal <| .ite (.withRef .next) (.checkLocal <| .withRef .next)
theorem continues_opAcas : Continues (opAcas k s) := .run <| .checkGlobal <| .checkLocal <| .withRef .next
theorem continues_opPref : Continues (opPref k s) := .run <| .checkGlobal .next
theorem continues_opEnq : Continues (opEnq k s) := .run <| .ite .trap <| .ite .trap <| .withRef .next

theorem continues_opDeq : Continues (opDeq k s) := by
  refine .run <| .ite .next ?_
  split
  · exact .next
  · exact .ite .next .next

theorem continues_opQcfg : Continues (opQcfg k s) := .run <| .ite .trap <| .ite .trap .next

theorem continues_opSbind : Continues (opSbind k s) := by
  refine .run <| .checkLocal <| .checkEcc ?_
  dsimp only
  split
  · exact .trap
  · refine .ite .trap ?_
    split
    · exact .trap
    · exact .next

theorem continues_opSunb : Continues (opSunb k s) := .run <| .ite .next <| .ite .next .next
theorem continues_opTlbi : Continues (opTlbi k s) := .run <| .ite .trap <| .ite .trap <| .withRef .next
theorem continues_opCflush : Continues (opCflush k s) :=
  .run <| .withRef <| .ite .next <| .ite .next <| .ite .next .next
theorem continues_opRedsend : Continues (opRedsend k s) :=
  .run <| .ite .trap <| .checkLocal <| .withRef <| .ite .next .next

theorem continues_opRedcfg : Continues (opRedcfg k s) := by
  refine .run <| .checkLocal <| .checkEcc ?_
  dsimp only
  split
  · exact .trap
  · exact .ite .trap <| .ite .trap .next

theorem continues_opShld : Continues (opShld k s) := .run <| .checkGlobal <| .withRef .next
theorem continues_opShinv : Continues (opShinv k s) := .run .next
theorem continues_opShbnd : Continues (opShbnd k s) := .run <| .ite .trap <| .ite .trap <| .ite .trap <| .withRef .next
theorem continues_opCopy : Continues (opCopy k s) := .run <| .checkLocal <| .withRef .copyIssue
theorem continues_opBupd : Continues (opBupd k s) :=
  have moves := .withRef <| .ite .next .copyIssue
  .run <| .checkGlobal <| .ite (.ite .trap moves) (.checkLocal moves)
theorem continues_opMove : Continues (opMove k s) :=
  .run <| .ite .trap <| .ite (.checkGlobal <| .ite .opMoveGo <| .checkLocal .opMoveGo) <|
    .checkLocal <| .ite (.withRef .next) <| .ite .trap <| .ite .trap <|
      .checkGlobal <| .ite .opMoveGo <| .checkLocal <| .checkLocal .opMoveGo
theorem continues_opTld : Continues (opTld k s) :=
  .run <| .checkTd <| .ite (.checkGlobal <| .ite .trap <| .withRef .copyIssue) (.checkLocal <| .withRef .copyIssue)
theorem continues_opRgld : Continues (opRgld k s) :=
  .run <| .checkTd <| .checkLocal <| .checkLocal <| .withRef .copyIssue

theorem continues_opVec : Continues (opVec k s) := .vec .setLanes
theorem continues_opVcvt : Continues (opVcvt k s) := .vec .setLanes
theorem continues_opVcmp : Continues (opVcmp k s) := .vec .raise
theorem continues_opVred : Continues (opVred k s) := .vec <| .ite .raise <| .ite .next .next
theorem continues_opVscan : Continues (opVscan k s) := .vec .raise
theorem continues_opVperm : Continues (opVperm k s) := .vec .setLanes
theorem continues_opVrand : Continues (opVrand k s) := .vec .setLanes
theorem continues_opVld : Continues (opVld k s) := .vec <| .checkLocal <| .checkEccAll .next
theorem continues_opVst : Continues (opVst k s) := .vec <| .checkLocal <| .checkEccAll .next
theorem continues_opVgath : Continues (opVgath k s) := .vec <| .gather fun _ => .checkEccAll .next
theorem continues_opVscat : Continues (opVscat k s) := .vec <| .gather fun _ => .checkEccAll .next
theorem continues_opVqnt : Continues (opVqnt k s) := .vec <| .checkLocal <| .ite .trap .next
theorem continues_opVdot : Continues (opVdot k s) := .vec .setLanes

theorem continues_opTacld : Continues (opTacld k s) := .run <| .checkLocal <| .withRef .tensorIssue
theorem continues_opTacst : Continues (opTacst k s) := .run <| .checkTd <| .ite .trap <| .withRef .tensorIssue
theorem continues_opTacz : Continues (opTacz k s) := .run <| .ite .next .next
theorem continues_opTmma : Continues (opTmma k s) := .run <| .tmmaChecks <| .withRef .tensorIssue
theorem continues_opTmmas : Continues (opTmmas k s) := .run <| .tmmaChecks <| .checkLocal <| .withRef .tensorIssue
theorem continues_opTmmsp : Continues (opTmmsp k s) := .run <| .checkTd <| .checkGlobal <| .withRef .tensorIssue
theorem continues_opTcvt : Continues (opTcvt k s) :=
  .run <| .ite (.checkTd <| .checkTd <| .ite .trap <| .withRef .tensorIssue) (.checkTd <| .ite .trap <| .withRef .tensorIssue)
theorem continues_opTred : Continues (opTred k s) := .run <| .checkTd <| .withRef .tensorIssue
theorem continues_opTnorm : Continues (opTnorm k s) := .run <| .checkTd <| .withRef .tensorIssue
theorem continues_opTsmax : Continues (opTsmax k s) := .run <| .withRef .tensorIssue
theorem continues_opTtrn : Continues (opTtrn k s) := .run <| .checkTd <| .checkTd <| .ite .trap <| .withRef .tensorIssue
theorem continues_opTmask : Continues (opTmask k s) := .run <| .checkLocal <| .withRef .tensorIssue
theorem continues_opTadd : Continues (opTadd k s) := .run <| .withRef .tensorIssue
theorem continues_opSpcomp : Continues (opSpcomp k s) := .run <| .checkGlobal <| .withRef .next
theorem continues_opSpinv : Continues (opSpinv k s) := .run .next
theorem continues_opTexlog : Continues (opTexlog k s) := .run .next

end Instructions

/-! ### The events that case on what the state holds -/

section Events

variable {s : State} {q c n h : Nat}

theorem continues_execPacketAccept : Continues (execPacketAccept q s) := by
  refine .ite .next ?_
  split
  · exact .next
  · exact .next
  · exact .ite .next <| .ite .next .next

theorem continues_execPacketComplete : Continues (execPacketComplete q s) := by
  unfold execPacketComplete
  split
  · exact .ite .next .next
  · split
    · exact .ite .next .next
    · exact .next

theorem continues_execPacketAging : Continues (execPacketAging q s) := by
  unfold execPacketAging
  dsimp only
  split
  · exact .ite .next .next
  · exact .next

theorem continues_execBacklogServe : Continues (execBacklogServe c s) := by
  refine .ite .next ?_
  split
  · exact .next
  · split
    · exact .next
    · split
      · exact .next
      · exact .next

theorem continues_execFiringIssue : Continues (execFiringIssue c s) := by
  refine .ite ?_ .next
  split
  · exact .next
  · exact .next

theorem continues_execCancelAcknowledge : Continues (execCancelAcknowledge n s) := by
  unfold execCancelAcknowledge
  split
  · exact .ite .next .next
  · exact .next

theorem continues_execUnloadAcknowledge : Continues (execUnloadAcknowledge c s) := by
  unfold execUnloadAcknowledge
  split
  · exact .next
  · exact .next

theorem continues_execLoadAcknowledgement : Continues (execLoadAcknowledgement c s) := by
  unfold execLoadAcknowledgement
  split
  · exact .next
  · exact .ite .next <| .ite .next .next

theorem continues_execWatermarkReport : Continues (execWatermarkReport n s) := by
  unfold execWatermarkReport
  split
  · dsimp only
    split
    · exact .next
    · exact .ite .next .next
  · exact .next

theorem continues_execCopyPiece : Continues (execCopyPiece c s) := by
  unfold execCopyPiece
  dsimp only
  split
  · exact .next
  · exact .next

theorem continues_execCopyAging : Continues (execCopyAging c n s) := by
  unfold execCopyAging
  split
  · exact .next
  · exact .next

theorem continues_execRowWaitTimeout : Continues (execRowWaitTimeout c n s) := by
  unfold execRowWaitTimeout
  dsimp only
  split
  · exact .ite .next .next
  · exact .next

theorem continues_execLdfTimeout : Continues (execLdfTimeout h n s) := by
  unfold execLdfTimeout
  dsimp only
  split
  · exact .next
  · refine .ite .next ?_
    split
    · exact .next
    · exact .next

theorem continues_execRemoteTimeout : Continues (execRemoteTimeout c n s) := by
  unfold execRemoteTimeout
  split
  · exact .ite .next .next
  · exact .next

theorem continues_execRemoteAcknowledgement {cause : BitVec 8} {data : List Byte} :
    Continues (execRemoteAcknowledgement c n cause data s) := by
  unfold execRemoteAcknowledgement
  split
  · exact .next
  · exact .ite .next <| .ite .next <| .ite (.ite .next .next) <| .ite .next .next

theorem continues_execGlobalAccess : Continues (execGlobalAccess n s) := by
  unfold execGlobalAccess
  split
  · dsimp only
    split
    · exact .next
    · refine .ite .next ?_
      split
      · exact .next
      · exact .next
    · exact .ite .next .next
  · exact .next

theorem continues_execLineFill : Continues (execLineFill h n s) := by
  unfold execLineFill
  dsimp only
  split
  · exact .next
  · exact .next

theorem continues_execHeldAccessRelease : Continues (execHeldAccessRelease h n s) := by
  unfold execHeldAccessRelease
  dsimp only
  split
  · exact .next
  · exact .ite .next .next

theorem continues_execStoreAcknowledge : Continues (execStoreAcknowledge n s) := by
  unfold execStoreAcknowledge
  split
  · exact .next
  · exact .next

theorem continues_execStoreRefusal : Continues (execStoreRefusal n s) := by
  unfold execStoreRefusal
  split
  · dsimp only
    split
    · exact .next
    · exact .ite .next .next
  · exact .next

theorem continues_execWatchAdvance : Continues (execWatchAdvance n s) := by
  unfold execWatchAdvance
  split
  · exact .next
  · exact .next

theorem continues_execScrub {loc : Nat} : Continues (execScrub loc s) := by
  unfold execScrub
  split
  · exact .next
  · exact .next
  · exact .next

theorem continues_execSoftError {loc bits : Nat} : Continues (execSoftError loc bits s) := by
  refine .ite .next ?_
  split
  · exact .next
  · refine .ite .next ?_
    split
    · exact .next
    · exact .next
    · exact .next
  · split
    · exact .next
    · refine .ite .next ?_
      split
      · exact .next
      · exact .next

theorem continues_execPrismServe : Continues (execPrismServe n s) := by
  unfold execPrismServe
  split
  · exact .next
  · exact .next

theorem continues_execTreeEntryWrite : Continues (execTreeEntryWrite n s) := by
  unfold execTreeEntryWrite
  split
  · exact .next
  · exact .next

theorem continues_execReductionDelivery : Continues (execReductionDelivery n s) := by
  unfold execReductionDelivery
  split
  · exact .next
  · exact .next

theorem continues_execDuskSample {die : Nat} : Continues (execDuskSample die n s) := by
  unfold execDuskSample
  dsimp only
  split
  · exact .next
  · refine .ite .next ?_
    split
    · exact .next
    · exact .ite .next <| .ite .next .next

theorem continues_execRecordedTrapEntry : Continues (execRecordedTrapEntry c s) := by
  unfold execRecordedTrapEntry
  dsimp only
  split
  · exact .next
  · exact .ite .next .next

theorem continues_execHostMemoryAcceptance : Continues (execHostMemoryAcceptance n s) := by
  unfold execHostMemoryAcceptance
  split
  · dsimp only
    split
    · exact .next
    · exact .next
  · exact .next

end Events

/-! ### Every instruction, command and event -/

/-- No constructor's meaning faults or is refused. -/
theorem continues_exec (i : Instr) (s : State) : Continues (exec i s) := by
  unfold exec
  cases i with
  -- threadlets, barriers, deques, control
  | nop => exact .next
  | endInstr => exact continues_opEnd
  | fork => exact continues_opFork
  | free => exact continues_opFree
  | sig => exact continues_opSig
  | sigv => exact continues_opSigv
  | arm => exact continues_opArm
  | slotrd => exact continues_opSlotrd
  | roam => exact continues_opRoam
  | prio => exact continues_opPrio
  | bar => exact continues_opBar
  | barcfg => exact continues_opBarcfg
  | dqpush => exact continues_opDqpush
  | dqpop => exact continues_opDqpop
  | dqsteal => exact continues_opDqsteal
  | wdq => exact continues_opWdq
  | br | brExt => exact continues_opBr
  | jal | jalExt => exact continues_opJal
  | jalr | jalrExt => exact continues_opJalr
  | dbnz | dbnzExt => exact continues_opDbnz
  | termw => exact continues_opTermw
  | cancelInstruction => exact continues_opCancel
  | mfs => exact continues_opMfs
  | mts => exact continues_opMts
  | svc => exact continues_opSvc
  | trap => exact continues_opTrap
  | rfe => exact continues_opRfe
  | brk => exact continues_opBrk
  | waiti => exact continues_opWaiti
  | synci => exact continues_opSynci
  -- scalar integer and floating point
  | add | addExt | sub | subExt | mul | mulExt => exact continues_opArith
  | mulh | mulhExt | mulhn | mulhnExt | div | divExt | divn | divnExt | rem | remExt | remn | remnExt | shr | shrExt
  | sha | shaExt | min | minExt | max | maxExt | minn | minnExt | maxn | maxnExt | abs | absExt | neg | negExt =>
    exact continues_opInt
  | and | andExt | or | orExt | xor | xorExt | andn | andnExt | orn | ornExt | shl | shlExt | rot | rotExt =>
    exact continues_opBits
  | cmp | cmpExt => exact continues_opCmp
  | sel | selExt => exact continues_opSel
  | mov | movExt => exact continues_opMov
  | clz | clzExt | ctz | ctzExt | ffs | ffsExt | popc | popcExt | brev | brevExt => exact continues_opPacked
  | bfx => exact continues_opBfx
  | bfi => exact continues_opBfi
  | sext | sextExt => exact continues_opSext
  | zext | zextExt => exact continues_opZext
  | lea | leaExt => exact continues_opLea
  | madd => exact continues_opMadd
  | pand | por | pxor | pnot | pmov => exact continues_opPred
  | slice => exact continues_opSlice
  | fadd | faddExt | fsub | fsubExt | fmul | fmulExt | fdiv | fdivExt => exact continues_opF2
  | ffma => exact continues_opFfma
  | fsqrt | fsqrtExt => exact continues_opFsqrt
  | fmin | fminExt | fmax | fmaxExt => exact continues_opFMinMax
  | fcmp => exact continues_opFcmp
  | fcvt => exact continues_opFcvt
  | fabs | fneg => exact continues_opFSign
  | fclass => exact continues_opFclass
  -- memory, queues, streams, reductions
  | ld | ldExt => exact continues_opLd
  | st | stExt => exact continues_opSt
  | ldf | fetch => exact continues_opFetch
  | stf | stfExt | post | stn => exact continues_opStore
  | feop | feopExt => exact continues_opFeop
  | drain | fence => exact continues_opFence
  | aop => exact continues_opAop
  | acas => exact continues_opAcas
  | bupd => exact continues_opBupd
  | pref | prefExt => exact continues_opPref
  | get | put => exact continues_opMove
  | copy => exact continues_opCopy
  | enq => exact continues_opEnq
  | deq => exact continues_opDeq
  | qcfg => exact continues_opQcfg
  | sbind => exact continues_opSbind
  | sunb => exact continues_opSunb
  | redsend => exact continues_opRedsend
  | redcfg => exact continues_opRedcfg
  | tlbi => exact continues_opTlbi
  | cflush => exact continues_opCflush
  -- vectors
  | vadd | vaddExt | vsub | vsubExt | vmul | vmulExt | vfma | vfmaExt | vmin | vminExt | vmax | vmaxExt | vabs | vabsExt
  | vneg | vnegExt | vsel | vselExt | vand | vandExt | vor | vorExt | vxor | vxorExt | vshl | vshlExt | vshr | vshrExt
  | viadd | viaddExt | vimul | vimulExt | vexp2 | vexp2Ext | vlog2 | vlog2Ext | vrcp | vrcpExt | vrsq | vrsqExt | vsqrt
  | vsqrtExt | vsin | vsinExt | vcos | vcosExt | vtanh | vtanhExt | vsigm | vsigmExt | vbcast | vbcastExt | vmov | vmovExt =>
    exact continues_opVec
  | vcmp | vcmpExt => exact continues_opVcmp
  | vcvt => exact continues_opVcvt
  | vred | vredExt => exact continues_opVred
  | vscan | vscanExt => exact continues_opVscan
  | vperm | vpermExt => exact continues_opVperm
  | vld | vldExt => exact continues_opVld
  | vst | vstExt => exact continues_opVst
  | vgath | vgathExt => exact continues_opVgath
  | vscat | vscatExt => exact continues_opVscat
  | vrand | vrandExt => exact continues_opVrand
  | vqnt => exact continues_opVqnt
  | vdot | vdotExt => exact continues_opVdot
  -- tensors, shapes, sparse forms
  | tld => exact continues_opTld
  | tacld => exact continues_opTacld
  | tacst => exact continues_opTacst
  | tacz => exact continues_opTacz
  | tmma => exact continues_opTmma
  | tmmas => exact continues_opTmmas
  | tmmsp => exact continues_opTmmsp
  | spcomp => exact continues_opSpcomp
  | spinv => exact continues_opSpinv
  | tcvt => exact continues_opTcvt
  | tred => exact continues_opTred
  | tnorm => exact continues_opTnorm
  | tsmax => exact continues_opTsmax
  | ttrn => exact continues_opTtrn
  | tmask => exact continues_opTmask
  | tadd => exact continues_opTadd
  | shld => exact continues_opShld
  | shinv => exact continues_opShinv
  | shbnd => exact continues_opShbnd
  | rgld => exact continues_opRgld
  | texlog => exact continues_opTexlog
  -- commands, and what becomes of a packet
  | nopc | loadw | loadwUnload | gatesOpen | gatesClose | arrive | waitq | signal | swap | swapRestore | cancel | cancelClr
  | fencec | stamp => exact .command
  | packetAccept => exact continues_execPacketAccept
  | packetComplete => exact continues_execPacketComplete
  | packetAging => exact continues_execPacketAging
  -- events
  | debugRead | debugWrite | debugAttest | windowWrite | errorWordClear | qctlEnable | qctlResumeRetry | qctlResumeSkip
  | hostWindowAccess | powerOnReset | bootVerify | i3cResetRequest | i3cDynamicAddressAssignment | thermalAlarm
  | spillComplete | fillComplete | promotion | tensorRow | streamGroup | prismCompile | reductionTimeout | clusterFence
  | stepctlHalt | stepctlGo | stepctlStep | stepctlRelh => exact .next
  | leaseRenew | hbmTraining | clusterPowerUp | keyLoad | sliceConfigurationWrite | livelockWindow | preempt | blockClaim =>
    exact .ite .next .next
  | leaseCheck => exact .ite .next <| .ite .next .next
  | i3cRead => exact .ite .next <| .ite .next <| .ite .next <| .ite .next <| .ite .next <| .ite .next .next
  | arrival | armMessage | freeMessage | forkRequest | roamArrival | enqArrival | steal | faultRecord => exact .onCore
  | beaconOpen | beaconNext | beaconClose => exact .onBeacon
  | faultReplyResume | faultReplyAbort => exact .onReply
  | backlogServe => exact continues_execBacklogServe
  | firingIssue => exact continues_execFiringIssue
  | cancelAcknowledge => exact continues_execCancelAcknowledge
  | unloadAcknowledge => exact continues_execUnloadAcknowledge
  | loadAcknowledgement => exact continues_execLoadAcknowledgement
  | watermarkReport => exact continues_execWatermarkReport
  | copyPiece => exact continues_execCopyPiece
  | copyAging => exact continues_execCopyAging
  | rowWaitTimeout => exact continues_execRowWaitTimeout
  | ldfTimeout => exact continues_execLdfTimeout
  | remoteTimeout => exact continues_execRemoteTimeout
  | remoteAcknowledgement => exact continues_execRemoteAcknowledgement
  | globalAccess => exact continues_execGlobalAccess
  | lineFill => exact continues_execLineFill
  | heldAccessRelease => exact continues_execHeldAccessRelease
  | storeAcknowledge => exact continues_execStoreAcknowledge
  | storeRefusal => exact continues_execStoreRefusal
  | watchAdvance => exact continues_execWatchAdvance
  | scrub => exact continues_execScrub
  | softError => exact continues_execSoftError
  | prismServe => exact continues_execPrismServe
  | treeEntryWrite => exact continues_execTreeEntryWrite
  | reductionDelivery => exact continues_execReductionDelivery
  | duskSample => exact continues_execDuskSample
  | recordedTrapEntry => exact continues_execRecordedTrapEntry
  | hostMemoryAcceptance => exact continues_execHostMemoryAcceptance

/-! ### The step -/

section Step

variable {s : State} {o : Out}

theorem Continues.orStall (h : Continues o) : Continues (s.orStall o) := by
  obtain ⟨t, rfl⟩ := h
  exact .ite .next .next

theorem Continues.tickOut (h : Continues o) : Continues (tickOut o) := by
  obtain ⟨t, rfl⟩ := h
  exact .next

theorem continues_issue : Continues s.issue := by
  refine .ite .next ?_
  split
  · exact .next
  · refine .ite .next ?_
    split
    · exact continues_exec _ _
    · exact .next
    · exact .next

/-- An entry of the schedule gives a next state: only two kinds of entry run an instruction. -/
theorem continues_actNow (a : Act) : Continues (s.actNow a) := by
  cases a with
  | core => exact continues_issue.tickOut
  | event i => exact .ite .next (continues_exec i s)
  | _ => exact .next

theorem continues_act (a : Act) : Continues (s.act a) := (continues_actNow a).orStall

theorem continues_step : Continues (step s) := by
  unfold step
  split
  · exact continues_act _
  · exact continues_act _

end Step

/-- Settles O8: every meaning is a composition of shapes that end in a next state, a step runs one meaning or none, and what
has to wait gives the state it began in. -/
theorem stepsRunOnEveryState : Obligations.StepsRunOnEveryState :=
  ⟨fun _ => continues_step, fun s i => continues_exec i s⟩

end Sys2Proof.Machine
end

section
/-! SUPPORT and PROOFS. The front end's own events: packets accepted, completed and aged (R15 to R17, R74, R77), the lease (R87,
R88) and the host's accesses (R62, R67); and O50. -/

namespace Sys2Proof.Machine

/-! ### Acceptance (R15, R16, R447) -/

/-- The read of the ring slot that QSEQ names, in its turn at the slices. -/
def State.slotRead (s : State) (q : Nat) : State × Except GErr (List Byte) :=
  s.gRead (s.queue q).asid.toNat ((s.queue q).slotVa (s.queue q).seq.toNat) 64 { turn := true, front := true, own := true }

section Acceptance

variable {s t : State} {q : Nat}

/-- An enabled queue under a leader does what the read of its slot leaves it to do. -/
theorem execPacketAccept_eq (hl : s.leads = true) (he : (s.queue q).en = true) (hu : (s.queue q).unread = false) :
    execPacketAccept q s =
      match s.slotRead q with
      | (_, .error .busy) => .next s
      | (t, .error e) =>
        .next (t.setQueue q { s.queue q with halt := true, err := qerr (s.queue q).seq.toNat 0x06 0 0 e.frontCause })
      | (t, .ok bs) =>
        let h := s.queue q
        let p : Packet := { words := wordsOf bs, since := t.cycles }
        if p.seq ≠ h.seq.toNat then .next t
        else if h.size.toNat ≤ h.outstanding then .next (t.spoilQueue q)
        else
          let u := (t.unpush q p.seq).setQueue q { h with accepted := h.accepted ++ [p], seq := h.seq + 1 }
          .next (if h.waits && decide (h.accepted.length < 8) then u.stageImage q p else u) := by
  simp only [execPacketAccept, hl, he, hu]
  rfl

/-- A slot whose turn has not come is left for later. -/
theorem execPacketAccept_busy (hl : s.leads = true) (he : (s.queue q).en = true) (hu : (s.queue q).unread = false)
    (hr : s.slotRead q = (t, .error .busy)) : execPacketAccept q s = .next s := by
  rw [execPacketAccept_eq hl he hu, hr]

/-- A slot that cannot be read halts the queue. -/
theorem execPacketAccept_error {e : GErr} (hl : s.leads = true) (he : (s.queue q).en = true) (hu : (s.queue q).unread = false)
    (hr : s.slotRead q = (t, .error e)) (hb : e ≠ .busy) :
    execPacketAccept q s =
      .next (t.setQueue q { s.queue q with halt := true, err := qerr (s.queue q).seq.toNat 0x06 0 0 e.frontCause }) := by
  rw [execPacketAccept_eq hl he hu, hr]
  cases e with
  | busy => exact absurd rfl hb
  | abort | fault | cause | behind => rfl

end Acceptance

/-! ### Completion and ageing (R17, R74, R77) -/

@[simp] theorem State.queue_unbusy (s : State) (q j : Nat) : (s.unbusy q).queue j = s.queue j := rfl

/-- The queue after its packet is counted: nothing executes, and the wait of the next one begins. -/
theorem State.queue_completePacket_self (s : State) (q : Nat) :
    (s.completePacket q).queue q = { s.queue q with
      exec := none, cmpl := (s.queue q).cmpl + 1
      accepted := match (s.queue q).accepted with
        | p :: ps => { p with since := s.cycles } :: ps
        | [] => [] } :=
  (State.queue_unbusy _ _ _).trans (State.queue_setQueue_self _ _ _)

/-- As many packets wait as before. -/
theorem State.accepted_completePacket_length (s : State) (q : Nat) :
    ((s.completePacket q).queue q).accepted.length = (s.queue q).accepted.length := by
  rw [State.queue_completePacket_self]
  cases (s.queue q).accepted <;> rfl

/-- A packet that has come to its end is counted; the region that an unload leaves is freed first. -/
theorem execPacketComplete_finished {s : State} {q : Nat} {e : Exec} (he : (s.queue q).exec = some e) (hl : s.leads = true)
    (ha : e.again = false) (hf : s.finished q e = true) :
    execPacketComplete q s =
      let t := (if e.pkt.cmd = 1 ∧ e.pkt.image = 0 ∧ !e.done then s.freeRegion e.pkt.regionId else s).completePacket q
      .next (if e.pkt.cmd = 4 then t.unstage else t) := by
  simp [execPacketComplete, he, hl, ha, hf]

theorem execPacketAging_due {s : State} {q : Nat} {p : Packet} {ps : List Packet} (he : (s.queue q).exec = none)
    (ha : (s.queue q).accepted = p :: ps) (hp : p.since + 800000 ≤ s.cycles) :
    execPacketAging q s = .next (s.setQueue q { s.queue q with accepted := { p with urgent := true } :: ps }) := by
  simp [execPacketAging, he, ha, Nat.not_lt.mpr hp]

/-! ### The lease (R87 to R89) -/

/-- What a die does that takes the lease: it holds it under a new EPOCH, and writes the expiry. -/
def State.takeLease (s : State) (die : Nat) : State :=
  let t := { s with fw := { s.fw with holder := BitVec.ofNat 2 die, epoch := s.fw.epoch + 1, ready := true } }.setExpiry die
  t.setDie die { t.die die with fwEpoch := t.fw.epoch }

/-- The lease as a die holds it up to an expiry x. -/
def State.leased (s : State) (die : Nat) (x : BitVec 48) : State :=
  { s with fw := { s.fw with holder := BitVec.ofNat 2 die, epoch := s.fw.epoch + 1, ready := true, expiry := x } }.setDie die
    { s.die die with fwEpoch := s.fw.epoch + 1 }

section Expiry

/-! The expiry is a variable in these lemmas, so that no proof evaluates its 4,000,000 cycles. -/

variable {s : State} {die : Nat} {x : BitVec 48} (hx : x = BitVec.ofNat 48 (s.fetime die + 4000000))
include hx

/-- The expiry goes by the clock alone. -/
theorem State.setExpiry_withFw (f : Firmware) :
    ({ s with fw := f } : State).setExpiry die = { s with fw := { f with expiry := x } } := by
  rw [hx]
  rfl

theorem State.takeLease_eq : s.takeLease die = s.leased die x := by
  unfold State.takeLease
  rw [State.setExpiry_withFw hx]
  rfl

end Expiry

theorem State.queues_takeLease (s : State) (die : Nat) : (s.takeLease die).queues = s.queues := by
  obtain ⟨x, hx⟩ : ∃ x, x = BitVec.ofNat 48 (s.fetime die + 4000000) := ⟨_, rfl⟩
  rw [State.takeLease_eq hx]
  rfl

/-- A follower whose firmware runs takes a lapsed lease: the first leader resets the queue table, a later one goes on from
what its predecessor left. -/
theorem execLeaseCheck_lapsed {s : State} {die : Nat} (hf : s.fwRuns die = true) (hx : s.reached die s.fw.expiry.toNat = true)
    (hs : s.startedUp = true) (hh : s.fw.ready = true → s.fw.holder.toNat ≠ die) :
    execLeaseCheck die s =
      if !s.fw.ready then .next { s.takeLease die with queues := [] }
      else .next ((s.queues.map (·.1)).foldl State.takeOver (s.takeLease die)) := by
  have hgo : ¬ (!s.fwRuns die || !s.reached die s.fw.expiry.toNat || !s.startedUp ||
      (s.fw.ready && s.fw.holder.toNat == die)) = true := by simpa [hf, hx, hs] using hh
  rw [← s.queues_takeLease die]
  exact if_neg hgo

/-! ### The host's accesses (R62, R67) -/

/-- What lies within one line is one piece. -/
theorem linePieces_within_line {f va n : Nat} (h0 : n ≠ 0) (h : va % 64 + n ≤ 64) : linePieces (f + 1) va n = [(va, n)] := by
  have hk : min n (64 - va % 64) = n := by omega
  cases f <;> simp [linePieces, h0, hk]

/-- An access within one line is one piece. -/
theorem execHostWindowAccess_within_line {write : Bool} {addr : Nat} {bs : List Byte} (s : State) (h0 : bs ≠ [])
    (h : addr % 64 + bs.length ≤ 64) : execHostWindowAccess write addr bs s = .next (s.hostPiece write addr bs) := by
  rw [execHostWindowAccess, linePieces_within_line (by simpa using h0) h]
  simp [State.hostPieces]

/-- An access through a window goes to its slice; one that spoils no queue does nothing else. -/
theorem State.hostPiece_window {s : State} {write : Bool} {addr : Nat} {bs : List Byte} {win : Window}
    (hw : findWindow s.port.inWin (fun w => bits w.w0.toNat 63 12 * 4096) addr = some win)
    (he : write = true →
      ∀ e ∈ s.queues, e.2.early (bits win.w2.toNat 15 0) (bits win.w1.toNat 47 0 + addr % winSize win) bs = false) :
    s.hostPiece write addr bs = State.send { s with port := { s.port with issued := s.port.issued + 1 } }
      { src := .host, dst := .slice (homeSlice (bits win.w1.toNat 47 0 + addr % winSize win)), chan := .request
        body := .access {
          kind := if write then .hostWrite else .hostRead
          core := 0xFFF, va := bits win.w1.toNat 47 0 + addr % winSize win, size := bs.length, asid := bits win.w2.toNat 15 0
          data := if write then bs else [], tag := s.port.issued } } := by
  have hnone : (if write then s.queues.filter fun e =>
      e.2.early (bits win.w2.toNat 15 0) (bits win.w1.toNat 47 0 + addr % winSize win) bs else []) = [] := by
    split
    · exact List.filter_eq_nil_iff.2 fun e hm => by simp [he ‹_› e hm]
    · rfl
  simp only [State.hostPiece, hw, hnone, List.foldl_nil]

/-- An access that no window holds is logged; a read of it is answered with ones. -/
theorem State.hostPiece_no_window {s : State} {write : Bool} {addr : Nat} {bs : List Byte}
    (hw : findWindow s.port.inWin (fun w => bits w.w0.toNat 63 12 * 4096) addr = none) :
    s.hostPiece write addr bs =
      if write then s.logError 1 addr else (s.logError 1 addr).hostAnswer (List.replicate bs.length 0xFF) := by
  simp only [State.hostPiece, hw]

/-! ### The statement -/

/-- Settles O50, event by event: acceptance by what the read of the slot gives, completion by whether it frees a region, then
ageing, the lease, and the host's access by whether a window holds it. -/
theorem packetsAndLeaseAdvance : Obligations.PacketsAndLeaseAdvance := by
  intro s
  refine ⟨fun q => ⟨?accept, ?complete, ?age⟩, fun die => ⟨?renew, ?check⟩, ?host⟩
  case accept =>
    intro hl he hu x
    have hx : s.slotRead q = (x.1, x.2) := rfl
    refine ⟨fun hb => ?_, fun bs hb => ⟨fun hseq => ?_, fun hseq hroom => ?_⟩, fun e hb hne => ?_⟩
    · exact execPacketAccept_busy hl he hu (hb ▸ hx)
    · refine (execPacketAccept_eq hl he hu).trans ?_
      rw [hx, hb]
      exact if_pos hseq
    · refine (execPacketAccept_eq hl he hu).trans ?_
      rw [hx, hb]
      exact (if_neg (not_not.2 hseq)).trans (if_neg (Nat.not_le.2 hroom))
    · exact execPacketAccept_error hl he hu (hb ▸ hx) hne
  case complete =>
    intro e he hl ha hf u
    have hexec := execPacketComplete_finished he hl ha hf
    refine ⟨fun hkeep => ⟨?_, ?_, ?_, s.accepted_completePacket_length q, fun p ps hps => ?_, rfl⟩, fun hc hi hd => ?_⟩
    · have : ¬ (e.pkt.cmd = 1 ∧ e.pkt.image = 0 ∧ !e.done) := by grind
      rwa [if_neg this] at hexec
    · rw [s.queue_completePacket_self q]
    · rw [s.queue_completePacket_self q]
    · rw [s.queue_completePacket_self q, hps]
    · exact hexec.trans (by simp [hc, hi, hd])
  case age => exact fun p ps => execPacketAging_due
  case renew =>
    intro hr hh hf hx
    exact if_pos ⟨hr, hh, hf, hx⟩
  case check =>
    intro hf hx hs
    refine ⟨fun hr => ?_, fun hr hh => ?_⟩
    · have hexec := execLeaseCheck_lapsed hf hx hs (by simp [hr])
      rw [hr, State.takeLease_eq rfl] at hexec
      exact hexec
    · have hexec := execLeaseCheck_lapsed hf hx hs fun _ => hh
      rw [hr, State.takeLease_eq rfl] at hexec
      exact hexec
  case host =>
    intro write addr bs h0 hline w
    have hexec := execHostWindowAccess_within_line (write := write) s h0 hline
    refine ⟨fun win hw => ?_, fun hw hwr => ?_, fun hw hwr => ?_⟩
    · intro va asid he
      exact hexec.trans (congrArg _ (State.hostPiece_window hw he))
    · exact hexec.trans (congrArg _ ((State.hostPiece_no_window hw).trans (if_pos hwr)))
    · exact hexec.trans (congrArg _ ((State.hostPiece_no_window hw).trans (if_neg (by simp [hwr]))))

end Sys2Proof.Machine
end

section
/-! SUPPORT and PROOFS. The word that a packet writes once RESUME lets it go on (R63, R347), and the refutation of O48. -/

namespace Sys2Proof.Machine

/-- Queue 0 executes a SIGNAL whose parked write, number 0, RESUME lets go on, first of what the packet has left to do (R63,
R347); slice 0 holds the leaf of the writable page that the word lies in. -/
def resumedSignal : State :=
  { queues := [(0, { exec := some { pkt := { words := [5 * 2 ^ 16, 0, 1] }, phase := 1, order := some 0 } })]
    slices := [(0, { tlb := [{ asid := 0, va := 0, size := 0, leaf := 0x6007, ent := 0 }] })] }

/-- The place among the parked writes that the packet of a queue goes on with. -/
def State.execOrder (s : State) (q : Nat) : Option (Option Nat) := (s.queue q).exec.map (·.order)

/-- The word is written, in HBM. -/
theorem resumedSignal_writes :
    ((resumedSignal.modExec 0 fun e => { e with phase := max e.phase 1 }).gWritePiece 0 0 (natLE 8 1)
      { turn := true, front := true }).2 = .ok () := by decide

/-- Once the write is performed, the packet has no place to go on with any more. -/
theorem resumedSignal_order_after : (resumedSignal.packetWord 0 0 1).execOrder 0 = some none := by decide

/-- Refutes O48: a packet that goes on after RESUME drops the place of its parked write when the write is performed; the
statement's clause of a word that is written, which holds of every state, keeps it. -/
theorem not_queueCommandsTakeEffect : ¬ Obligations.QueueCommandsTakeEffect := by
  rintro ⟨-, hword, -⟩
  obtain ⟨hwritten, -⟩ := hword resumedSignal 0 0 1 (by decide) (by decide)
  have horder := congrArg (·.execOrder 0) (hwritten resumedSignal_writes)
  rw [resumedSignal_order_after] at horder
  exact absurd horder (by decide)

end Sys2Proof.Machine
end

section
/-! SUPPORT and PROOFS. A packet that begins or is rejected (R71, R72, R75), what LOADW, SWAP and CANCEL do of their region (R77,
R79, R80, R82), and O49. -/

namespace Sys2Proof.Machine

/-! ### What a run of like updates leaves alone -/

/-- What no step of a fold changes, the fold does not change. -/
theorem foldl_keeps {α β γ : Type} {f : β → α → β} {g : β → γ} (h : ∀ b a, g (f b a) = g b) (l : List α) (b : β) :
    g (l.foldl f b) = g b := by
  induction l generalizing b with
  | nil => rfl
  | cons a l ih => exact (ih (f b a)).trans (h b a)

/-- Messages sent one by one stand behind those that were there, in their order. -/
theorem State.msgs_foldl_send {α : Type} (m : α → Msg) (l : List α) (s : State) :
    (l.foldl (fun s a => s.send (m a)) s).msgs = s.msgs ++ l.map m := by
  induction l generalizing s with
  | nil => simp
  | cons a l ih => rw [List.foldl_cons, ih]; simp [State.send]

theorem State.region_foldl_send {α : Type} (m : α → Msg) (l : List α) (s : State) (i : Nat) :
    (l.foldl (fun s a => s.send (m a)) s).region i = s.region i :=
  foldl_keeps (g := fun t : State => t.region i) (by intros; rfl) l s

theorem State.queue_foldl_send {α : Type} (m : α → Msg) (l : List α) (s : State) (i : Nat) :
    (l.foldl (fun s a => s.send (m a)) s).queue i = s.queue i :=
  foldl_keeps (g := fun t : State => t.queue i) (by intros; rfl) l s

/-- Cores that are changed one by one leave the rest of the state as it was. -/
theorem State.foldl_modCore_keeps {γ : Type} (g : State → γ)
    (h : ∀ (s : State) (m : Sparse Core), g { s with cores := m } = g s)
    (f : Core → Core) (l : List Nat) (s : State) : g (l.foldl (fun s c => s.modCore c f) s) = g s :=
  foldl_keeps (fun s _ => h s _) l s

/-! ### The executing packet -/

section Queue

variable (s : State) (q j : Nat) (f : Exec → Exec)

@[simp] theorem State.queue_modExec_self :
    (s.modExec q f).queue q = { s.queue q with exec := (s.queue q).exec.map f } := State.queue_setQueue_self _ _ _
@[simp] theorem State.region_modExec : (s.modExec q f).region j = s.region j := rfl
@[simp] theorem State.msgs_modExec : (s.modExec q f).msgs = s.msgs := rfl

@[simp] theorem State.queue_packetDone_self :
    (s.packetDone q).queue q = { s.queue q with exec := (s.queue q).exec.map fun e => { e with done := true, phase := 3 } } :=
  State.queue_setQueue_self _ _ _
@[simp] theorem State.region_packetDone : (s.packetDone q).region j = s.region j := rfl
@[simp] theorem State.msgs_packetDone : (s.packetDone q).msgs = s.msgs := rfl

end Queue

section Start

variable (s : State) (q : Nat) (p : Packet)

/-- The packet leaves its queue and executes; no region is held for it yet. -/
def State.dequeue : State :=
  let t := s.setQueue q { s.queue q with accepted := (s.queue q).accepted.drop 1, exec := some { pkt := p } }
  { t with fw := { t.fw with rr := Sparse.set 4095 t.fw.rr ((s.queue q).level p) q } }

/-- Region i is held by queue q. -/
def State.holdRegion (i : Nat) : State := s.setRegion i { s.region i with busy := some q }

/-- What the holding of a region does not change, the holding of them all does not. -/
theorem State.start_keeps {γ : Type} (g : State → γ) (h : ∀ (t : State) (i : Nat), g (t.holdRegion q i) = g t) :
    g (s.start q p) = g (s.dequeue q p) := foldl_keeps h _ _

@[simp] theorem State.queue_start_self :
    (s.start q p).queue q = { s.queue q with accepted := (s.queue q).accepted.drop 1, exec := some { pkt := p } } :=
  (s.start_keeps q p (fun t => t.queue q) fun _ _ => rfl).trans (State.queue_setQueue_self _ _ _)

@[simp] theorem State.core_start (c : Nat) : (s.start q p).core c = s.core c :=
  s.start_keeps q p (fun t => t.core c) fun _ _ => rfl

@[simp] theorem State.msgs_start : (s.start q p).msgs = s.msgs := s.start_keeps q p (fun t => t.msgs) fun _ _ => rfl

/-- A region is held by the packet's queue, or as it was; nothing else of it changes. -/
theorem State.region_start (j : Nat) : ∃ b, (s.start q p).region j = { s.region j with busy := b } := by
  have held : ∀ (is : List Nat) (t : State), (∃ b, t.region j = { s.region j with busy := b }) →
      ∃ b, (is.foldl (·.holdRegion q ·) t).region j = { s.region j with busy := b } := by
    intro is
    induction is with
    | nil => exact fun _ h => h
    | cons i is ih =>
      rintro t ⟨b, hb⟩
      refine ih _ ?_
      by_cases hj : j = i
      · subst hj
        exact ⟨some q, by simp [State.holdRegion, hb]⟩
      · exact ⟨b, (State.region_setRegion_ne hj).trans hb⟩
  exact held p.changes _ ⟨(s.region j).busy, rfl⟩

@[simp] theorem State.region_start_state (j : Nat) : ((s.start q p).region j).state = (s.region j).state := by
  obtain ⟨b, h⟩ := s.region_start q p j; rw [h]
@[simp] theorem State.region_start_save (j : Nat) : ((s.start q p).region j).save = (s.region j).save := by
  obtain ⟨b, h⟩ := s.region_start q p j; rw [h]
@[simp] theorem State.region_start_asid (j : Nat) : ((s.start q p).region j).asid = (s.region j).asid := by
  obtain ⟨b, h⟩ := s.region_start q p j; rw [h]
@[simp] theorem State.region_start_llwin (j : Nat) : ((s.start q p).region j).llwin = (s.region j).llwin := by
  obtain ⟨b, h⟩ := s.region_start q p j; rw [h]
@[simp] theorem State.region_start_cjobs (j : Nat) : ((s.start q p).region j).cjobs = (s.region j).cjobs := by
  obtain ⟨b, h⟩ := s.region_start q p j; rw [h]
@[simp] theorem State.region_start_cancels (j : Nat) : ((s.start q p).region j).cancels = (s.region j).cancels := by
  obtain ⟨b, h⟩ := s.region_start q p j; rw [h]
@[simp] theorem State.region_start_cores (j : Nat) : ((s.start q p).region j).cores = (s.region j).cores := by
  obtain ⟨b, h⟩ := s.region_start q p j; rw [h]; rfl

end Start

/-! ### A packet begins, or is rejected (R71, R72, R75) -/

section Command

variable {s : State} {q : Nat} {p : Packet} {form : Packet → Bool} {check : State → Nat → Packet → Option Nat}
  {act : State → Nat → Packet → State}

/-- A packet that no rule rejects begins and acts. -/
theorem command_begun (h : Begun s q p) (hf : form p = true) (hc : check s q p = none) :
    command q form check act s = .next (act (s.start q p) q p) := by
  obtain ⟨⟨he, hb⟩, hcmd, hr, hw⟩ := h
  simp [command, he, hb, hf, Packet.refused, Nat.not_lt.2 hcmd, hr, hc, hw]

/-- The queue that halts on a packet which has not begun. -/
theorem State.reject_eq (s : State) (q : Nat) (p : Packet) (code : Nat) :
    s.reject q p code = s.setQueue q { s.queue q with
      halt := true, err := BitVec.ofNat 64 ((p.w 0 % 2 ^ 16) * 2 ^ 48 + code * 2 ^ 40) } := by
  simp [State.reject, qerr, Packet.seq, bits]

variable {i : Instr} (hi : exec i s = command q form check act s) (h : Begins s q p) (hf : form p = true)
include hi h hf

/-- A packet that a rule of R72 rejects halts its queue with that rule's code. -/
theorem rejects_refused {code : Nat} (hx : p.refused (check s q p) = some code) : Rejects i s q p code := by
  obtain ⟨he, hb⟩ := h
  refine hi.trans ?_
  simp only [command, he, hb, hf, hx, State.reject_eq]
  rfl

/-- A packet with a reserved bit or word set is rejected with CODE 0x01. -/
theorem rejects_reserved (hc : p.cmd ≤ 9) (hr : p.reserved = true) : Rejects i s q p 0x01 :=
  rejects_refused hi h hf (by simp [Packet.refused, Nat.not_lt.2 hc, hr])

/-- A packet that is rejected by its command's own check is rejected with that check's code. -/
theorem rejects_checked {code : Nat} (hc : p.cmd ≤ 9) (hr : p.reserved = false) (hx : check s q p = some code) :
    Rejects i s q p code :=
  rejects_refused hi h hf (by simp [Packet.refused, Nat.not_lt.2 hc, hr, hx])

end Command

/-! ### LOADW (R77) -/

section Load

variable {s t : State} {q : Nat} {p : Packet}

theorem Packet.regionId_load (hc : p.cmd = 1) : p.regionId = bits (p.w 4) 7 0 := if_pos hc

/-- An image that reads and is well formed is loaded, and every core awaited. -/
theorem State.loadAct_ok {w : Weave} (hc : p.cmd = 1) (hx : (s.modExec q fun e => { e with phase := 1 }).readImage q
    (bits (p.w 5) 15 0) p.image (setBits 96 p.clusters) = (t, .ok w)) :
    s.loadAct q p =
      ((((t.freeJobs p.regionId).loadRegion p.regionId p.clusters (bits (p.w 5) 15 0) p.image w q p.seq).clearTrees
        p.regionId).llBeginAll p.regionId).modExec q fun e => { e with phase := 2, await := w.places.map (·.1) } := by
  simp only [State.loadAct, hx, Packet.regionId_load hc]

/-- A malformed image fails the packet. -/
theorem State.loadAct_malformed {c : Nat} (hx : (s.modExec q fun e => { e with phase := 1 }).readImage q
    (bits (p.w 5) 15 0) p.image (setBits 96 p.clusters) = (t, .error (.malformed c))) :
    s.loadAct q p = t.failPacket q 0x05 1 c 0 := by
  simp only [State.loadAct, hx]
  rfl

/-- A loaded region forgets its cancelled jobs, drops what its gates hold and awaits every core. -/
theorem State.unloadAct_loaded (hc : p.cmd = 1) (hs : (s.region p.regionId).state = 1) :
    s.unloadAct q p =
      ((s.setRegion p.regionId { s.region p.regionId with cjobs := [] }).dropIngress p.regionId).modExec q fun e =>
        { e with phase := 2, await := (s.region p.regionId).cores } := by
  rw [Packet.regionId_load hc] at *
  simp [State.unloadAct, hs]

/-- A swapped-out region is discarded, once its record says so. -/
theorem State.unloadAct_swapped {sv : Save} {done : List Byte} (hc : p.cmd = 1) (hs : (s.region p.regionId).state = 2)
    (hv : (s.region p.regionId).save = some sv)
    (hx : (s.modExec q fun e => { e with phase := 1 }).packetStore q (s.region p.regionId).asid (sv.va + 120)
      (natLE 8 (sv.commitWord true)) = (t, .ok done)) :
    s.unloadAct q p = (t.discardRegion p.regionId (s.region p.regionId) sv).packetDone q := by
  rw [Packet.regionId_load hc] at *
  simp only [State.unloadAct, hs, hv, if_true, hx]

theorem State.region_discardRegion_self (s : State) (i : Nat) (r : Region) (v : Save) :
    (s.discardRegion i r v).region i = { llwin := r.llwin } := State.region_setRegion_self _ _ _

end Load

/-! ### SWAP (R79, R80) -/

section Swap

/-- A field of a SWAP is out of its range. -/
def Packet.swapRange (p : Packet) : Prop :=
  (p.w 1 = 0 ∧ p.w 6 = 0) ∨ (p.w 1 ≠ 0 ∧ p.w 6 ≠ 0) ∨
    p.w 4 % 4096 ≠ 0 ∨ p.w 5 % 4096 ≠ 0 ∨ p.w 6 % 4096 ≠ 0 ∨ (95 < p.victim ∧ p.victim ≠ 0xFF) ∨ 95 < p.incoming ∨
    (p.victim = 0xFF ∧ (p.w 1 ≠ 0 ∨ p.w 4 ≠ 0 ∨ p.w 5 ≠ 0))

/-- A region of a SWAP is not in the state that it needs. -/
def State.swapWrong (s : State) (p : Packet) : Prop :=
  (p.victim ≠ 0xFF ∧ s.loaded p.victim = false) ∨ (p.w 1 ≠ 0 ∧ (s.region p.incoming).state ≠ 0) ∨
    (p.w 1 = 0 ∧ ((∀ v, (s.region p.incoming).save = some v →
        ¬ (v.committed = true ∧ v.va = p.w 6 ∧ (s.region p.incoming).state = 2)) ∨
      (p.victim ≠ 0xFF ∧ (s.region p.incoming).clusters ≠ (s.region p.victim).clusters) ∨
      (p.victim = 0xFF ∧ s.taken (s.region p.incoming).clusters = true)))

variable {s t : State} {q : Nat} {p : Packet}

/-- A restore finds its save committed at the VA named, and the victim's clusters, or free ones, to go to. -/
theorem State.not_swapWrong_restore {sv : Save} (h1 : p.w 1 = 0) (hs : (s.region p.incoming).state = 2)
    (hsv : (s.region p.incoming).save = some sv) (hcm : sv.committed = true) (hva : sv.va = p.w 6)
    (hv : s.loaded p.victim = true ∧ (s.region p.incoming).clusters = (s.region p.victim).clusters ∨
      p.victim = 0xFF ∧ s.taken (s.region p.incoming).clusters = false) : ¬ s.swapWrong p := by
  have hnone : s.loaded 0xFF = false := rfl
  unfold State.swapWrong
  grind

theorem swapCheck_range (h : p.swapRange) : swapCheck s q p = some 0x03 := by
  refine if_pos ?_
  unfold Packet.swapRange at h
  by_cases h1 : p.w 1 = 0 <;> by_cases h6 : p.w 6 = 0 <;> simp_all

/-- What a SWAP within its ranges is checked for. -/
theorem swapCheck_inRange (h : ¬ p.swapRange) :
    swapCheck s q p =
      if p.victim ≠ 0xFF ∧ !s.loaded p.victim then some 0x04
      else if p.w 1 ≠ 0 then (if (s.region p.incoming).state ≠ 0 then some 0x04 else none)
      else match (s.region p.incoming).save with
        | none => some 0x04
        | some x =>
          if !x.committed || x.va != p.w 6 || (s.region p.incoming).state != 2 then some 0x04
          else if p.victim ≠ 0xFF then
            (if (s.region p.incoming).clusters = (s.region p.victim).clusters then none else some 0x04)
          else if s.taken (s.region p.incoming).clusters then some 0x04
          else if s.fw.fenced &&& (s.region p.incoming).clusters ≠ 0 then some 0x0A
          else none := by
  refine (if_neg fun hr => h ?_).trans rfl
  unfold Packet.swapRange
  by_cases h1 : p.w 1 = 0 <;> by_cases h6 : p.w 6 = 0 <;> simp_all

theorem swapCheck_wrong (h : ¬ p.swapRange) (hw : s.swapWrong p) : swapCheck s q p = some 0x04 := by
  rw [swapCheck_inRange h]
  unfold State.swapWrong at hw
  by_cases h1 : p.w 1 = 0
  · cases hsave : (s.region p.incoming).save with
    | none => simp_all
    | some x => grind
  · grind

/-- What is left to check of a SWAP without a victim is the fences. -/
theorem swapCheck_fits (h : ¬ p.swapRange) (hw : ¬ s.swapWrong p) :
    swapCheck s q p =
      if p.victim = 0xFF ∧ s.fw.fenced &&& (s.region p.incoming).clusters ≠ 0 then some 0x0A else none := by
  rw [swapCheck_inRange h]
  unfold State.swapWrong at hw
  unfold Packet.swapRange at h
  by_cases h1 : p.w 1 = 0
  · cases hsave : (s.region p.incoming).save with
    | none => simp_all
    | some x => grind
  · grind

/-- A SWAP of a fresh image with room for the save evicts the victim. -/
theorem State.swapAct_ok {w : Weave} (hroom : s.saveShort p = false)
    (hx : (s.modExec q fun e => { e with phase := 1 }).readImage q (bits (p.w 3) 15 0) p.image
      (s.region p.victim).clusterList = (t, .ok w)) :
    s.swapAct q p = (t.setRegion p.incoming {
      state := 1, clusters := (s.region p.victim).clusters, asid := bits (p.w 3) 15 0, image := p.image, llwin := 2 ^ 20, weave := w
      roots := w.roots.map fun _ => 0, busy := some q }).swapBegin q p (s.region p.victim).cores := by
  simp only [State.swapAct, hroom, hx]
  rfl

/-- A SWAP that restores begins once its record reads as that of a committed save. -/
theorem State.restoreAct_ok {bs : List Byte}
    (hx : (s.modExec q fun e => { e with phase := 1 }).packetRead q (s.region p.incoming).asid (p.w 6) 128 = (t, .ok bs)) :
    s.restoreAct q p =
      if !headerMatches p.incoming bs then t.failPacket q 0x04 0 0 0
      else if t.saveShort p then t.failPacket q 0x07 0 0 0x14
      else t.swapBegin q p (s.region p.incoming).cores := by
  simp only [State.restoreAct, hx]

end Swap

/-! ### CANCEL (R82) -/

section Cancel

variable {s : State} {q i job : Nat} {p : Packet}

/-- The job can join the region's set, or is in it. -/
theorem Region.cancelFull_eq_false {r : Region} : r.cancelFull job = false ↔ job ∈ r.cjobs ∨ r.cjobs.length < 16 := by
  by_cases h : job ∈ r.cjobs <;> simp [Region.cancelFull, h]

theorem cancelCheck_none (hj : cancelJob p ≠ 0) (hi : p.regionId ≤ 95) (hs : (s.region p.regionId).state ≠ 0)
    (hf : (p.w 1).testBit 32 = true ∨ (s.region p.regionId).cancelFull (cancelJob p) = false) : cancelCheck s q p = none := by
  simp only [cancelCheck]
  grind

section StartCancel

variable {ref : Option Ref} {queue : Option Nat} (hf : (s.region i).cancelFull job = false)
include hf

/-- A cancel that begins: the job joins the region's set, and every core is told. -/
theorem State.startCancel_eq : (s.startCancel i job ref queue).1 =
    (s.region i).cores.foldl (fun s c => s.send
      { src := .frontEnd, dst := .core c, chan := .signal, body := .cancel i job, region := some i })
      (s.setRegion i { s.region i with
        cjobs := if (s.region i).cjobs.contains job then (s.region i).cjobs else (s.region i).cjobs ++ [job]
        cancels := (s.region i).cancels ++ [{ job := job, await := (s.region i).cores, ref := ref, queue := queue }] }) := by
  simp only [State.startCancel, hf]
  rfl

theorem State.msgs_startCancel : (s.startCancel i job ref queue).1.msgs = s.msgs ++ (s.region i).cores.map fun c =>
    { src := .frontEnd, dst := .core c, chan := .signal, body := .cancel i job, region := some i } := by
  rw [State.startCancel_eq hf, State.msgs_foldl_send]
  rfl

theorem State.region_startCancel_self : (s.startCancel i job ref queue).1.region i = { s.region i with
    cjobs := if (s.region i).cjobs.contains job then (s.region i).cjobs else (s.region i).cjobs ++ [job]
    cancels := (s.region i).cancels ++ [{ job := job, await := (s.region i).cores, ref := ref, queue := queue }] } := by
  rw [State.startCancel_eq hf, State.region_foldl_send, State.region_setRegion_self]

theorem State.queue_startCancel (j : Nat) : (s.startCancel i job ref queue).1.queue j = s.queue j := by
  rw [State.startCancel_eq hf, State.queue_foldl_send]
  rfl

end StartCancel

/-- A job that joins a set is in it. -/
theorem mem_joined (job : Nat) (js : List Nat) : job ∈ if js.contains job then js else js ++ [job] := by
  split <;> simp_all

/-- The region, loaded or saved, without a job among its cancelled ones (R82). -/
def Region.allow (r : Region) (job : Nat) : Region :=
  { r with
    cjobs := r.cjobs.filter (· != job)
    save := r.save.map fun v => { v with cores := v.cores.map fun e => (e.1, e.2.modFe (·.allow job)) } }

/-- Cores that allow a job refuse it no more. -/
theorem State.allow_of_mem {c : Nat} (cs : List Nat) (hc : c ∈ cs) (s : State) :
    job ∉ ((cs.foldl (fun s c => s.modCore c (·.modFe (·.allow job))) s).core c).fe.cancelled := by
  have kept : ∀ (cs : List Nat) (t : State), job ∉ (t.core c).fe.cancelled →
      job ∉ ((cs.foldl (fun s c => s.modCore c (·.modFe (·.allow job))) t).core c).fe.cancelled := by
    intro cs
    induction cs with
    | nil => exact fun _ h => h
    | cons d cs ih =>
      intro t h
      refine ih _ ?_
      by_cases hd : c = d
      · subst hd
        simp [FrameEng.allow]
      · rwa [State.core_modCore_ne hd]
  induction cs generalizing s with
  | nil => cases hc
  | cons d cs ih =>
    by_cases hd : c = d
    · subst hd
      exact kept cs _ (by simp [FrameEng.allow])
    · exact ih ((List.mem_cons.1 hc).resolve_left hd) _

end Cancel

/-! ### The statement -/

section Effects

variable {s : State} {q : Nat} {p : Packet} (h : Begun s q p)
include h

theorem execLoadw_begun (hc : p.cmd = 1) (him : p.image ≠ 0) (hi : p.regionId ≤ 95) (hcl : p.clusters ≠ 0)
    (hb : bits (p.w 3) 63 32 = 0) (hs : (s.region p.regionId).state = 0) (ht : s.taken p.clusters = false)
    (hf : s.fw.fenced &&& p.clusters = 0) : execLoadw q s = .next ((s.start q p).loadAct q p) := by
  refine command_begun h (by simp [hc, him]) ?_
  rw [Packet.regionId_load hc] at hi hs
  simp [loadCheck, Nat.not_lt.2 hi, hcl, hb, hs, ht, hf]

theorem execLoadwUnload_begun (hc : p.cmd = 1) (him : p.image = 0) (hi : p.regionId ≤ 95)
    (hs : (s.region p.regionId).state ≠ 0) (hg : (s.region p.regionId).state = 1 → (s.region p.regionId).gates = false) :
    execLoadwUnload q s = .next ((s.start q p).unloadAct q p) := by
  refine command_begun h (by simp [hc, him]) ?_
  rw [Packet.regionId_load hc] at *
  simp [Nat.not_lt.2 hi, hs]
  exact hg

theorem execSwap_begun (hc : p.cmd = 6) (h1 : p.w 1 ≠ 0) (hr : ¬ p.swapRange) (hw : ¬ s.swapWrong p) :
    execSwap q s = .next ((s.start q p).swapAct q p) := by
  refine command_begun h (by simp [hc, h1, Packet.restores]) ((swapCheck_fits hr hw).trans (if_neg ?_))
  rintro ⟨hv, -⟩
  exact hr (by simp [Packet.swapRange, hv, h1])

theorem execSwapRestore_begun (hc : p.cmd = 6) (h1 : p.w 1 = 0) (h6 : p.w 6 ≠ 0) (hr : ¬ p.swapRange) (hw : ¬ s.swapWrong p)
    (hf : p.victim = 0xFF → s.fw.fenced &&& (s.region p.incoming).clusters = 0) :
    execSwapRestore q s = .next ((s.start q p).restoreAct q p) :=
  command_begun h (by simp [hc, h1, h6, Packet.restores]) ((swapCheck_fits hr hw).trans (if_neg fun ⟨hv, hne⟩ => hne (hf hv)))

/-- A CANCEL of a loaded region begins the cancel there. -/
theorem execCancel_loaded (hc : p.cmd = 7) (hb : (p.w 1).testBit 32 = false) (hk : cancelCheck s q p = none)
    (hs : (s.region p.regionId).state = 1) (hf : (s.region p.regionId).cancelFull (cancelJob p) = false) :
    execCancel q s = .next
      (((s.start q p).modExec q fun e => { e with phase := 2 }).startCancel p.regionId (cancelJob p) none (some q)).1 := by
  refine (command_begun h (by simp [hc, hb]) hk).trans ?_
  simp [Region.cancelFull_eq_false.1 hf, Region.cancelFull_eq_false.2, hs]

/-- A CANCEL of a swapped-out region is recorded in its save. -/
theorem execCancel_swapped {v : Save} (hc : p.cmd = 7) (hb : (p.w 1).testBit 32 = false) (hk : cancelCheck s q p = none)
    (hs : (s.region p.regionId).state = 2) (hv : (s.region p.regionId).save = some v)
    (hf : (s.region p.regionId).cancelFull (cancelJob p) = false) :
    execCancel q s = .next
      (((s.start q p).setRegion p.regionId { (s.start q p).region p.regionId with
          cjobs := if (s.region p.regionId).cjobs.contains (cancelJob p) then (s.region p.regionId).cjobs
            else (s.region p.regionId).cjobs ++ [cancelJob p]
          save := some { v with cancels := v.cancels ++ (s.region p.regionId).cores.map fun c => (c, cancelJob p) } }).packetDone
        q) := by
  refine (command_begun h (by simp [hc, hb]) hk).trans ?_
  simp [Region.cancelFull_eq_false.1 hf, Region.cancelFull_eq_false.2, hs, hv]

/-- A CANCEL with CLR takes the job from the region's set and from the cores that run the region's weave. -/
theorem execCancelClr_begun (hc : p.cmd = 7) (hb : (p.w 1).testBit 32 = true) (hk : cancelCheck s q p = none) :
    execCancelClr q s = .next
      ((((s.region p.regionId).cores.filter fun c => s.regionOf c = some p.regionId).foldl
        (fun s c => s.modCore c (·.modFe (·.allow (cancelJob p))))
        ((s.start q p).setRegion p.regionId (((s.start q p).region p.regionId).allow (cancelJob p)))).packetDone q) := by
  refine (command_begun h (by simp [hc, hb]) hk).trans ?_
  simp only [State.region_start_cores, State.regionOf, State.core_setRegion, State.core_start]
  rfl

end Effects

theorem State.loaded_iff {s : State} {i : Nat} : s.loaded i = true ↔ i < 96 ∧ (s.region i).state = 1 := by
  simp [State.loaded]

/-- Settles O49, command by command: a packet that no rule rejects begins, and what it then does is its action after the start
(`command_begun`); a packet that breaks a rule is rejected with the code of the command's check. -/
theorem regionCommandsTakeEffect : Obligations.RegionCommandsTakeEffect := by
  refine ⟨fun s q p h => ⟨?load, ?unload, ?discard, ?swap, ?restore, ?cancel, ?record, ?clear⟩,
    fun s q p h => ⟨fun hr => ⟨?load1, ?swap1, ?cancel1⟩, fun hr => ⟨?load2, ?unload2, ?swap2, ?cancel2⟩⟩⟩
  case load =>
    intro hc him hi hcl hb hs ht hf x
    have hexec := execLoadw_begun h hc him hi hcl hb hs ht hf
    exact ⟨fun w hw => hexec.trans (congrArg _ (State.loadAct_ok hc (Prod.ext rfl hw))),
      fun c hm => hexec.trans (congrArg _ (State.loadAct_malformed (Prod.ext rfl hm)))⟩
  case unload =>
    intro hc him hi hs hg
    refine (execLoadwUnload_begun h hc him hi (by simp [hs]) fun _ => hg).trans (congrArg _ ?_)
    rw [State.unloadAct_loaded hc (by simp [hs]), State.region_start_cores]
  case discard =>
    intro hc him hi hs sv hv x done hx
    refine ⟨(execLoadwUnload_begun h hc him hi (by simp [hs]) (by simp [hs])).trans (congrArg _ ?_), ?_⟩
    · exact State.unloadAct_swapped hc (by simp [hs]) (by simp [hv]) (Prod.ext (by simp; rfl) (by simpa using hx))
    · simp [State.region_discardRegion_self]
  case swap =>
    intro hc h1 h6 h4 h5 hl hi hs hroom x w hw
    obtain ⟨hv, -⟩ := State.loaded_iff.1 hl
    have hrange : ¬ p.swapRange := by unfold Packet.swapRange; omega
    have hright : ¬ s.swapWrong p := by simp [State.swapWrong, hl, h1, hs]
    exact (execSwap_begun h hc h1 hrange hright).trans (congrArg _ (State.swapAct_ok hroom (Prod.ext rfl hw)))
  case restore =>
    intro hc h1 h6 h6a h4 h5 hi hs hsave hvic x bs hx
    have hrange : ¬ p.swapRange := by
      have := hvic.imp_left fun hl => (State.loaded_iff.1 hl.1).1
      unfold Packet.swapRange
      omega
    obtain ⟨sv, hsv, hcommitted, hva⟩ := hsave
    have hright : ¬ s.swapWrong p := State.not_swapWrong_restore h1 hs hsv hcommitted hva
      (hvic.imp_right fun ⟨hv, _, _, ht, _⟩ => ⟨hv, ht⟩)
    have hfence : p.victim = 0xFF → s.fw.fenced &&& (s.region p.incoming).clusters = 0 := by
      intro hv
      rcases hvic with ⟨hl, -⟩ | ⟨-, -, -, -, hf⟩
      · exact absurd (State.loaded_iff.1 hl).1 (by omega)
      · exact hf
    have hexec := (execSwapRestore_begun h hc h1 h6 hrange hright hfence).trans
      (congrArg _ (State.restoreAct_ok (Prod.ext rfl hx)))
    refine ⟨fun hm hroom => hexec.trans ?_, fun hm => hexec.trans ?_⟩
    · rw [hm, hroom]; rfl
    · rw [hm]; rfl
  case cancel =>
    intro hc hi hj hb hs hroom
    have hfull := Region.cancelFull_eq_false.2 hroom
    have hk := cancelCheck_none (s := s) (q := q) (p := p) hj hi (by simp [hs]) (.inr hfull)
    have hfull' : (((s.start q p).modExec q fun e => { e with phase := 2 }).region p.regionId).cancelFull (cancelJob p) =
        false := Region.cancelFull_eq_false.2 (by simpa [cancelJob] using hroom)
    refine ⟨_, execCancel_loaded h hc hb hk hs hfull, ?_, ⟨{ pkt := p, phase := 2 }, ?_, rfl, rfl⟩, ?_, ?_⟩
    · rw [State.region_startCancel_self hfull']
      exact mem_joined _ _
    · simp [State.queue_startCancel hfull']
    · rw [State.msgs_startCancel hfull']
      simp [cancelJob]
    · rw [State.region_startCancel_self hfull']
      simp [cancelJob]
  case record =>
    intro hc hi hj hb hs hroom sv hv
    have hfull := Region.cancelFull_eq_false.2 hroom
    have hk := cancelCheck_none (s := s) (q := q) (p := p) hj hi (by simp [hs]) (.inr hfull)
    refine ⟨_, execCancel_swapped h hc hb hk hs hv hfull, ?_, ⟨{ pkt := p, done := true, phase := 3 }, ?_, rfl, rfl⟩, ?_, ?_⟩
    · rw [State.region_packetDone, State.region_setRegion_self]
      exact mem_joined _ _
    · simp
    · simp
    · simp [cancelJob]
  case clear =>
    intro hc hi hj hb hs
    have hk := cancelCheck_none (s := s) (q := q) (p := p) hj hi hs (.inl hb)
    refine ⟨_, execCancelClr_begun h hc hb hk, ?_, ⟨{ pkt := p, done := true, phase := 3 }, ?_, rfl, rfl⟩, ?_, ?_⟩
    · rw [State.region_packetDone, State.foldl_modCore_keeps (fun t => t.region p.regionId) fun _ _ => rfl]
      simp [Region.allow, cancelJob]
    · rw [State.queue_packetDone_self, State.foldl_modCore_keeps (fun t => t.queue q) fun _ _ => rfl]
      simp
    · rw [State.msgs_packetDone, State.foldl_modCore_keeps (fun t => t.msgs) fun _ _ => rfl]
      simp
    · intro c hcore hreg
      exact State.allow_of_mem _ (List.mem_filter.2 ⟨hcore, by simpa using hreg⟩) _
  case load1 =>
    intro hc
    split
    · exact rejects_reserved (i := .loadwUnload q) (rfl : execLoadwUnload q s = _) h (by simp [*]) (by omega) hr
    · exact rejects_reserved (i := .loadw q) (rfl : execLoadw q s = _) h (by simp [*]) (by omega) hr
  case swap1 =>
    intro hc
    split
    · exact rejects_reserved (i := .swapRestore q) (rfl : execSwapRestore q s = _) h (by simp [*]) (by omega) hr
    · exact rejects_reserved (i := .swap q) (rfl : execSwap q s = _) h (by simp [*]) (by omega) hr
  case cancel1 =>
    intro hc
    split
    · exact rejects_reserved (i := .cancelClr q) (rfl : execCancelClr q s = _) h (by simp [*]) (by omega) hr
    · exact rejects_reserved (i := .cancel q) (rfl : execCancel q s = _) h (by simp [*]) (by omega) hr
  case load2 =>
    intro hc him
    have hreject : ∀ code, loadCheck s q p = some code →
        Rejects (if p.image = 0 then .loadwUnload q else .loadw q) s q p code := by
      intro code hk
      rw [if_neg him]
      exact rejects_checked (i := .loadw q) (rfl : execLoadw q s = _) h (by simp [hc, him]) (by omega) hr hk
    rw [Packet.regionId_load hc]
    exact ⟨fun hrange => hreject _ (if_pos hrange),
      fun hrange hused => hreject _ ((if_neg hrange).trans (if_pos hused)),
      fun hrange hused hf => hreject _ ((if_neg hrange).trans ((if_neg hused).trans (if_pos hf)))⟩
  case unload2 =>
    intro hc him hbad
    rw [if_pos him]
    rw [Packet.regionId_load hc] at hbad
    exact rejects_checked (i := .loadwUnload q) (rfl : execLoadwUnload q s = _) h (by simp [hc, him]) (by omega) hr (if_pos hbad)
  case swap2 =>
    intro hc
    have hreject : ∀ code, swapCheck s q p = some code →
        Rejects (if p.restores then .swapRestore q else .swap q) s q p code := by
      intro code hk
      split
      · exact rejects_checked (i := .swapRestore q) (rfl : execSwapRestore q s = _) h (by simp [*]) (by omega) hr hk
      · exact rejects_checked (i := .swap q) (rfl : execSwap q s = _) h (by simp [*]) (by omega) hr hk
    exact ⟨fun hrange => hreject _ (swapCheck_range hrange), fun hrange hw => hreject _ (swapCheck_wrong hrange hw),
      fun hrange hw hv hf => hreject _ ((swapCheck_fits hrange hw).trans (if_pos ⟨hv, hf⟩))⟩
  case cancel2 =>
    intro hc
    have hreject : ∀ code, cancelCheck s q p = some code →
        Rejects (if (p.w 1).testBit 32 then .cancelClr q else .cancel q) s q p code := by
      intro code hk
      split
      · exact rejects_checked (i := .cancelClr q) (rfl : execCancelClr q s = _) h (by simp [*]) (by omega) hr hk
      · exact rejects_checked (i := .cancel q) (rfl : execCancel q s = _) h (by simp [*]) (by omega) hr hk
    refine ⟨fun hrange => hreject _ (if_pos hrange), fun hrange hs => hreject _ ((if_neg hrange).trans (if_pos hs)),
      fun hrange hs hb hj hlen => hreject _ ((if_neg hrange).trans ((if_neg hs).trans (if_pos ?_)))⟩
    simpa [hb, Region.cancelFull, hlen, cancelJob] using hj

end Sys2Proof.Machine
end

section
/-! SUPPORT. A user form behind its guards, the traps of a meaning, and what a row's limits say of an instruction's fields (R101,
R102, R117 to R123). -/

namespace Sys2Proof.Machine

/-- A user form whose guards hold does what stands behind its guards (R123). -/
theorem run_running {i : Instr} {s : State} (hr : Runs i s) (body : State → Out) : run false (fieldsOf i) s body = body s :=
  run_runs (by simp) hr.1 hr.2

theorem not_not_eq_true {b : Bool} (h : b = true) : ¬ (!b) = true := by simp [h]

theorem TrapsWith.of_exec {i : Instr} {s : State} {cause val : Nat} (h : exec i s = trapOut s cause val) :
    TrapsWith i s cause val :=
  ⟨_, h, trapTaken_trap s cause val⟩

theorem vB_eq_opB (i : Instr) (s : State) : (fieldsOf i).vB s = (opB i s).toNat := by
  unfold Ctx.vB opB
  cases (fieldsOf i).lit <;> rfl

theorem bits_zero_eq_mod (x h : Nat) : bits x h 0 = x % 2 ^ (h + 1) := rfl

theorem bits_eq_div {x h l : Nat} (hl : l ≤ h) (hx : x < 2 ^ (h + 1)) : bits x h l = x / 2 ^ l := by
  unfold bits
  rw [Nat.shiftRight_eq_div_pow, Nat.mod_eq_of_lt]
  rw [Nat.div_lt_iff_lt_mul (by positivity), ← pow_add]
  rwa [show h + 1 - l + l = h + 1 by omega]

/-- A number of 32 bits that has none of the bits from n on is below 2^n. -/
theorem lt_two_pow_of_and_eq_zero {x n : Nat} (hx : x < 2 ^ 32) (h : x &&& (immAny ^^^ (2 ^ n - 1)) = 0) : x < 2 ^ n := by
  refine Nat.lt_pow_two_of_testBit _ fun j hj => ?_
  by_cases h32 : j < 32
  · have hall : immAny.testBit j = true := (Nat.testBit_two_pow_sub_one 32 j).trans (decide_eq_true h32)
    have hnone : (2 ^ n - 1).testBit j = false := (Nat.testBit_two_pow_sub_one n j).trans (decide_eq_false (by omega))
    simpa [Nat.testBit_and, Nat.testBit_xor, hall, hnone] using congrArg (·.testBit j) h
  · exact Nat.testBit_lt_two_pow (hx.trans_le (Nat.pow_le_pow_right (by norm_num) (by omega)))

/-- A well-formed instruction's IMM32 has only bits that its row lists. -/
theorem imm_and_eq_zero {i : Instr} {op : Nat} {r : Row} (hw : i.wf = true) (hm : majorOf i = some op)
    (hr : rowOf true op = some r) : (fieldsOf i).imm &&& (immAny ^^^ r.imm) = 0 := by
  unfold Instr.wf at hw
  unfold majorOf at hm
  unfold fieldsOf
  cases hi : rawOf i with
  | nop => exact Nat.zero_and _
  | base op' w => exact Nat.zero_and _
  | event => exact Nat.zero_and _
  | ext op' o =>
    simp only [hi, Option.some.injEq] at hm hw
    subst hm
    obtain ⟨⟨⟨-, hx⟩, -⟩, -⟩ : ((r.okW0 o.w = true ∧ r.okX o.x o.imm.toNat = true) ∧ extraExt op' o = true) ∧ _ := by
      simpa only [checkExt, hr, Bool.and_eq_true] using hw
    have himm : o.imm.toNat &&& (immAny ^^^ r.imm) = 0 := by simpa [Row.okX] using (by simpa [Row.okX] using hx : _ ∧ _).2
    rcases o with ⟨_ | _ | _, _, _, _, _⟩
    · exact himm
    · exact Nat.zero_and _
    · exact himm

theorem imm_lt_two_pow_32 (i : Instr) : (fieldsOf i).imm < 2 ^ 32 := by
  unfold fieldsOf
  cases rawOf i with
  | ext op o =>
    rcases o with ⟨_ | _ | _, _, _, imm, _⟩
    · exact imm.isLt
    · exact Nat.two_pow_pos 32
    · exact imm.isLt
  | _ => exact Nat.two_pow_pos 32

/-- A well-formed instruction's IMM32 lies below the least bit that its row lists none from. -/
theorem imm_lt {i : Instr} {op n : Nat} {r : Row} (hw : i.wf = true) (hm : majorOf i = some op)
    (hr : rowOf true op = some r) (hn : r.imm = 2 ^ n - 1) : (fieldsOf i).imm < 2 ^ n :=
  lt_two_pow_of_and_eq_zero (imm_lt_two_pow_32 i) (hn ▸ imm_and_eq_zero hw hm hr)

/-- A well-formed instruction's M is one that its row lists. -/
theorem m_listed {i : Instr} {op : Nat} {r : Row} (hw : i.wf = true) (hm : majorOf i = some op)
    (h0 : op ≠ 0) (hr : ∀ e, rowOf e op = some r) : r.m.testBit (fieldsOf i).m = true := by
  unfold Instr.wf at hw
  unfold majorOf at hm
  unfold fieldsOf
  cases hi : rawOf i with
  | nop => simp [hi, h0.symm] at hm
  | event => simp [hi] at hm
  | base op' w =>
    simp only [hi, Option.some.injEq] at hm hw
    subst hm
    simp only [checkBase, hr, Row.okW0, Bool.and_eq_true] at hw
    exact hw.1.2.1.1.1.2
  | ext op' o =>
    simp only [hi, Option.some.injEq] at hm hw
    subst hm
    simp only [checkExt, hr, Row.okW0, Bool.and_eq_true] at hw
    have := hw.1.1.1.1.1.1.2
    rcases o with ⟨_ | _ | _, _, _, _, _⟩ <;> exact this

end Sys2Proof.Machine
end

section
/-! SUPPORT and PROOFS. The instructions that ask another unit, behind their guards (R143, R144, R149, R153, R156, R157, R160, R161), and
O26. -/

namespace Sys2Proof.Machine

@[simp] theorem State.regionOf_emit (s : State) (a b n c : Nat) : (s.emit a b n).regionOf c = s.regionOf c := by
  unfold State.regionOf State.emit
  by_cases h : c = a
  · subst h; simp
  · rw [State.core_modCore_ne h]

/-- A message sent after an EMIT is the one that the core would have sent before it. -/
theorem State.sendMsg_emit (s : State) (a b n d : Nat) (ch : Chan) (x : Body) :
    (s.emit a b n).sendMsg d ch x = (s.emit a b n).send (toCore s d ch x) := by
  simp [State.sendMsg, toCore]

/-- The answer of an instruction that counts one EMIT towards core d, sends the message and moves past itself. -/
def sendOut (i : Instr) (s : State) (d : Nat) (m : Msg) : Out := .next (((s.emit s.cur d 1).send m).advance i.len)

section Requests
variable {i : Instr} {s : State}

/-- FORK behind its guards (R143). -/
theorem exec_fork (hw : i.wf = true) (hm : majorOf i = some 0x02) (hr : Runs i s) : exec i s =
    if !s.coreOk (opA i s).toNat then trapOut s 0x06 (opA i s).toNat
    else if s.tplcnt ≤ (fieldsOf i).imm % 256 then trapOut s 0x02 ((fieldsOf i).imm % 256)
    else withRef (fieldsOf i) s fun r => sendOut i s (handleCore r.handle)
      (toCore s (opA i s).toNat .request (.fork r ((fieldsOf i).imm / 256) ((fieldsOf i).imm % 256) s.curJob)) := by
  have hword : bits (fieldsOf i).imm 12 8 = (fieldsOf i).imm / 256 :=
    bits_eq_div (by norm_num) (imm_lt (n := 13) hw hm rfl rfl)
  rw [show exec i s = opFork (fieldsOf i) s from exec_core hm s, opFork, run_running hr]
  simp only [issued, State.sendMsg_emit, hword, ← len_eq (isCore_of_major hm)]
  rfl

/-- FREE behind its guards: of the running frame, it marks it; of another, it tells its core (R144). -/
theorem exec_free (hm : majorOf i = some 0x03) (hr : Runs i s) : exec i s =
    let h := (opA i s).toNat % 2 ^ 32
    if !s.handleOk s.cur h then trapOut s 0x06 h
    else if s.me.pl.live && h == s.me.pl.handle then
      .next ((s.modMe fun c => c.modFrame c.pl.fix fun e => { e with freeP := true }).advance i.len)
    else sendOut i s (handleCore h) (toCore s (handleCore h) .signal (.free h)) := by
  rw [show exec i s = opFree (fieldsOf i) s from exec_core hm s, opFree, run_running hr]
  simp only [State.sendMsg_emit, done, ← len_eq (isCore_of_major hm)]
  rfl

/-- ROAM behind its guards (R24, R149). -/
theorem exec_roam (hm : majorOf i = some 0x08) (hr : Runs i s) : exec i s =
    let t := (opB i s).toNat
    let d := s.roamTarget (opA i s).toNat
    if s.tlcnt ≤ t ∨ s.tplcnt = 0 then trapOut s 0x02 t
    else .next (((s.emit s.cur d 1).send (toCore s d .request (.roam
      ((setBits 29 (fieldsOf i).imm).map fun j => (j + 1, (s.me.readG (j + 1)).toNat)) t s.curJob))).endThreadlet
        s.cur ((fieldsOf i).m == 1)) := by
  rw [show exec i s = opRoam (fieldsOf i) s from exec_core hm s, opRoam, run_running hr]
  simp only [State.sendMsg_emit, vB_eq_opB]
  rfl

/-- BAR of a bound barrier behind its guards (R153). -/
theorem exec_bar_bound {b : BarEnt} (hm : majorOf i = some 0x0A) (hr : Runs i s)
    (hb : Sparse.get none s.me.net.bars (fieldsOf i).barIx = some b) : exec i s =
    .next (((s.emit s.cur (handleCore b.handle) 1).sendArrival (.core s.cur)
      { handle := b.handle, slot := b.slot, n := 1, src := s.cur, chan := .signal, absorb := 1, origin := s.cur,
        region := s.regionOf s.cur }).advance i.len) := by
  rw [show exec i s = opBar (fieldsOf i) s from exec_core hm s, opBar, run_running hr, hb, len_eq (isCore_of_major hm)]

/-- BAR of an unbound barrier behind its guards (R153). -/
theorem exec_bar_unbound (hm : majorOf i = some 0x0A) (hr : Runs i s)
    (hb : Sparse.get none s.me.net.bars (fieldsOf i).barIx = none) : exec i s = trapOut s 0x06 0 := by
  rw [show exec i s = opBar (fieldsOf i) s from exec_core hm s, opBar, run_running hr, hb]

/-- DQSTEAL behind its guards (R156). -/
theorem exec_dqsteal (hw : i.wf = true) (hm : majorOf i = some 0x0E) (hr : Runs i s) : exec i s =
    if !s.coreOk (opA i s).toNat then trapOut s 0x06 (opA i s).toNat
    else withRef (fieldsOf i) s fun r => sendOut i s (handleCore r.handle)
      (toCore s (opA i s).toNat .request (.steal (fieldsOf i).imm r)) := by
  have hword : bits (fieldsOf i).imm 4 0 = (fieldsOf i).imm := Nat.mod_eq_of_lt (imm_lt (n := 5) hw hm rfl rfl)
  rw [show exec i s = opDqsteal (fieldsOf i) s from exec_core hm s, opDqsteal, run_running hr]
  simp only [issued, State.sendMsg_emit, hword, ← len_eq (isCore_of_major hm)]
  rfl

/-- WDQ behind its guards (R157). -/
theorem exec_wdq (hm : majorOf i = some 0x0F) (hr : Runs i s) : exec i s =
    checkLocal s (opD i s).toNat 16 16 (withRef (fieldsOf i) s fun r => sendOut i s (handleCore r.handle)
      { src := .core s.cur, dst := .beacon (dieOf s.cur), chan := .request, region := s.regionOf s.cur,
        body := .beacon { core := s.cur, merge := (fieldsOf i).m == 1, query := (opA i s).toNat, dst := (opD i s).toNat,
                          asid := s.me.net.asid, epc := s.me.pl.pc, handle := s.me.pl.handle, ref := r } }) := by
  rw [show exec i s = opWdq (fieldsOf i) s from exec_core hm s, opWdq, run_running hr]
  simp only [← len_eq (isCore_of_major hm)]
  rfl

/-- TERMW behind its guards (R160). -/
theorem exec_termw (hm : majorOf i = some 0x14) (hr : Runs i s) : exec i s =
    withRef (fieldsOf i) s fun r => .next ((s.send
      { src := .core s.cur, dst := .dusk (dieOf s.cur), chan := .signal,
        body := .termw ((s.regionOf s.cur).getD 0) (fieldsOf i).sc s.cur r }).advance i.len) := by
  rw [show exec i s = opTermw (fieldsOf i) s from exec_core hm s, opTermw, run_running hr, len_eq (isCore_of_major hm)]

/-- CANCEL behind its guards (R161). -/
theorem exec_cancelInstruction (hm : majorOf i = some 0x15) (hr : Runs i s) : exec i s =
    let j := (opA i s).toNat
    if j = 0 ∨ 65535 < j then trapOut s 0x02 j
    else withRef (fieldsOf i) s fun r => .next (((issued s r).send
      { src := .core s.cur, dst := .frontEnd, chan := .signal,
        body := .cancelJob ((s.regionOf s.cur).getD 96) j r }).advance i.len) := by
  rw [show exec i s = opCancel (fieldsOf i) s from exec_core hm s, opCancel, run_running hr, len_eq (isCore_of_major hm)]
  rfl

end Requests

/-- Settles O26, instruction by instruction: behind its guards each meaning is its checks in their order, then the message. -/
theorem requestsAreSent : Obligations.RequestsAreSent := by
  unfold Obligations.RequestsAreSent
  intro i s hw hr k a r h
  refine ⟨?fork, ?fork_core, ?fork_tpl, ?fork_ref, ?steal_ref, ?wdq_ref, ?termw_ref, ?cancel_ref, ?free, ?free_own, ?free_bad,
    ?roam, ?roam_bad, ?wdq_range, ?wdq_align, ?bar, ?bar_unbound, ?steal, ?steal_core, ?wdq, ?termw, ?cancel, ?cancel_job⟩
  case fork =>
    intro hm hc ht hok
    rw [Sends, exec_fork hw hm hr, if_neg (not_not_eq_true hc), if_neg (Nat.not_le.mpr ht), withRef_ok hok]
    rfl
  case fork_core => exact fun hm hc => .of_exec ((exec_fork hw hm hr).trans (if_pos (congrArg not hc)))
  case fork_tpl =>
    intro hm hc ht
    exact .of_exec ((exec_fork hw hm hr).trans ((if_neg (not_not_eq_true hc)).trans (if_pos ht)))
  case fork_ref =>
    intro hm hc ht hok
    refine .of_exec ?_
    rw [exec_fork hw hm hr, if_neg (not_not_eq_true hc), if_neg (Nat.not_le.mpr ht), withRef_bad hok]
    rfl
  case steal =>
    intro hm hc hok
    rw [Sends, exec_dqsteal hw hm hr, if_neg (not_not_eq_true hc), withRef_ok hok]
    rfl
  case steal_core => exact fun hm hc => .of_exec ((exec_dqsteal hw hm hr).trans (if_pos (congrArg not hc)))
  case steal_ref =>
    intro hm hc hok
    exact .of_exec ((exec_dqsteal hw hm hr).trans ((if_neg (not_not_eq_true hc)).trans (withRef_bad hok)))
  case wdq =>
    intro hm hl hok
    rw [Sends, exec_wdq hm hr, checkLocal_ok hl, withRef_ok hok]
    rfl
  case wdq_ref => exact fun hm hl hok => .of_exec ((exec_wdq hm hr).trans ((checkLocal_ok hl).trans (withRef_bad hok)))
  case wdq_range => exact fun hm hl => .of_exec ((exec_wdq hm hr).trans (checkLocal_range hl))
  case wdq_align => exact fun hm hl ha => .of_exec ((exec_wdq hm hr).trans (checkLocal_align hl ha))
  case termw => exact fun hm hok => (exec_termw hm hr).trans (withRef_ok hok)
  case termw_ref => exact fun hm hok => .of_exec ((exec_termw hm hr).trans (withRef_bad hok))
  case cancel =>
    intro hm g hg h1 h2 hok
    rw [exec_cancelInstruction hm hr, if_neg (by omega), withRef_ok hok, hg]
    rfl
  case cancel_job => exact fun hm hj => .of_exec ((exec_cancelInstruction hm hr).trans (if_pos hj))
  case cancel_ref =>
    intro hm h1 h2 hok
    exact .of_exec ((exec_cancelInstruction hm hr).trans ((if_neg (by omega)).trans (withRef_bad hok)))
  case free =>
    intro hm hh hown
    rw [Sends, exec_free hm hr, if_neg (not_not_eq_true hh),
      if_neg fun hx => hown (Bool.and_eq_true_iff.1 hx).1 (eq_of_beq (Bool.and_eq_true_iff.1 hx).2)]
    rfl
  case free_own =>
    intro hm hh hlive hown
    rw [exec_free hm hr, if_neg (not_not_eq_true hh), if_pos (Bool.and_eq_true_iff.2 ⟨hlive, beq_iff_eq.2 hown⟩)]
  case free_bad => exact fun hm hh => .of_exec ((exec_free hm hr).trans (if_pos (congrArg not hh)))
  case roam => exact fun hm ht hp => (exec_roam hm hr).trans (if_neg (by omega))
  case roam_bad => exact fun hm ht => .of_exec ((exec_roam hm hr).trans (if_pos ht))
  case bar => exact fun hm b hb => exec_bar_bound hm hr hb
  case bar_unbound => exact fun hm hb => .of_exec (exec_bar_unbound hm hr hb)

end Sys2Proof.Machine
end

section
/-! SUPPORT and PROOFS. Core queues and stream bindings (R220 to R227, R404), and O37. -/

namespace Sys2Proof.Machine

theorem vA_eq_opA (i : Instr) (s : State) : (fieldsOf i).vA s = (opA i s).toNat := rfl

/-! ### Queues of a core -/

@[simp] theorem Core.lq_setLq_self (c : Core) (q : Nat) (v : LQueue) : (c.setLq q v).lq q = v := Sparse.get_set_self _ _ _ _
theorem Core.lq_setLq_ne {c : Core} {q j : Nat} {v : LQueue} (h : j ≠ q) : (c.setLq q v).lq j = c.lq j := Sparse.get_set_ne h

/-- A register written and a predicate set are seen in the registers alone. -/
theorem Core.readG_writeG_writeP (c : Core) (d p : Nat) (v : Word) (b : Bool) :
    ((c.writeG d v).writeP p b).readG d = if d = 0 then 0 else v := by
  have hg : ∀ k : Core, (k.writeP p b).readG d = k.readG d := fun k => by unfold Core.readG; rw [Core.writeP_g]
  rw [hg]
  split
  · subst_vars; rfl
  · exact Core.readG_writeG_self ‹_›

/-- The core after the head entry has left queue q, of which `rest` is left (R222, R404). -/
def Core.dequeued (k : Core) (q : Nat) (rest : List (Nat × Bool)) : Core :=
  (k.setLq q { k.lq q with entries := rest, rptr := ((k.lq q).rptr + 1) % 2 ^ 64 }).modNet fun n => { n with taken := n.taken + 1 }

section Dequeue
variable {s : State} {c q v : Nat} {ctl : Bool} {rest : List (Nat × Bool)}

/-- An entry that no handler waits for leaves its queue, and nothing else happens (R222). -/
theorem State.takeEntry_plain (h : ((s.core c).lq q).entries = (v, ctl) :: rest)
    (hg : (ctl && cfgGlen ((s.core c).lq q).cfg) = false) : s.takeEntry c q = s.modCore c (·.dequeued q rest) := by
  simp only [State.takeEntry, h, hg]
  rfl

/-- A control entry of a queue with GLEN set leaves it for its handler (R223). -/
theorem State.takeEntry_glint (h : ((s.core c).lq q).entries = (v, true) :: rest) (hg : cfgGlen ((s.core c).lq q).cfg = true) :
    s.takeEntry c q = (s.modCore c (·.dequeued q rest)).glint c ((s.core c).lq q).cfg v := by
  simp only [State.takeEntry, h, hg]
  rfl

end Dequeue

section Queues
variable {i : Instr} {s : State}

/-- ENQ behind its guards (R220, R221). -/
theorem exec_enq (hm : majorOf i = some 0x81) (hr : Runs i s) : exec i s =
    let q := (opA i s).toNat
    if 2 ^ 15 ≤ q then trapOut s 0x02 q
    else if !validCore (q % 4096) then trapOut s 0x06 q
    else withRef (fieldsOf i) s fun r => .next (((issued s r).send
      { src := .core s.cur, dst := .core (q % 4096), chan := .request, region := s.regionOf (q % 4096),
        outside := s.regionOf (q % 4096) != s.regionOf s.cur,
        body := .enq (bits q 14 12) (opB i s).toNat ((fieldsOf i).m % 2 == 1) false r 0 }).advance i.len) := by
  rw [show exec i s = opEnq (fieldsOf i) s from exec_core hm s, opEnq, run_running hr, len_eq (isCore_of_major hm), vB_eq_opB]
  rfl

/-- DEQ that finds no entry, or a stream at its queue (R222, R225). -/
theorem exec_deq_none (hm : majorOf i = some 0x82) (hr : Runs i s)
    (h : s.me.queueBound (fieldsOf i).a = true ∨ (s.me.lq (fieldsOf i).a).entries = []) :
    exec i s = .next ((s.modMe (·.writeP (fieldsOf i).m false)).advance i.len) := by
  rw [show exec i s = opDeq (fieldsOf i) s from exec_core hm s, opDeq, run_running hr, len_eq (isCore_of_major hm)]
  rcases h with h | h
  · exact if_pos h
  · split
    · rfl
    · simp only [h]; rfl

/-- DEQ of an entry that its queue's handler waits for (R223). -/
theorem exec_deq_glint {v : Nat} {rest : List (Nat × Bool)} (hm : majorOf i = some 0x82) (hr : Runs i s)
    (hb : s.me.queueBound (fieldsOf i).a = false) (he : (s.me.lq (fieldsOf i).a).entries = (v, true) :: rest)
    (hg : cfgGlen (s.me.lq (fieldsOf i).a).cfg = true) :
    exec i s = .next (((s.takeEntry s.cur (fieldsOf i).a).modMe (·.writeP (fieldsOf i).m false)).advance i.len) := by
  rw [show exec i s = opDeq (fieldsOf i) s from exec_core hm s, opDeq, run_running hr, len_eq (isCore_of_major hm)]
  simp only [hb, he, hg]
  rfl

/-- DEQ of any other entry (R222). -/
theorem exec_deq_plain {v : Nat} {ctl : Bool} {rest : List (Nat × Bool)} (hm : majorOf i = some 0x82) (hr : Runs i s)
    (hb : s.me.queueBound (fieldsOf i).a = false) (he : (s.me.lq (fieldsOf i).a).entries = (v, ctl) :: rest)
    (hg : (ctl && cfgGlen (s.me.lq (fieldsOf i).a).cfg) = false) :
    exec i s = .next (((s.modMe (·.dequeued (fieldsOf i).a rest)).modMe fun c =>
      (c.writeG (fieldsOf i).d (BitVec.ofNat 64 v)).writeP (fieldsOf i).m true).advance i.len) := by
  rw [show exec i s = opDeq (fieldsOf i) s from exec_core hm s, opDeq, run_running hr, len_eq (isCore_of_major hm)]
  simp only [hb, he, hg, State.takeEntry_plain (c := s.cur) he hg]
  rfl

/-- What such a DEQ leaves: the value and a true predicate, the queue without its head, one more entry taken. -/
theorem deq_plain_leaves {v : Nat} {ctl : Bool} {rest : List (Nat × Bool)} (hm : majorOf i = some 0x82) (hr : Runs i s)
    (hb : s.me.queueBound (fieldsOf i).a = false) (he : (s.me.lq (fieldsOf i).a).entries = (v, ctl) :: rest)
    (hg : (ctl && cfgGlen (s.me.lq (fieldsOf i).a).cfg) = false) :
    ∃ t, exec i s = .next t ∧
      t.me.readG (fieldsOf i).d = (if (fieldsOf i).d = 0 then 0 else BitVec.ofNat 64 v) ∧
      ((fieldsOf i).m ≠ 0 → t.me.readP (fieldsOf i).m = true) ∧ (t.me.lq (fieldsOf i).a).entries = rest ∧
      t.me.net.taken = s.me.net.taken + 1 ∧ t.msgs = s.msgs ∧ SameMemory s t := by
  set t := ((s.modMe (·.dequeued (fieldsOf i).a rest)).modMe fun c =>
      (c.writeG (fieldsOf i).d (BitVec.ofNat 64 v)).writeP (fieldsOf i).m true).advance i.len with ht
  have hme : t.me = (((s.me.dequeued (fieldsOf i).a rest).writeG (fieldsOf i).d (BitVec.ofNat 64 v)).writeP (fieldsOf i).m
      true).modPl fun p => { p with pc := p.pc + i.len } := by
    rw [ht, State.me_advance, State.me_modMe, State.me_modMe]
  have hm8 : (fieldsOf i).m < 8 := (fieldsOf i).w.m.isLt
  have hnet : t.me.net = (s.me.dequeued (fieldsOf i).a rest).net := by rw [hme]; simp
  refine ⟨t, exec_deq_plain hm hr hb he hg, ?_, fun h0 => ?_, ?_, ?_, rfl, fun _ => rfl, rfl, rfl, fun c a => ?_⟩
  · rw [hme]
    exact Core.readG_writeG_writeP _ _ _ _ _
  · rw [hme]
    exact (Core.readP_writeP h0 hm8 h0 hm8).trans (if_pos rfl)
  · have hq : t.me.lq (fieldsOf i).a = (s.me.dequeued (fieldsOf i).a rest).lq (fieldsOf i).a := by
      unfold Core.lq; rw [hnet]
    rw [hq]
    exact congrArg LQueue.entries (Core.lq_setLq_self _ _ _)
  · rw [hnet]
    rfl
  · by_cases hc : c = s.cur
    · have hscr : t.me.scr = s.me.scr := by rw [hme]; simp [Core.dequeued]
      subst hc
      exact congrArg (·.byte a) hscr
    · simp [ht, State.advance, State.modMe, State.core_modCore_ne hc]

/-- QCFG behind its guards (R24, R223). -/
theorem exec_qcfg (hm : majorOf i = some 0x83) (hr : Runs i s) : exec i s =
    let w := (opB i s).toNat
    if 2 ^ 48 ≤ w ∨ bits w 8 1 ≠ 0 then trapOut s 0x02 w
    else if cfgGlen w && (decide (s.tlcnt ≤ cfgGtix w) || !(s.weaveOf s.cur).glint (cfgGtix w) || s.tplcnt == 0) then
      trapOut s 0x02 w
    else .next ((s.modMe fun c => c.setLq (fieldsOf i).a { c.lq (fieldsOf i).a with
      cfg := w / 2 * 2, entries := if w % 2 = 1 then [] else (c.lq (fieldsOf i).a).entries }).advance i.len) := by
  rw [show exec i s = opQcfg (fieldsOf i) s from exec_core hm s, opQcfg, run_running hr, vB_eq_opB]
  simp only [done, ← len_eq (isCore_of_major hm)]

/-- SUNB behind its guards: it is refused while an operation on the stream is in flight, and unbinds otherwise (R227). -/
theorem exec_sunb (hm : majorOf i = some 0x85) (h0 : (fieldsOf i).m = 0) (hr : Runs i s) : exec i s =
    if s.me.streamBusy (fieldsOf i).a then .next ((s.modMe (·.writeG (fieldsOf i).d 1)).advance i.len)
    else .next ((s.modMe fun c => ((c.setStream (fieldsOf i).a none).writeF (fieldsOf i).a 0).writeG (fieldsOf i).d 0).advance i.len) := by
  rw [show exec i s = opSunb (fieldsOf i) s from exec_core hm s, opSunb, run_running hr, h0, len_eq (isCore_of_major hm)]
  rfl

/-- SUNB.query behind its guards, of a register that no stream is bound to (R227). -/
theorem exec_sunb_query_none (hm : majorOf i = some 0x85) (h1 : (fieldsOf i).m = 1) (hr : Runs i s)
    (hn : s.me.stream (fieldsOf i).a = none) : WritesG i s 0 := by
  rw [WritesG, show exec i s = opSunb (fieldsOf i) s from exec_core hm s, opSunb, run_running hr, h1, hn,
    len_eq (isCore_of_major hm)]
  rfl

/-- SUNB.query behind its guards, of a bound register (R227). -/
theorem exec_sunb_query_some {x : Stream} (hm : majorOf i = some 0x85) (h1 : (fieldsOf i).m = 1) (hr : Runs i s)
    (hx : s.me.stream (fieldsOf i).a = some x) : WritesG i s (BitVec.ofNat 64
      (min x.used (2 ^ 32 - 1) * 2 ^ 32 + (if s.me.streamBusy (fieldsOf i).a then 8 else 0) + x.kind + 1)) := by
  rw [WritesG, show exec i s = opSunb (fieldsOf i) s from exec_core hm s, opSunb, run_running hr, h1, hx,
    len_eq (isCore_of_major hm)]
  cases s.me.streamBusy (fieldsOf i).a <;> rfl

end Queues

/-! ### The places that a stream's descriptor names -/

section Places
variable {u : State} {kind : Nat} {w : List Nat}

/-- The destination core of a queue address exists, where the descriptor names one. -/
def QueueKnown (kind : Nat) (w : List Nat) : Prop :=
  ¬ (kind = 1 ∧ (w.getD 0 0).testBit 52 = true) ∨ validCore (w.getD 1 0 % 4096) = true

/-- A channel's ring lies in a scratchpad. -/
def RingFits (w : List Nat) : Prop := w.getD 0 0 % 2 ^ 32 + 64 * w.getD 2 0 ≤ 0x100000

theorem streamFail_queue (h : ¬ QueueKnown kind w) : u.streamFail kind w = some (0x06, w.getD 1 0) := by
  obtain ⟨hq, hc⟩ := not_or.1 h
  obtain ⟨rfl, hd⟩ := not_not.1 hq
  simp only [State.streamFail, hd, Bool.not_eq_true _ ▸ hc]
  rfl

theorem streamFail_core (hn : ¬ u.inRegion u.cur (w.getD 1 0) = true) : u.streamFail 2 w = some (0x06, w.getD 1 0) := by
  simp only [State.streamFail, Bool.not_eq_true _ ▸ hn]
  rfl

theorem streamFail_ring (hn : u.inRegion u.cur (w.getD 1 0) = true) (hf : ¬ RingFits w) :
    u.streamFail 2 w = some (0x05, w.getD 0 0 % 2 ^ 32) :=
  (if_neg (not_not_eq_true hn)).trans (if_pos (Nat.not_le.1 hf))

theorem streamFail_handle (hn : u.inRegion u.cur (w.getD 1 0) = true) (hf : RingFits w)
    (hh : u.handleOk u.cur (w.getD 3 0 % 2 ^ 32) = false) : u.streamFail 2 w = some (0x06, w.getD 3 0 % 2 ^ 32) :=
  (if_neg (not_not_eq_true hn)).trans ((if_neg (Nat.not_lt.2 hf)).trans (if_pos (congrArg not hh)))

/-- A descriptor whose places are all there is bound (R225). -/
theorem streamFail_none (hk : kind < 3) (hq : QueueKnown kind w)
    (hc : kind = 2 → u.inRegion u.cur (w.getD 1 0) = true ∧ RingFits w ∧ u.handleOk u.cur (w.getD 3 0 % 2 ^ 32) = true) :
    u.streamFail kind w = none := by
  match kind, hk with
  | 0, _ => rfl
  | 1, _ =>
    refine if_neg fun h => ?_
    obtain ⟨hd, hv⟩ := Bool.and_eq_true_iff.1 h
    rcases hq with hq | hq
    · exact hq ⟨rfl, hd⟩
    · exact not_not_eq_true hq hv
  | 2, _ =>
    obtain ⟨hn, hf, hh⟩ := hc rfl
    exact (if_neg (not_not_eq_true hn)).trans ((if_neg (Nat.not_lt.2 hf)).trans (if_neg (not_not_eq_true hh)))

end Places

/-- The eight words of a stream's descriptor at local address a. -/
def State.descriptor (u : State) (a : Nat) : List Nat := (List.range 8).map fun j => u.localN u.cur (a + 8 * j) 8

/-- Register d bound to a new stream of a kind, with its descriptor's words (R225). -/
def Core.bindStream (k : Core) (d kind : Nat) (w : List Nat) : Core :=
  (k.setStream d (some { kind := kind, words := w, id := k.eng.nextId })).modEng fun e => { e with nextId := e.nextId + 1 }

theorem Core.stream_bindStream (k : Core) (d kind : Nat) (w : List Nat) :
    (k.bindStream d kind w).stream d = some { kind := kind, words := w, id := k.eng.nextId } := Sparse.get_set_self _ _ _ _

section Binding
variable {i : Instr} {s u : State}
  (hm : majorOf i = some 0x84) (hr : Runs i s) (hu : u = s.localReach s.cur (opA i s).toNat 64)
  (hl : LocalOk (opA i s).toNat 64 64) (hb : u.localBad u.cur (opA i s).toNat 64 = false)
  (hw : ((streamWords (fieldsOf i).m (u.descriptor (opA i s).toNat)).all (·.2)) = true)
include hm hr hu hl hb hw

/-- SBIND behind its guards, with a descriptor that can be read and breaks no rule of R225. -/
theorem exec_sbind : exec i s =
    if u.me.streamBusy (fieldsOf i).d then trapOut u 0x02 (fieldsOf i).d
    else (u.streamFail (fieldsOf i).m (u.descriptor (opA i s).toNat)).elim
      (.next ((u.modMe (·.bindStream (fieldsOf i).d (fieldsOf i).m (u.descriptor (opA i s).toNat))).advance i.len))
      fun e => trapOut u e.1 e.2 := by
  have hfind : (streamWords (fieldsOf i).m (u.descriptor (opA i s).toNat)).find? (fun e => !e.2) = none :=
    List.find?_eq_none.2 fun e he => by simpa using List.all_eq_true.1 hw e he
  rw [show exec i s = opSbind (fieldsOf i) s from exec_core hm s, opSbind, run_running hr, vA_eq_opA,
    len_eq (isCore_of_major hm)]
  refine (checkLocal_ok hl).trans ?_
  subst hu
  refine (checkEcc_ok hb).trans ?_
  simp only [State.descriptor] at hfind ⊢
  rw [hfind]
  refine if_congr Iff.rfl rfl ?_
  cases State.streamFail _ _ _ <;> rfl

theorem exec_sbind_busy (hbusy : u.me.streamBusy (fieldsOf i).d = true) :
    ∃ t, exec i s = .next t ∧ TrapTaken u t 0x02 (fieldsOf i).d :=
  ⟨_, (exec_sbind hm hr hu hl hb hw).trans (if_pos hbusy), trapTaken_trap _ _ _⟩

theorem exec_sbind_refused {e : Nat × Nat} (hbusy : u.me.streamBusy (fieldsOf i).d = false)
    (he : u.streamFail (fieldsOf i).m (u.descriptor (opA i s).toNat) = some e) :
    ∃ t, exec i s = .next t ∧ TrapTaken u t e.1 e.2 := by
  refine ⟨_, (exec_sbind hm hr hu hl hb hw).trans ?_, trapTaken_trap _ _ _⟩
  rw [if_neg (Bool.eq_false_iff.1 hbusy), he]
  rfl

theorem exec_sbind_bound (hbusy : u.me.streamBusy (fieldsOf i).d = false)
    (he : u.streamFail (fieldsOf i).m (u.descriptor (opA i s).toNat) = none) :
    ∃ t, exec i s = .next t ∧ ∃ x, t.me.stream (fieldsOf i).d = some x ∧ x.kind = (fieldsOf i).m ∧
      x.words = u.descriptor (opA i s).toNat ∧ x.used = 0 ∧ x.line = 0 := by
  refine ⟨(u.modMe (·.bindStream (fieldsOf i).d (fieldsOf i).m (u.descriptor (opA i s).toNat))).advance i.len,
    (exec_sbind hm hr hu hl hb hw).trans ?_,
    { kind := (fieldsOf i).m, words := u.descriptor (opA i s).toNat, id := u.me.eng.nextId }, ?_, ?_⟩
  · rw [if_neg (Bool.eq_false_iff.1 hbusy), he]
    rfl
  · rw [State.me_advance, State.me_modMe]
    exact Core.stream_bindStream _ _ _ _
  · exact ⟨rfl, rfl, rfl, rfl⟩

end Binding

/-- SBIND has three kinds (R225). -/
theorem sbind_kind_lt {i : Instr} (hw : i.wf = true) (hm : majorOf i = some 0x84) : (fieldsOf i).m < 3 := by
  have hlisted := m_listed hw hm (by decide) (r := { ext := true, m := 0b111, d := .p3, a := .r }) (by decide)
  rw [show (0b111 : Nat) = 2 ^ 3 - 1 from rfl, Nat.testBit_two_pow_sub_one] at hlisted
  exact of_decide_eq_true hlisted

/-- Settles O37, instruction by instruction: behind its guards each meaning is its checks in their order, then the effect. -/
theorem queuesAndStreamsAct : Obligations.QueuesAndStreamsAct := by
  unfold Obligations.QueuesAndStreamsAct
  intro i s hw hr k a b r q u words
  refine ⟨?enq, ?enq_range, ?enq_core, ?enq_ref, ?deq_none, ?deq_data, ?deq_ctl, ?deq_glint, ?qcfg, ?qcfg_bad, ?sbind, ?sunb_busy,
    ?sunb, ?query_none, ?query⟩
  case enq =>
    intro hm ha hc hok
    rw [exec_enq hm hr, if_neg (Nat.not_le.2 ha), if_neg (not_not_eq_true hc), withRef_ok hok, bits_eq_div (by norm_num) ha]
    rfl
  case enq_range => exact fun hm ha => .of_exec ((exec_enq hm hr).trans (if_pos ha))
  case enq_core =>
    exact fun hm ha hc => .of_exec ((exec_enq hm hr).trans ((if_neg (Nat.not_le.2 ha)).trans (if_pos (congrArg not hc))))
  case enq_ref =>
    exact fun hm ha hc hok => .of_exec ((exec_enq hm hr).trans
      ((if_neg (Nat.not_le.2 ha)).trans ((if_neg (not_not_eq_true hc)).trans (withRef_bad hok))))
  case deq_none => exact fun hm h => exec_deq_none hm hr h
  case deq_data => exact fun hm hb v rest he => deq_plain_leaves hm hr hb he rfl
  case deq_ctl =>
    intro hm hb v rest he hg
    obtain ⟨t, ht, hG, hP, hq, -, hmsgs, hmem⟩ := deq_plain_leaves hm hr hb he (by simpa using hg)
    exact ⟨t, ht, hG, hP, hq, hmsgs, hmem⟩
  case deq_glint =>
    exact fun hm hb v rest he hg => ⟨exec_deq_glint hm hr hb he hg, State.takeEntry_glint (c := s.cur) he hg⟩
  case qcfg =>
    intro hm hb hz hg
    have hform : ¬ (2 ^ 48 ≤ b ∨ bits b 8 1 ≠ 0) := by
      rw [not_or, not_not]
      exact ⟨Nat.not_le.2 hb, by simpa [bits, Nat.shiftRight_eq_div_pow] using hz⟩
    have hhandler : ¬ (cfgGlen b && (decide (s.tlcnt ≤ cfgGtix b) || !(s.weaveOf s.cur).glint (cfgGtix b) || s.tplcnt == 0)) =
        true := by
      intro h
      obtain ⟨hglen, hbad⟩ := Bool.and_eq_true_iff.1 h
      obtain ⟨h1, h2, h3⟩ := hg hglen
      simp [h2, h3, Nat.not_le.2 h1] at hbad
    refine ⟨_, (exec_qcfg hm hr).trans ((if_neg hform).trans (if_neg hhandler)), ?_⟩
    rw [State.me_advance, State.me_modMe]
    have hself : (s.me.setLq k.a { q with cfg := b / 2 * 2, entries := if b % 2 = 1 then [] else q.entries }).lq k.a = _ :=
      Core.lq_setLq_self _ _ _
    exact ⟨congrArg LQueue.cfg hself, congrArg LQueue.entries hself, fun j hj => Core.lq_setLq_ne hj⟩
  case qcfg_bad =>
    intro hm hbad
    refine .of_exec ((exec_qcfg hm hr).trans ?_)
    by_cases hform : 2 ^ 48 ≤ b ∨ bits b 8 1 ≠ 0
    · exact if_pos hform
    · refine (if_neg hform).trans (if_pos ?_)
      have hz : bits b 8 1 = b / 2 % 256 := by simp [bits, Nat.shiftRight_eq_div_pow]
      obtain ⟨hglen, h⟩ := (or_assoc.2 hbad).resolve_left (hz ▸ hform)
      refine Bool.and_eq_true_iff.2 ⟨hglen, ?_⟩
      simpa [or_assoc] using h
  case sbind =>
    intro hm hl hb hwords ring h queue known near fits
    have hrefused (e : Nat × Nat) (hbusy : u.me.streamBusy k.d = false) (he : u.streamFail k.m words = some e) :
        ∃ t, exec i s = .next t ∧ TrapTaken u t e.1 e.2 := exec_sbind_refused hm hr rfl hl hb hwords hbusy he
    refine ⟨fun hbusy hk hc => ?bound, fun hbusy => exec_sbind_busy hm hr rfl hl hb hwords hbusy,
      fun hbusy hk => hrefused (0x06, words.getD 1 0) hbusy (streamFail_queue hk), fun hbusy h2 hn => ?core, fun hbusy h2 hn hf => ?ring,
      fun hbusy h2 hn hf hh => ?handle⟩
    case bound => exact exec_sbind_bound hm hr rfl hl hb hwords hbusy (streamFail_none (sbind_kind_lt hw hm) hk hc)
    case core => exact hrefused (0x06, words.getD 1 0) hbusy (by rw [h2]; exact streamFail_core hn)
    case ring => exact hrefused (0x05, ring) hbusy (by rw [h2]; exact streamFail_ring hn hf)
    case handle => exact hrefused (0x06, h) hbusy (by rw [h2]; exact streamFail_handle hn hf hh)
  case sunb_busy => exact fun hm h0 hbusy => (exec_sunb hm h0 hr).trans (if_pos hbusy)
  case sunb => exact fun hm h0 hbusy => (exec_sunb hm h0 hr).trans (if_neg (Bool.eq_false_iff.1 hbusy))
  case query_none => exact fun hm h1 hn => exec_sunb_query_none hm h1 hr hn
  case query => exact fun hm h1 x hx => exec_sunb_query_some hm h1 hr hx

end Sys2Proof.Machine
end

section
/-! SUPPORT and PROOFS. An update of a core's own pipeline that comes back as a message (R56, R293, R414), and the refutation of O53. -/

namespace Sys2Proof.Machine

/-- An ARM with SR = 0 of core 0, which was held there when its region was swapped out, and comes again as a message (R56, R442). -/
def ownArm : Msg :=
  { src := .core 0, dst := .core 0, chan := .signal, body := .arm 1 0 0, region := some 0, again := true, own := true }

/-- The ARM on its way to its own frame, which is resident. -/
def ownArmSent : State :=
  { cores := [(0, { fe := { frames := [(0, { st := 2 })] }, net := { region := some 0 } })], msgs := [ownArm] }

/-- What a core has absorbed when a step has answered (R414). -/
def absorbedAfter (c : Nat) : Out → Sparse Nat
  | .next t => (t.core c).net.absorb
  | _ => []

/-- The ARM comes to the core that it is for. -/
theorem ownArmSent_meets : Meets ownArmSent 0 0 ownArm (ownArmSent.dropMsg 0) := ⟨⟨by decide, rfl⟩, rfl, by decide⟩

/-- EMIT counted no update of the pipeline's own, and ABSORB counts none. -/
theorem ownArmSent_absorbs_nothing : absorbedAfter 0 (execArmMessage 0 ownArmSent) = [] := by decide

/-- Refutes O53: the statement's clause of ARM has the core absorb every ARM of a core, also one of its own pipeline that was held
and spilled with its region (`Msg.own`), which is no message that EMIT counted (R293, R414). -/
theorem not_messagesActAtTheirCore : ¬ Obligations.MessagesActAtTheirCore := by
  rintro ⟨hmsg, -⟩
  obtain ⟨-, harm, -⟩ := hmsg _ _ _ _ _ ownArmSent_meets
  obtain ⟨hlive, -⟩ := harm 1 0 0 rfl (by decide)
  have habsorbed : absorbedAfter 0 (execArmMessage 0 ownArmSent) = _ :=
    congrArg (absorbedAfter 0) (hlive (by decide) (by decide))
  rw [ownArmSent_absorbs_nothing] at habsorbed
  exact absurd habsorbed (by decide)

end Sys2Proof.Machine
end

section
/-! SUPPORT and PROOFS. The entry of a recorded trap whose place in the fault queue ESTAT has no room for (R423, R426), and the
refutation of O54. -/

namespace Sys2Proof.Machine

/-- Core 0 at a boundary, with a trap recorded whose QIX is 256; QIX has six bits, and what a core posts has at most 63. -/
def wideTrap : State := { cores := [(0, { net := { traps := [{ qix := 256 }] } })] }

/-- RECD of ESTAT when a step has answered (R423). -/
def recordedAfter (c : Nat) : Out → Bool
  | .next t => (t.core c).sup.estat.getLsbD 40
  | _ => false

/-- ESTAT takes the sum of its fields, and 256 in place of QIX carries out of RECD. -/
theorem wideTrap_not_recorded : recordedAfter 0 (execRecordedTrapEntry 0 wideTrap) = false := by decide

/-- Refutes O54: its clause of a recorded trap's entry, which holds for every record posted, asks for RECD whatever the record's QIX;
it lacks the premise that QIX fits its six bits, without which the entry at `wideTrap` clears RECD. -/
theorem not_coresActBetweenInstructions : ¬ Obligations.CoresActBetweenInstructions := by
  intro hall
  obtain ⟨-, -, -, -, -, -, -, -, -, -, hentry, -⟩ := hall wideTrap 0
  obtain ⟨t, ht, -, -, -, -, hrecd, -⟩ := hentry (by decide) _ _ rfl
  have hanswer : recordedAfter 0 (execRecordedTrapEntry 0 wideTrap) = (t.core 0).sup.estat.getLsbD 40 :=
    congrArg (recordedAfter 0) ht
  rw [wideTrap_not_recorded, hrecd] at hanswer
  exact Bool.false_ne_true hanswer

end Sys2Proof.Machine
end

section
/-! SUPPORT and PROOFS. Words and their fields (R101, R102), rows and their constructors in both directions, and with them O3, O4 and O2. -/

namespace Sys2Proof.Machine

/-! ### Words and fields (R101 to R103) -/

theorem toNat_append_eq_add {m n : Nat} (x : BitVec m) (y : BitVec n) : (x ++ y).toNat = 2 ^ n * x.toNat + y.toNat := by
  rw [BitVec.toNat_append, ← Nat.shiftLeft_add_eq_or_of_lt y.isLt, Nat.shiftLeft_eq, Nat.mul_comm]

/-- A field of a word, by the number that it holds. -/
theorem extract_eq {w n k : Nat} {v : BitVec w} {x : BitVec n} (h : v.toNat / 2 ^ k % 2 ^ n = x.toNat) :
    v.extractLsb' k n = x :=
  BitVec.eq_of_toNat_eq (by rw [BitVec.extractLsb'_toNat, Nat.shiftRight_eq_div_pow, h])

theorem toNat_word0 (op : Nat) (l : BitVec 2) (w : W0) : (word0 op l w).toNat =
    2 ^ 28 * w.g.toNat + 2 ^ 25 * w.m.toNat + 2 ^ 20 * w.b.toNat + 2 ^ 15 * w.a.toNat + 2 ^ 10 * w.d.toNat +
      4 * (op % 256) + l.toNat := by
  unfold word0
  simp only [toNat_append_eq_add, BitVec.toNat_ofNat]
  omega

theorem toNat_word1 (x : W1) : (word1 x).toNat =
    2 ^ 28 * x.xop.toNat + 2 ^ 27 * x.sr.toNat + 2 ^ 24 * x.sl.toNat + 2 ^ 21 * x.sc.toNat + 2 ^ 19 * x.th.toNat +
      2 ^ 15 * x.g2.toNat + 2 ^ 10 * x.f.toNat + 2 ^ 5 * x.e.toNat + x.c.toNat := by
  unfold word1
  simp only [toNat_append_eq_add]
  omega

section Words
variable {w : W0} {l : BitVec 2} {op : Nat}

@[simp] theorem lenOf_word0 : lenOf (word0 op l w) = l := by
  have h := toNat_word0 op l w
  exact extract_eq (by omega)

theorem opOf_word0 (hop : op < 256) : Sys2Proof.opOf (word0 op l w) = op := by
  have h := toNat_word0 op l w
  rw [Sys2Proof.opOf, BitVec.extractLsb'_toNat, Nat.shiftRight_eq_div_pow]
  omega

@[simp] theorem w0Of_word0 : w0Of (word0 op l w) = w := by
  have h := toNat_word0 op l w
  rcases w with ⟨g, m, b, a, d⟩
  dsimp only at h
  rw [w0Of, W0.mk.injEq]
  refine ⟨?_, ?_, ?_, ?_, ?_⟩ <;> exact extract_eq (by omega)

@[simp] theorem w1Of_word1 (x : W1) : w1Of (word1 x) = x := by
  have h := toNat_word1 x
  rcases x with ⟨xop, sr, sl, sc, th, g2, f, e, c⟩
  dsimp only at h
  rw [w1Of, W1.mk.injEq]
  refine ⟨?_, ?_, ?_, ?_, ?_, ?_, ?_, ?_, ?_⟩ <;> exact extract_eq (by omega)

/-- OP, L and the other fields make up word 0. -/
theorem word0_fields (v : Word32) : word0 (Sys2Proof.opOf v) (lenOf v) (w0Of v) = v := by
  refine BitVec.eq_of_toNat_eq ?_
  rw [toNat_word0]
  simp only [Sys2Proof.opOf, lenOf, w0Of, BitVec.extractLsb'_toNat, Nat.shiftRight_eq_div_pow]
  omega

theorem word1_fields (v : Word32) : word1 (w1Of v) = v := by
  refine BitVec.eq_of_toNat_eq ?_
  rw [toNat_word1]
  simp only [w1Of, BitVec.extractLsb'_toNat, Nat.shiftRight_eq_div_pow]
  omega

/-- Only opcode 0 makes a word 0 of zero. -/
theorem word0_ne_zero (h0 : op ≠ 0) (hop : op < 256) : word0 op l w ≠ 0 := by
  intro h
  have := opOf_word0 (l := l) (w := w) hop
  rw [h] at this
  exact h0 (this.symm.trans (by decide))

end Words

/-- A literal from its two words (R103). -/
theorem literal_words (v : Word) : v.extractLsb' 32 32 ++ v.extractLsb' 0 32 = v := by
  refine BitVec.eq_of_toNat_eq ?_
  rw [toNat_append_eq_add]
  simp only [BitVec.extractLsb'_toNat, Nat.shiftRight_eq_div_pow]
  omega

theorem low_word (hi lo : Word32) : (hi ++ lo : Word).extractLsb' 0 32 = lo := by
  have := toNat_append_eq_add hi lo
  exact extract_eq (by omega)

theorem high_word (hi lo : Word32) : (hi ++ lo : Word).extractLsb' 32 32 = hi := by
  have := toNat_append_eq_add hi lo
  exact extract_eq (by omega)

/-! ### Rows and constructors (R117 to R122) -/

theorem rowOf_zero (x : Bool) : rowOf x 0 = none := by cases x <;> rfl

theorem rowOf_eq_none {x : Bool} {op : Nat} (h : 0xF0 ≤ op) : rowOf x op = none := by
  rw [rowOf, if_neg (by omega), if_neg (by omega), if_neg (by omega), if_neg (by omega), if_neg (by omega)]
  unfold rowTile
  split <;> simp at h ⊢

/-- The major opcodes that have a row are those of the tables: not NOP's, and none from 0xF0 on. -/
theorem rowOf_range {x : Bool} {op : Nat} {r : Row} (h : rowOf x op = some r) : op ≠ 0 ∧ op < 0xF0 := by
  constructor
  · rintro rfl
    rw [rowOf_zero] at h
    cases h
  · by_contra hge
    rw [rowOf_eq_none (by omega)] at h
    cases h

theorem row_of_checkBase {op : Nat} {w : W0} (h : checkBase op w = true) : ∃ r, rowOf false op = some r := by
  unfold checkBase at h
  split at h
  · cases h
  · exact ⟨_, ‹_›⟩

/-- What the check of an extended row demands of the fields that its form has no words for (R100). -/
theorem row_of_checkExt {op : Nat} {o : Ext} (h : checkExt op o = true) :
    (∃ r, rowOf true op = some r) ∧ (o.form = .ext → o.lit = 0) ∧ (o.form = .lit → o.x = {} ∧ o.imm = 0) := by
  unfold checkExt at h
  split at h
  · cases h
  · refine ⟨⟨_, ‹_›⟩, fun hf => ?_, fun hf => ?_⟩ <;> simp_all

/-- A base row's constructor is the one that stands for the row. -/
theorem rawOf_ofBase {op : Nat} {w : W0} {i : Instr} (h : ofBase op w = some i) : rawOf i = .base op w := by
  unfold ofBase ofBase0 ofBase1 ofBase2 ofBase3 ofBase4 ofBase5 at h
  split_ifs at h <;> split at h <;> cases h <;> rfl

theorem rawOf_ofExt {op : Nat} {o : Ext} {i : Instr} (h : ofExt op o = some i) : rawOf i = .ext op o := by
  unfold ofExt ofExt0 ofExt1 ofExt2 ofExt3 ofExt4 ofExt5 at h
  split_ifs at h <;> split at h <;> cases h <;> rfl

theorem ofBase_rawOf {op : Nat} {w : W0} {i : Instr} (h : rawOf i = .base op w) : ofBase op w = some i := by
  cases i <;> cases h <;> rfl

theorem ofExt_rawOf {op : Nat} {o : Ext} {i : Instr} (h : rawOf i = .ext op o) : ofExt op o = some i := by
  cases i <;> cases h <;> rfl

/-! ### Decoding what is encoded -/

theorem decodeBase_eq_ok {op : Nat} {w : W0} {i : Instr} : decodeBase op w = .ok i ↔ checkBase op w = true ∧ rawOf i = .base op w := by
  unfold decodeBase
  constructor
  · intro h
    split at h
    · cases h
      exact ⟨‹_›, rawOf_ofBase ‹_›⟩
    · cases h
  · rintro ⟨hc, hr⟩
    rw [hc, ofBase_rawOf hr]

theorem decodeExt_eq_ok {op : Nat} {o : Ext} {i : Instr} : decodeExt op o = .ok i ↔ checkExt op o = true ∧ rawOf i = .ext op o := by
  unfold decodeExt
  constructor
  · intro h
    split at h
    · cases h
      exact ⟨‹_›, rawOf_ofExt ‹_›⟩
    · cases h
  · rintro ⟨hc, hr⟩
    rw [hc, ofExt_rawOf hr]

section Forms
variable {w x imm lo hi : Word32} {rest : List Word32} {i : Instr}

/-! The decoder on each length class of word 0 (R100). -/

theorem decode_base (h : w ≠ 0) (hl : lenOf w = 0) : decode (w :: rest) = decodeBase (Sys2Proof.opOf w) (w0Of w) := by
  refine (if_neg h).trans ?_
  rw [hl]
  rfl

theorem decode_ext (h : w ≠ 0) (hl : lenOf w = 1) : decode (w :: x :: imm :: rest) =
    decodeExt (Sys2Proof.opOf w) { form := .ext, w := w0Of w, x := w1Of x, imm := imm } := by
  refine (if_neg h).trans ?_
  rw [hl]
  rfl

theorem decode_lit (h : w ≠ 0) (hl : lenOf w = 2) : decode (w :: lo :: hi :: rest) =
    decodeExt (Sys2Proof.opOf w) { form := .lit, w := w0Of w, lit := hi ++ lo } := by
  refine (if_neg h).trans ?_
  rw [hl]
  rfl

theorem decode_extLit (h : w ≠ 0) (hl : lenOf w = 3) : decode (w :: x :: imm :: lo :: hi :: rest) =
    decodeExt (Sys2Proof.opOf w) { form := .extLit, w := w0Of w, x := w1Of x, imm := imm, lit := hi ++ lo } := by
  refine (if_neg h).trans ?_
  rw [hl]
  rfl

/-- What the decoder accepts: a zero word, or a row in one of the four length classes, with all of its words. -/
inductive Decodes : List Word32 → Instr → Prop
  | zero (rest : List Word32) : Decodes (0 :: rest) .nop
  | base {w : Word32} {i : Instr} (rest : List Word32) (h : w ≠ 0) (hl : lenOf w = 0)
      (hd : decodeBase (Sys2Proof.opOf w) (w0Of w) = .ok i) : Decodes (w :: rest) i
  | ext {w x imm : Word32} {i : Instr} (rest : List Word32) (h : w ≠ 0) (hl : lenOf w = 1)
      (hd : decodeExt (Sys2Proof.opOf w) { form := .ext, w := w0Of w, x := w1Of x, imm := imm } = .ok i) :
      Decodes (w :: x :: imm :: rest) i
  | lit {w lo hi : Word32} {i : Instr} (rest : List Word32) (h : w ≠ 0) (hl : lenOf w = 2)
      (hd : decodeExt (Sys2Proof.opOf w) { form := .lit, w := w0Of w, lit := hi ++ lo } = .ok i) :
      Decodes (w :: lo :: hi :: rest) i
  | extLit {w x imm lo hi : Word32} {i : Instr} (rest : List Word32) (h : w ≠ 0) (hl : lenOf w = 3)
      (hd : decodeExt (Sys2Proof.opOf w) { form := .extLit, w := w0Of w, x := w1Of x, imm := imm, lit := hi ++ lo } = .ok i) :
      Decodes (w :: x :: imm :: lo :: hi :: rest) i

theorem decodes_of_decode {ws : List Word32} (h : decode ws = .ok i) : Decodes ws i := by
  cases ws with
  | nil => cases h
  | cons w rest =>
    by_cases h0 : w = 0
    · subst h0
      cases h
      exact .zero rest
    · unfold decode at h
      dsimp only at h
      rw [if_neg h0] at h
      split at h
      · exact .base _ h0 (BitVec.eq_of_toNat_eq ‹_›) h
      · exact .ext _ h0 (BitVec.eq_of_toNat_eq ‹_›) h
      · exact .lit _ h0 (BitVec.eq_of_toNat_eq ‹_›) h
      · exact .extLit _ h0 (BitVec.eq_of_toNat_eq ‹_›) h
      · cases h

end Forms

/-- NOP alone has NOP's encoding. -/
theorem eq_nop_of_rawOf {i : Instr} (h : rawOf i = .nop) : i = .nop := by
  cases i <;> first
    | rfl
    | cases h

/-- A base row's word decodes to its instruction. -/
theorem decode_encoded_base {op : Nat} {w : W0} {i : Instr} (rest : List Word32) (hr : rawOf i = .base op w)
    (hc : checkBase op w = true) : decode (word0 op 0 w :: rest) = .ok i := by
  obtain ⟨r, hrow⟩ := row_of_checkBase hc
  obtain ⟨h0, hlt⟩ := rowOf_range hrow
  rw [decode_base (word0_ne_zero h0 (by omega)) lenOf_word0, opOf_word0 (by omega), w0Of_word0, decodeBase_eq_ok]
  exact ⟨hc, hr⟩

/-- An extended or literal row's words decode to its instruction. -/
theorem decode_encoded_ext {op : Nat} {o : Ext} {i : Instr} (rest : List Word32) (hr : rawOf i = .ext op o)
    (hc : checkExt op o = true) : decode (encodeExt op o ++ rest) = .ok i := by
  obtain ⟨⟨r, hrow⟩, hext, hlit⟩ := row_of_checkExt hc
  obtain ⟨h0, hlt⟩ := rowOf_range hrow
  have hne : ∀ l, word0 op l o.w ≠ 0 := fun l => word0_ne_zero h0 (by omega)
  have hop : ∀ l, Sys2Proof.opOf (word0 op l o.w) = op := fun l => opOf_word0 (by omega)
  rcases o with ⟨form, w, x, imm, lit⟩
  cases form with
  | ext =>
    obtain rfl : lit = 0 := hext rfl
    rw [encodeExt, List.cons_append, List.cons_append, List.cons_append, decode_ext (hne 1) lenOf_word0, hop, w0Of_word0,
      w1Of_word1, decodeExt_eq_ok]
    exact ⟨hc, hr⟩
  | lit =>
    obtain ⟨rfl, rfl⟩ : x = {} ∧ imm = 0 := hlit rfl
    rw [encodeExt, List.cons_append, List.cons_append, List.cons_append, decode_lit (hne 2) lenOf_word0, hop, w0Of_word0,
      literal_words, decodeExt_eq_ok]
    exact ⟨hc, hr⟩
  | extLit =>
    rw [encodeExt, List.cons_append, List.cons_append, List.cons_append, List.cons_append, List.cons_append,
      decode_extLit (hne 3) lenOf_word0, hop, w0Of_word0, w1Of_word1, literal_words, decodeExt_eq_ok]
    exact ⟨hc, hr⟩

/-- Settles O3, row by row: the fields come back from the words, the length class says which words there are, and the constructor
that stands for the row is the instruction. -/
theorem decodeOfEncodeIsTheInstruction : Obligations.DecodeOfEncodeIsTheInstruction := by
  intro i rest hw hi
  unfold Instr.wf at hw
  unfold encode
  cases hr : rawOf i with
  | nop => rw [eq_nop_of_rawOf hr]; rfl
  | base op w => exact decode_encoded_base rest hr (by simpa only [hr] using hw)
  | ext op o => exact decode_encoded_ext rest hr (by simpa only [hr] using hw)
  | event => simp [Instr.isCore, hr] at hi

/-! ### Encoding what is decoded -/

/-- A row that passes its checks is a well-formed core instruction, encoded as the row is. -/
theorem wf_of_base {op : Nat} {w : W0} {i : Instr} (h : checkBase op w = true ∧ rawOf i = .base op w) :
    i.isCore = true ∧ i.wf = true ∧ encode i = [word0 op 0 w] := by
  simp [Instr.isCore, Instr.wf, encode, h.2, h.1]

theorem wf_of_ext {op : Nat} {o : Ext} {i : Instr} (h : checkExt op o = true ∧ rawOf i = .ext op o) :
    i.isCore = true ∧ i.wf = true ∧ encode i = encodeExt op o := by
  simp [Instr.isCore, Instr.wf, encode, h.2, h.1]

/-- The first word of what is read as an extended row. -/
theorem word0_of_len {w : Word32} {l : BitVec 2} (h : lenOf w = l) : word0 (Sys2Proof.opOf w) l (w0Of w) = w := by
  rw [← h, word0_fields]

theorem encode_of_decodes {ws : List Word32} {i : Instr} (h : Decodes ws i) :
    i.isCore = true ∧ i.wf = true ∧ ∃ rest, ws = encode i ++ rest := by
  cases h with
  | zero rest => exact ⟨rfl, rfl, rest, rfl⟩
  | base rest h hl hd =>
    obtain ⟨hcore, hwf, henc⟩ := wf_of_base (decodeBase_eq_ok.1 hd)
    exact ⟨hcore, hwf, rest, by rw [henc, word0_of_len hl]; rfl⟩
  | ext rest h hl hd =>
    obtain ⟨hcore, hwf, henc⟩ := wf_of_ext (decodeExt_eq_ok.1 hd)
    exact ⟨hcore, hwf, rest, by rw [henc, encodeExt, word0_of_len hl, word1_fields]; rfl⟩
  | lit rest h hl hd =>
    obtain ⟨hcore, hwf, henc⟩ := wf_of_ext (decodeExt_eq_ok.1 hd)
    exact ⟨hcore, hwf, rest, by rw [henc, encodeExt, word0_of_len hl, low_word, high_word]; rfl⟩
  | extLit rest h hl hd =>
    obtain ⟨hcore, hwf, henc⟩ := wf_of_ext (decodeExt_eq_ok.1 hd)
    exact ⟨hcore, hwf, rest, by rw [henc, encodeExt, word0_of_len hl, word1_fields, low_word, high_word]; rfl⟩

/-- A nonzero word that decodes has a row for its opcode in its length class. -/
theorem row_of_decodes {w : Word32} {rest : List Word32} {i : Instr} (h0 : w ≠ 0) (h : Decodes (w :: rest) i) :
    ∃ r, rowOf (lenOf w != 0) (Sys2Proof.opOf w) = some r := by
  cases h with
  | zero => exact absurd rfl h0
  | base _ _ hl hd => rw [hl]; exact row_of_checkBase (decodeBase_eq_ok.1 hd).1
  | ext _ _ hl hd => rw [hl]; exact (row_of_checkExt (decodeExt_eq_ok.1 hd).1).1
  | lit _ _ hl hd => rw [hl]; exact (row_of_checkExt (decodeExt_eq_ok.1 hd).1).1
  | extLit _ _ hl hd => rw [hl]; exact (row_of_checkExt (decodeExt_eq_ok.1 hd).1).1

/-- Settles O4: what the decoder accepts is a row that passes its checks, whose fields make up the words read; and only an opcode of the
tables has a row. -/
theorem decodedWordsAreTheEncoding : Obligations.DecodedWordsAreTheEncoding := by
  refine ⟨fun ws i h => encode_of_decodes (decodes_of_decode h), fun w rest i h0 hop h => ?_, fun w rest i h0 hrow h => ?_⟩
  · obtain ⟨r, hr⟩ := row_of_decodes h0 (decodes_of_decode h)
    obtain ⟨hne, hlt⟩ := rowOf_range hr
    omega
  · obtain ⟨r, hr⟩ := row_of_decodes h0 (decodes_of_decode h)
    rw [hrow] at hr
    cases hr

/-- The words of a well-formed instruction decode to it, nothing standing behind them. -/
theorem decode_of_encode {ws : List Word32} {i : Instr} (he : encode i = ws) (hw : i.wf = true) (hi : i.isCore = true) :
    decode ws = .ok i := by
  rw [← he, ← List.append_nil (encode i)]
  exact decodeOfEncodeIsTheInstruction i [] hw hi

/-- Settles O2, from O3: the words written out are the encodings of their instructions, which are well formed. -/
theorem specExampleWordsDecode : Obligations.SpecExampleWordsDecode := by
  refine ⟨decode_of_encode ?_ ?_ ?_, decode_of_encode ?_ ?_ ?_, decode_of_encode ?_ ?_ ?_, decode_of_encode ?_ ?_ ?_,
    decode_of_encode ?_ ?_ ?_, decode_of_encode ?_ ?_ ?_, decode_of_encode ?_ ?_ ?_, decode_of_encode ?_ ?_ ?_,
    decode_of_encode ?_ ?_ ?_, decode_of_encode ?_ ?_ ?_, decode_of_encode ?_ ?_ ?_, decode_of_encode ?_ ?_ ?_,
    decode_of_encode ?_ ?_ ?_, decode_of_encode ?_ ?_ ?_, decode_of_encode ?_ ?_ ?_, decode_of_encode ?_ ?_ ?_, rfl⟩
  all_goals decide

end Sys2Proof.Machine
end

section
/-! SUPPORT and PROOFS. Codes without their sign as multiples of powers of two, the neighbours between which Round chooses (R133, R315),
and O23. -/

namespace Sys2Proof.Machine

/-! ### A code without its sign -/

/-- The fraction of a code without its sign, with the leading one of a normal number (R307). -/
def Fmt.sig (f : Fmt) (k : Nat) : Nat := if k < 2 ^ f.mb then k else k % 2 ^ f.mb + 2 ^ f.mb

/-- By how much its exponent lies above that of the least subnormal. -/
def Fmt.exp (f : Fmt) (k : Nat) : Nat := k / 2 ^ f.mb - 1

/-- Its magnitude as a multiple of the least subnormal. -/
def Fmt.ulps (f : Fmt) (k : Nat) : Nat := f.sig k * 2 ^ f.exp k

/-- What the formats of R111 have in common; those whose highest exponent holds finite values are E4M3 and E2M1. -/
structure Fmt.Regular (f : Fmt) : Prop where
  mb_pos : 1 ≤ f.mb
  two_le_eb : 2 ≤ f.eb
  of_top : f.top = true → f = ⟨4, 3, true⟩ ∨ f = ⟨2, 1, true⟩

theorem regular_fmtOf {code : Nat} (h : code ∈ [1, 2, 3, 4, 5, 6, 11]) : (fmtOf code).Regular := by
  fin_cases h <;> constructor <;> decide

section Codes
variable {f : Fmt}

theorem Fmt.sig_lt (k : Nat) : f.sig k < 2 ^ (f.mb + 1) := by
  have := Nat.mod_lt k (Nat.two_pow_pos f.mb)
  unfold Fmt.sig
  split <;> omega

theorem Fmt.exp_eq_zero_or (k : Nat) : f.exp k = 0 ∨ 2 ^ f.mb ≤ f.sig k := by
  unfold Fmt.exp Fmt.sig
  by_cases h : k < 2 ^ f.mb
  · left; simp [Nat.div_eq_of_lt h]
  · right; simp [h]

theorem Fmt.exp_sig (k : Nat) : f.exp k * 2 ^ f.mb + f.sig k = k := by
  unfold Fmt.exp Fmt.sig
  by_cases h : k < 2 ^ f.mb
  · simp [h, Nat.div_eq_of_lt h]
  · have h1 : 1 ≤ k / 2 ^ f.mb := Nat.div_pos (Nat.le_of_not_lt h) (Nat.two_pow_pos _)
    have h2 := Nat.div_add_mod' k (2 ^ f.mb)
    rw [if_neg h, Nat.sub_mul, one_mul]
    have := Nat.mul_le_mul_right (2 ^ f.mb) h1
    omega

/-- A fraction and an exponent in their ranges are those of one code. -/
theorem Fmt.ulps_code {d r : Nat} (hr : r < 2 ^ (f.mb + 1)) (hd : d = 0 ∨ 2 ^ f.mb ≤ r) :
    f.ulps (d * 2 ^ f.mb + r) = r * 2 ^ d := by
  have hp := Nat.two_pow_pos f.mb
  by_cases h : r < 2 ^ f.mb
  · obtain rfl : d = 0 := by omega
    simp [Fmt.ulps, Fmt.sig, Fmt.exp, h, Nat.div_eq_of_lt h]
  · obtain ⟨t, rfl⟩ := Nat.exists_eq_add_of_le (Nat.le_of_not_lt h)
    have ht : t < 2 ^ f.mb := by omega
    have hk : d * 2 ^ f.mb + (2 ^ f.mb + t) = t + 2 ^ f.mb * (d + 1) := by ring
    have hdiv : (t + 2 ^ f.mb * (d + 1)) / 2 ^ f.mb = d + 1 := by
      rw [Nat.add_mul_div_left _ _ hp, Nat.div_eq_of_lt ht, zero_add]
    have hge : ¬ t + 2 ^ f.mb * (d + 1) < 2 ^ f.mb := by nlinarith
    rw [hk]
    simp [Fmt.ulps, Fmt.sig, Fmt.exp, hdiv, hge, Nat.mod_eq_of_lt ht, Nat.add_comm]

/-- Between n and n + 1 steps of one exponent there is no code, if n is not below the codes of that exponent. -/
theorem Fmt.ulps_le_or_le {n d : Nat} (k : Nat) (hn : d = 0 ∨ 2 ^ f.mb ≤ n) :
    f.ulps k ≤ n * 2 ^ d ∨ (n + 1) * 2 ^ d ≤ f.ulps k := by
  unfold Fmt.ulps
  by_cases hd : d ≤ f.exp k
  · obtain ⟨j, hj⟩ := Nat.exists_eq_add_of_le hd
    have : f.sig k * 2 ^ f.exp k = f.sig k * 2 ^ j * 2 ^ d := by rw [hj]; ring
    rw [this]
    rcases Nat.lt_or_ge n (f.sig k * 2 ^ j) with h | h
    · exact .inr (Nat.mul_le_mul_right _ h)
    · exact .inl (Nat.mul_le_mul_right _ h)
  · left
    have hd' : f.exp k + 1 ≤ d := by omega
    have hn : 2 ^ f.mb ≤ n := by omega
    calc f.sig k * 2 ^ f.exp k ≤ 2 ^ (f.mb + 1) * 2 ^ f.exp k := Nat.mul_le_mul_right _ (Fmt.sig_lt k).le
      _ = 2 ^ f.mb * 2 ^ (f.exp k + 1) := by ring
      _ ≤ n * 2 ^ d := Nat.mul_le_mul hn (Nat.pow_le_pow_right (by norm_num) hd')

/-- Codes are in the order of their magnitudes. -/
theorem Fmt.ulps_strictMono : StrictMono f.ulps := by
  intro j k h
  have hj := Fmt.exp_sig (f := f) j
  have hk := Fmt.exp_sig (f := f) k
  have ltj := Fmt.sig_lt (f := f) j
  have ltk := Fmt.sig_lt (f := f) k
  have hpow := pow_succ 2 f.mb
  unfold Fmt.ulps
  rcases Nat.lt_trichotomy (f.exp j) (f.exp k) with he | he | he
  · have hs : 2 ^ f.mb ≤ f.sig k := (Fmt.exp_eq_zero_or k).resolve_left (by omega)
    calc f.sig j * 2 ^ f.exp j < 2 ^ (f.mb + 1) * 2 ^ f.exp j := Nat.mul_lt_mul_of_pos_right ltj (Nat.two_pow_pos _)
      _ = 2 ^ f.mb * 2 ^ (f.exp j + 1) := by ring
      _ ≤ f.sig k * 2 ^ f.exp k := Nat.mul_le_mul hs (Nat.pow_le_pow_right (by norm_num) he)
  · rw [he] at hj ⊢
    exact Nat.mul_lt_mul_of_pos_right (by omega) (Nat.two_pow_pos _)
  · have hs : 2 ^ f.mb ≤ f.sig j := (Fmt.exp_eq_zero_or j).resolve_left (by omega)
    have := Nat.mul_le_mul_right (2 ^ f.mb) (show f.exp k + 1 ≤ f.exp j from he)
    rw [Nat.add_mul, one_mul] at this
    omega

/-! ### Codes as values (R308 to R311) -/

theorem Fmt.Regular.two_pow_le_maxBits (hf : f.Regular) : 2 ^ f.mb ≤ f.maxBits := by
  cases ht : f.top with
  | true => rcases hf.of_top ht with rfl | rfl <;> decide
  | false =>
    have h4 : 2 ^ 2 ≤ 2 ^ f.eb := Nat.pow_le_pow_right (by norm_num) hf.two_le_eb
    have := Nat.mul_le_mul_right (2 ^ f.mb) (show 2 + 1 ≤ 2 ^ f.eb - 1 by omega)
    have := Nat.two_pow_pos f.mb
    simp only [Fmt.maxBits, ht, Bool.false_eq_true, if_false]
    omega

theorem Fmt.Regular.maxBits_lt (hf : f.Regular) : f.maxBits < 2 ^ (f.eb + f.mb) := by
  cases ht : f.top with
  | true => rcases hf.of_top ht with rfl | rfl <;> decide
  | false =>
    have := Nat.two_pow_pos f.mb
    have := Nat.two_pow_pos f.eb
    simp only [Fmt.maxBits, ht, Bool.false_eq_true, if_false, pow_add, Nat.sub_mul, one_mul]
    have := Nat.le_mul_of_pos_left (2 ^ f.mb) (Nat.two_pow_pos f.eb)
    omega

/-- The exponent field of a code. -/
theorem Fmt.bits_exponent (x : Nat) (h : 1 ≤ f.eb) :
    bits x (f.eb + f.mb - 1) f.mb = x % 2 ^ (f.eb + f.mb) / 2 ^ f.mb := by
  unfold bits
  rw [Nat.shiftRight_eq_div_pow, show f.eb + f.mb - 1 + 1 - f.mb = f.eb by omega, Nat.add_comm f.eb, pow_add,
    Nat.mod_mul_right_div_self]

/-- A finite code by its parts. -/
theorem fin_parts (k : Nat) (neg : Bool) : (if k / 2 ^ f.mb = 0 then FV.fin neg (k % 2 ^ f.mb) f.emin
      else .fin neg (k % 2 ^ f.mb + 2 ^ f.mb) (f.emin + (k / 2 ^ f.mb : Nat) - 1)) =
    .fin neg (f.sig k) (f.emin + (f.exp k : Nat)) := by
  have h0 : k / 2 ^ f.mb = 0 ↔ k < 2 ^ f.mb := by simp
  unfold Fmt.sig Fmt.exp
  split
  · rename_i h
    rw [h, if_pos (h0.1 h), Nat.mod_eq_of_lt (h0.1 h)]
    simp
  · rename_i h
    rw [if_neg (fun hk => h (h0.2 hk)), Nat.cast_sub (Nat.pos_of_ne_zero h)]
    congr 1
    push_cast
    ring

/-- The codes up to the largest finite one are finite, and they alone. -/
theorem unpack_eq (hf : f.Regular) (x : Nat) : ∃ v, (∀ n m e, v ≠ FV.fin n m e) ∧
    unpack f x = if x % 2 ^ (f.eb + f.mb) ≤ f.maxBits then
      .fin (x.testBit (f.eb + f.mb)) (f.sig (x % 2 ^ (f.eb + f.mb))) (f.emin + (f.exp (x % 2 ^ (f.eb + f.mb)) : Nat))
      else v := by
  have hm : x % 2 ^ f.mb = x % 2 ^ (f.eb + f.mb) % 2 ^ f.mb :=
    (Nat.mod_mod_of_dvd _ (Nat.pow_dvd_pow 2 (Nat.le_add_left _ _))).symm
  have hk := Nat.mod_lt x (Nat.two_pow_pos (f.eb + f.mb))
  have h2 := hf.two_le_eb
  simp only [unpack, Fmt.bits_exponent x (by omega : 1 ≤ f.eb), hm, fin_parts]
  generalize x % 2 ^ (f.eb + f.mb) = k at hk
  generalize x.testBit (f.eb + f.mb) = neg
  cases ht : f.top with
  | true =>
    refine ⟨.nan false, by simp, ?_⟩
    have hmax : (f.eb = 4 ∧ k / 2 ^ f.mb = 15 ∧ k % 2 ^ f.mb = 7) ↔ ¬ k ≤ f.maxBits := by
      rcases hf.of_top ht with rfl | rfl <;> simp [Fmt.maxBits] at hk ⊢ <;> omega
    simp only [hmax, if_true, ite_not]
  | false =>
    have hmax : k / 2 ^ f.mb = 2 ^ f.eb - 1 ↔ ¬ k ≤ f.maxBits := by
      have hlt : k / 2 ^ f.mb < 2 ^ f.eb := by
        rw [Nat.div_lt_iff_lt_mul (Nat.two_pow_pos _), ← pow_add]
        exact hk
      have hle : k / 2 ^ f.mb < 2 ^ f.eb - 1 ↔ k < (2 ^ f.eb - 1) * 2 ^ f.mb := Nat.div_lt_iff_lt_mul (Nat.two_pow_pos _)
      have hmb : f.maxBits = (2 ^ f.eb - 1) * 2 ^ f.mb - 1 := by simp [Fmt.maxBits, ht]
      have := hf.two_pow_le_maxBits
      have := Nat.two_pow_pos f.mb
      omega
    simp only [hmax, Bool.false_eq_true, if_false, ite_not]
    refine ⟨_, ?_, rfl⟩
    split <;> simp

theorem unpack_of_le_maxBits (hf : f.Regular) {x : Nat} (h : x % 2 ^ (f.eb + f.mb) ≤ f.maxBits) :
    unpack f x = .fin (x.testBit (f.eb + f.mb)) (f.sig (x % 2 ^ (f.eb + f.mb)))
      (f.emin + (f.exp (x % 2 ^ (f.eb + f.mb)) : Nat)) := by
  obtain ⟨v, -, hv⟩ := unpack_eq hf x
  rw [hv, if_pos h]

/-- The value of a finite code. -/
theorem rat_unpack (hf : f.Regular) {x : Nat} (h : ∃ n m e, unpack f x = .fin n m e) :
    (unpack f x).rat = (if x.testBit (f.eb + f.mb) then -1 else 1) * ((f.ulps (x % 2 ^ (f.eb + f.mb)) : Nat) * 2 ^ f.emin) := by
  obtain ⟨v, hv, hx⟩ := unpack_eq hf x
  obtain ⟨n, m, e, h⟩ := h
  rw [hx] at h ⊢
  split at h
  · rename_i hle
    rw [if_pos hle]
    simp only [FV.rat, Fmt.ulps, Nat.cast_mul, Nat.cast_pow, Nat.cast_ofNat, zpow_add₀ (two_ne_zero' ℚ), zpow_natCast]
    ring
  · exact absurd h (hv n m e)

end Codes

/-! ### The steps of Round (R315) -/

theorem splitAt_rem_lt (m : Nat) (e q : Int) : (splitAt m e q).2.1 < 2 ^ (splitAt m e q).2.2 := by
  unfold splitAt
  split
  · exact Nat.one_pos
  · exact Nat.mod_lt _ (Nat.two_pow_pos _)

/-- Quotient and remainder make up the value. -/
theorem splitAt_value (m : Nat) (e q : Int) :
    (((splitAt m e q).1 : ℚ) + (splitAt m e q).2.1 / 2 ^ (splitAt m e q).2.2) * 2 ^ q = m * 2 ^ e := by
  unfold splitAt
  split
  · rename_i h
    have he : e = ((e - q).toNat : Int) + q := by omega
    generalize (e - q).toNat = j at he
    subst he
    simp [zpow_add₀ (two_ne_zero' ℚ), mul_assoc]
  · rename_i h
    have hq : q = ((q - e).toNat : Int) + e := by omega
    generalize (q - e).toNat = j at hq
    subst hq
    have hj : (2 : ℚ) ^ j ≠ 0 := by positivity
    have hm : ((m / 2 ^ j : Nat) : ℚ) * 2 ^ j + ((m % 2 ^ j : Nat) : ℚ) = m := by exact_mod_cast Nat.div_add_mod' m (2 ^ j)
    rw [zpow_add₀ (two_ne_zero' ℚ), zpow_natCast, ← hm]
    field_simp

/-- The neighbour that a mode chooses of n and n + 1, for n + rem / 2^sh. -/
structure Chosen (mode : Nat) (neg : Bool) (n rem sh r : Nat) : Prop where
  eq_or : r = n ∨ r = n + 1
  exact_ : rem = 0 → r = n
  below : mode = 0 → r = n → 2 * rem ≤ 2 ^ sh
  above : mode = 0 → r = n + 1 → 2 ^ sh ≤ 2 * rem
  even : mode = 0 → 2 * rem = 2 ^ sh → r % 2 = 0
  truncates : mode = 1 ∨ mode = 2 ∧ neg = true ∨ mode = 3 ∧ neg = false → r = n
  away : mode = 2 ∧ neg = false ∨ mode = 3 ∧ neg = true → rem ≠ 0 → r = n + 1

theorem chosen_roundInt {mode : Nat} (neg : Bool) (n sh : Nat) {rem : Nat} (h : mode < 4) :
    Chosen mode neg n rem sh (roundInt mode neg 0 n rem sh) := by
  have hp := Nat.two_pow_pos sh
  interval_cases mode <;> constructor <;> grind [roundInt]

/-- The exponent of the last place of m × 2^e in a format (R315). -/
def Fmt.lastPlace (f : Fmt) (m : Nat) (e : Int) : Int := max f.emin (e + (Nat.log2 m + 1 : Nat) - (f.mb + 1 : Nat))

/-- The code that Round gives for r steps of the last place: a carry goes into the exponent. -/
def Fmt.codeAt (f : Fmt) (q : Int) (r : Nat) : Nat := (q - f.emin).toNat * 2 ^ f.mb + r

/-- m × 2^e exceeds the largest finite value. -/
def Fmt.tooLarge (f : Fmt) (m : Nat) (e : Int) : Bool :=
  let a := f.maxBits % 2 ^ f.mb + 2 ^ f.mb
  let b : Int := f.emin + (f.maxBits / 2 ^ f.mb : Nat) - 1
  if b ≤ e then decide (a < m * 2 ^ (e - b).toNat) else decide (a * 2 ^ (b - e).toNat < m)

theorem codeAt_carry {f : Fmt} {q : Int} {r : Nat} (hq : f.emin ≤ q) :
    (let p : Nat × Int := if r = 2 ^ (f.mb + 1) then (r / 2, q + 1) else (r, q)
     (p.2 - f.emin).toNat * 2 ^ f.mb + p.1) = f.codeAt q r := by
  unfold Fmt.codeAt
  split
  · rename_i h
    have : (q + 1 - f.emin).toNat = (q - f.emin).toNat + 1 := by omega
    simp only [this, h, pow_succ]
    rw [Nat.mul_div_cancel _ two_pos]
    ring
  · rfl

theorem not_of_ite_flag {c : Prop} [Decidable c] {a b : Nat × Nat} {n : Nat} (ha : a.2 &&& n ≠ 0)
    (h : (if c then a else b).2 &&& n = 0) : ¬ c := fun hc => ha (by rwa [if_pos hc] at h)

/-- Of INX and UNF only INX has the lowest bit. -/
theorem flags_and_one (i u : Bool) : ((if i then fINX else 0) + if i && u then fUNF else 0) &&& 1 = 0 ↔ i = false := by
  cases i <;> cases u <;> decide

/-- Round without overflow, step by step. -/
theorem roundTo_eq {f : Fmt} {mode m : Nat} {neg : Bool} {e : Int} (hmode : mode < 4) (hm : m ≠ 0)
    (h : (roundTo f mode 0 neg m e).2 &&& 4 = 0) :
    let t := splitAt m e (f.lastPlace m e)
    let k := f.codeAt (f.lastPlace m e) (roundInt mode neg 0 t.1 t.2.1 t.2.2)
    (if f.top then f.tooLarge m e = false else k ≤ f.maxBits) ∧
      (roundTo f mode 0 neg m e).1 = (if neg then 2 ^ (f.eb + f.mb) else 0) + k ∧
      ((roundTo f mode 0 neg m e).2 &&& 1 = 0 ↔ t.2.1 = 0) := by
  have hmode4 : (mode == 4) = false := by simpa using (by omega : mode ≠ 4)
  have hq : f.emin ≤ f.lastPlace m e := le_max_left _ _
  have hcarry := fun r => codeAt_carry (r := r) hq
  unfold roundTo at h ⊢
  rw [if_neg hm] at h ⊢
  simp only [hmode4, Bool.or_false] at h ⊢
  rw [show max f.emin (e + (Nat.log2 m + 1 : Nat) - (f.mb + 1 : Nat)) = f.lastPlace m e from rfl] at h ⊢
  simp only [hcarry] at h ⊢
  have hovf := not_of_ite_flag (show (fOVF + fINX) &&& 4 ≠ 0 by decide) h
  rw [if_neg hovf]
  refine ⟨?_, rfl, (flags_and_one _ _).trans (by simp)⟩
  split at hovf
  · rename_i ht
    rw [if_pos ht]
    exact Bool.eq_false_of_not_eq_true hovf
  · rename_i ht
    rw [if_neg ht]
    simpa using hovf

/-- Round's integer part and its fraction, of the value in steps of the last place, lie where the format has its codes. -/
structure Steps (f : Fmt) (m : Nat) (e : Int) (d n rem sh : Nat) : Prop where
  value : (m : ℚ) * 2 ^ e = (n + rem / 2 ^ sh) * 2 ^ d * 2 ^ f.emin
  rem_lt : rem < 2 ^ sh
  lt : n < 2 ^ (f.mb + 1)
  adjacent : d = 0 ∨ 2 ^ f.mb ≤ n

theorem steps_splitAt {f : Fmt} {m : Nat} (e : Int) (hm : m ≠ 0) :
    let q := f.lastPlace m e
    let t := splitAt m e q
    Steps f m e (q - f.emin).toNat t.1 t.2.1 t.2.2 := by
  intro q t
  have hrem : t.2.1 < 2 ^ t.2.2 := splitAt_rem_lt m e q
  have hq : q = f.emin + ((q - f.emin).toNat : Int) := by
    have : f.emin ≤ q := le_max_left _ _
    omega
  have hfrac0 : (0 : ℚ) ≤ t.2.1 / 2 ^ t.2.2 := by positivity
  have hfrac1 : (t.2.1 : ℚ) / 2 ^ t.2.2 < 1 := by
    rw [div_lt_one (by positivity)]
    exact_mod_cast hrem
  have hval : ((t.1 : ℚ) + t.2.1 / 2 ^ t.2.2) * 2 ^ q = m * 2 ^ e := splitAt_value m e q
  have hlog : (2 : ℚ) ^ (Nat.log2 m) ≤ m := by exact_mod_cast Nat.log2_self_le hm
  have hlog' : (m : ℚ) < 2 ^ (Nat.log2 m + 1) := by exact_mod_cast Nat.lt_log2_self
  have h2e : (0 : ℚ) < 2 ^ e := by positivity
  have h2q : (0 : ℚ) < 2 ^ q := by positivity
  refine ⟨?_, hrem, ?_, ?_⟩
  · rw [← hval, mul_assoc, ← zpow_natCast 2 (q - f.emin).toNat, ← zpow_add₀ (two_ne_zero' ℚ), add_comm _ f.emin, ← hq]
  · have hle : e + (Nat.log2 m + 1 : Nat) ≤ q + (f.mb + 1 : Nat) := by
      have : e + (Nat.log2 m + 1 : Nat) - (f.mb + 1 : Nat) ≤ q := le_max_right _ _
      omega
    have hpow : (2 : ℚ) ^ e * 2 ^ (Nat.log2 m + 1) ≤ 2 ^ q * 2 ^ (f.mb + 1) := by
      rw [← zpow_natCast, ← zpow_natCast, ← zpow_add₀ (two_ne_zero' ℚ), ← zpow_add₀ (two_ne_zero' ℚ)]
      exact zpow_le_zpow_right₀ (by norm_num) hle
    have : (t.1 : ℚ) < 2 ^ (f.mb + 1) := by
      by_contra hge
      nlinarith
    exact_mod_cast this
  · by_cases hd : (q - f.emin).toNat = 0
    · exact .inl hd
    · right
      have hqu : q = e + (Nat.log2 m + 1 : Nat) - (f.mb + 1 : Nat) := by
        rcases max_choice f.emin (e + (Nat.log2 m + 1 : Nat) - (f.mb + 1 : Nat)) with h | h
        · exact absurd (show q = f.emin from h) (by omega)
        · exact h
      have hpow : (2 : ℚ) ^ e * 2 ^ Nat.log2 m = 2 ^ q * 2 ^ f.mb := by
        rw [← zpow_natCast, ← zpow_natCast, ← zpow_add₀ (two_ne_zero' ℚ), ← zpow_add₀ (two_ne_zero' ℚ)]
        congr 1
        omega
      have : (2 : ℚ) ^ f.mb < t.1 + 1 := by
        by_contra hge
        nlinarith
      have : 2 ^ f.mb < t.1 + 1 := by exact_mod_cast this
      omega

/-- What does not exceed the largest finite value. -/
theorem value_le_of_tooLarge {f : Fmt} (hf : f.Regular) {m : Nat} {e : Int} (h : f.tooLarge m e = false) :
    (m : ℚ) * 2 ^ e ≤ (f.ulps f.maxBits : ℚ) * 2 ^ f.emin := by
  have hpos : 1 ≤ f.maxBits / 2 ^ f.mb := Nat.div_pos hf.two_pow_le_maxBits (Nat.two_pow_pos _)
  have hmax : (f.ulps f.maxBits : ℚ) * 2 ^ f.emin =
      (f.maxBits % 2 ^ f.mb + 2 ^ f.mb : Nat) * 2 ^ (f.emin + (f.maxBits / 2 ^ f.mb : Nat) - 1) := by
    rw [Fmt.ulps, Fmt.sig, Fmt.exp, if_neg (Nat.not_lt.mpr hf.two_pow_le_maxBits), Nat.cast_mul, Nat.cast_pow, mul_assoc,
      Nat.cast_ofNat, ← zpow_natCast, ← zpow_add₀ (two_ne_zero' ℚ)]
    congr 2
    omega
  rw [hmax]
  unfold Fmt.tooLarge at h
  generalize f.maxBits % 2 ^ f.mb + 2 ^ f.mb = a at h
  generalize f.emin + (f.maxBits / 2 ^ f.mb : Nat) - 1 = b at h
  simp only at h
  split at h
  · have he : e = b + ((e - b).toNat : Int) := by omega
    have hle : m * 2 ^ (e - b).toNat ≤ a := by simpa using h
    calc (m : ℚ) * 2 ^ e = (m * 2 ^ (e - b).toNat : Nat) * 2 ^ b := by
          rw [he, zpow_add₀ (two_ne_zero' ℚ), zpow_natCast, ← he]; push_cast; ring
      _ ≤ a * 2 ^ b := by gcongr
  · have hb : b = e + ((b - e).toNat : Int) := by omega
    have hle : m ≤ a * 2 ^ (b - e).toNat := by simpa using h
    calc (m : ℚ) * 2 ^ e ≤ (a * 2 ^ (b - e).toNat : Nat) * 2 ^ e := by gcongr
      _ = a * 2 ^ b := by rw [hb, zpow_add₀ (two_ne_zero' ℚ), zpow_natCast, ← hb]; push_cast; ring

/-- What Round gives where it does not overflow: `n` and `n + 1` steps of 2^d least subnormals are the neighbours of the value, `r`
is the one chosen and `k` its code. -/
structure Rounded (f : Fmt) (mode : Nat) (neg : Bool) (m : Nat) (e : Int) (res : Nat × Nat) (d n rem sh r k : Nat) : Prop
    extends Steps f m e d n rem sh where
  chosen : Chosen mode neg n rem sh r
  ulps : f.ulps k = r * 2 ^ d
  finite : k ≤ f.maxBits
  even : r % 2 = 0 → k % 2 = 0
  code : res.1 = (if neg then 2 ^ (f.eb + f.mb) else 0) + k
  inexact : res.2 &&& 1 = 0 ↔ rem = 0

theorem Chosen.exactly (mode : Nat) (neg : Bool) : Chosen mode neg 0 0 0 0 := by
  constructor <;> simp

/-- A carry into the exponent gives the code of the next exponent's least fraction. -/
theorem Fmt.ulps_codeAt {f : Fmt} {d r : Nat} (hr : r ≤ 2 ^ (f.mb + 1)) (hd : d = 0 ∨ 2 ^ f.mb ≤ r) :
    f.ulps (d * 2 ^ f.mb + r) = r * 2 ^ d := by
  rcases hr.lt_or_eq with hlt | rfl
  · exact Fmt.ulps_code hlt hd
  · have := Fmt.ulps_code (f := f) (d := d + 1) (r := 2 ^ f.mb) (Nat.pow_lt_pow_right (by norm_num) (by omega)) (.inr le_rfl)
    rw [show d * 2 ^ f.mb + 2 ^ (f.mb + 1) = (d + 1) * 2 ^ f.mb + 2 ^ f.mb by ring, this]
    ring

theorem rounded_roundTo {f : Fmt} (hf : f.Regular) {mode m : Nat} {neg : Bool} {e : Int} (hmode : mode < 4)
    (h : (roundTo f mode 0 neg m e).2 &&& 4 = 0) :
    ∃ d n rem sh r k, Rounded f mode neg m e (roundTo f mode 0 neg m e) d n rem sh r k := by
  by_cases hm : m = 0
  · subst hm
    exact ⟨0, 0, 0, 0, 0, 0, ⟨⟨by simp, by simp, by positivity, .inl rfl⟩, .exactly _ _, by simp [Fmt.ulps, Fmt.sig],
      Nat.zero_le _, id, by simp [roundTo], by simp [roundTo]⟩⟩
  · have st := steps_splitAt (f := f) e hm
    obtain ⟨hmax, hcode, hinexact⟩ := roundTo_eq hmode hm h
    simp only [Fmt.codeAt] at st hmax hcode hinexact
    generalize splitAt m e (f.lastPlace m e) = t at st hmax hcode hinexact
    generalize (f.lastPlace m e - f.emin).toNat = d at st hmax hcode
    have ch := chosen_roundInt neg t.1 t.2.2 (rem := t.2.1) hmode
    generalize roundInt mode neg 0 t.1 t.2.1 t.2.2 = r at ch hmax hcode
    have hr := ch.eq_or
    have hlt := st.lt
    have hulps : f.ulps (d * 2 ^ f.mb + r) = r * 2 ^ d := Fmt.ulps_codeAt (by omega) (st.adjacent.imp_right (by omega))
    refine ⟨d, t.1, t.2.1, t.2.2, r, d * 2 ^ f.mb + r, ⟨st, ch, hulps, ?_, ?_, hcode, hinexact⟩⟩
    · split at hmax
      · refine (Fmt.ulps_strictMono (f := f)).le_iff_le.1 ?_
        have hle := value_le_of_tooLarge hf hmax
        rw [st.value] at hle
        have hle : ((t.1 : ℚ) + t.2.1 / 2 ^ t.2.2) * 2 ^ d ≤ f.ulps f.maxBits := le_of_mul_le_mul_right hle (by positivity)
        rw [hulps]
        rcases Fmt.ulps_le_or_le (n := t.1) (d := d) f.maxBits st.adjacent with hmx | hmx
        · have hmx : (f.ulps f.maxBits : ℚ) ≤ t.1 * 2 ^ d := by exact_mod_cast hmx
          have h2d : (0 : ℚ) < 2 ^ d := by positivity
          have : (t.2.1 : ℚ) / 2 ^ t.2.2 ≤ 0 := by nlinarith
          have hrem : t.2.1 = 0 := by
            rw [div_le_iff₀ (by positivity), zero_mul] at this
            exact_mod_cast le_antisymm this (by positivity)
          rw [ch.exact_ hrem]
          rw [hrem] at hle
          have : (t.1 : ℚ) * 2 ^ d ≤ f.ulps f.maxBits := by simpa using hle
          exact_mod_cast this
        · exact (Nat.mul_le_mul_right _ (by omega)).trans hmx
      · exact hmax
    · intro hr
      have : 2 ∣ d * 2 ^ f.mb := (dvd_pow_self 2 (Nat.ne_of_gt hf.mb_pos)).mul_left d
      omega

/-! ### The neighbour chosen, among all values -/

/-- A value, in least subnormals, that does not lie between the neighbours n and n + 1 steps of 2^d. -/
def Beside (n d : Nat) (ζ : ℚ) : Prop := ζ ≤ n * 2 ^ d ∨ (n + 1) * 2 ^ d ≤ ζ

theorem Beside.of_abs {n d : Nat} {ζ : ℚ} (h : Beside n d |ζ|) : Beside n d ζ := by
  rcases le_total 0 ζ with h0 | h0
  · rwa [abs_of_nonneg h0] at h
  · exact .inl (h0.trans (by positivity))

section Chosen
variable {mode d n rem sh r : Nat} {neg : Bool} {ζ : ℚ}

theorem frac_lt_one (h : rem < 2 ^ sh) : (rem : ℚ) / 2 ^ sh < 1 := by
  rw [div_lt_one (by positivity)]
  exact_mod_cast h

/-- Toward zero, no value lies between what is rounded and the result. -/
theorem Chosen.of_truncates (ch : Chosen mode neg n rem sh r) (hrem : rem < 2 ^ sh)
    (hm : mode = 1 ∨ mode = 2 ∧ neg = true ∨ mode = 3 ∧ neg = false) (hζ : Beside n d ζ) :
    (r : ℚ) * 2 ^ d ≤ (n + rem / 2 ^ sh) * 2 ^ d ∧ (ζ ≤ (n + rem / 2 ^ sh) * 2 ^ d → ζ ≤ r * 2 ^ d) := by
  have h0 : (0 : ℚ) ≤ rem / 2 ^ sh := by positivity
  have h1 := frac_lt_one hrem
  have h2 : (0 : ℚ) < 2 ^ d := by positivity
  rw [ch.truncates hm]
  refine ⟨by nlinarith, fun h => hζ.resolve_right ?_⟩
  nlinarith

/-- Away from zero, no value lies between what is rounded and the result. -/
theorem Chosen.of_away (ch : Chosen mode neg n rem sh r) (hrem : rem < 2 ^ sh)
    (hm : mode = 2 ∧ neg = false ∨ mode = 3 ∧ neg = true) (hζ : Beside n d ζ) :
    ((n : ℚ) + rem / 2 ^ sh) * 2 ^ d ≤ r * 2 ^ d ∧ ((n + rem / 2 ^ sh) * 2 ^ d ≤ ζ → r * 2 ^ d ≤ ζ) := by
  have h1 := frac_lt_one hrem
  have h2 : (0 : ℚ) < 2 ^ d := by positivity
  by_cases h : rem = 0
  · rw [ch.exact_ h, h]
    simp
  · have h0 : (0 : ℚ) < rem / 2 ^ sh := by have := Nat.pos_of_ne_zero h; positivity
    rw [ch.away hm h]
    push_cast
    refine ⟨by nlinarith, fun h => hζ.resolve_left ?_⟩
    nlinarith

/-- To the nearest, no value is nearer than the result, and of two as near the result is the even one. -/
theorem Chosen.of_nearest (ch : Chosen mode neg n rem sh r) (hrem : rem < 2 ^ sh) (hm : mode = 0)
    (hζ : Beside n d ζ) :
    let ξ : ℚ := (n + rem / 2 ^ sh) * 2 ^ d
    |ξ - r * 2 ^ d| ≤ |ξ - ζ| ∧ (|ξ - r * 2 ^ d| = |ξ - ζ| → ζ ≠ r * 2 ^ d → r % 2 = 0) := by
  intro ξ
  have h1 := frac_lt_one hrem
  have h2 : (0 : ℚ) < 2 ^ d := by positivity
  have hsh : (0 : ℚ) < 2 ^ sh := by positivity
  obtain ⟨δ, hδ, hξ⟩ : ∃ δ : ℚ, δ = rem / 2 ^ sh * 2 ^ d ∧ ξ = n * 2 ^ d + δ := ⟨_, rfl, add_mul _ _ _⟩
  have hδ0 : 0 ≤ δ := by rw [hδ]; positivity
  have hδ1 : δ < 2 ^ d := by rw [hδ]; nlinarith
  have tie : 2 * δ = 2 ^ d → r % 2 = 0 := by
    intro h
    have : (2 : ℚ) * rem = 2 ^ sh := by
      rw [hδ] at h
      field_simp at h
      linarith
    exact ch.even hm (by exact_mod_cast this)
  rcases ch.eq_or with hr | hr
  · have hle : 2 * δ ≤ 2 ^ d := by
      have : (2 : ℚ) * rem ≤ 2 ^ sh := by exact_mod_cast ch.below hm hr
      rw [hδ, ← mul_assoc, mul_div_assoc']
      exact mul_le_of_le_one_left h2.le ((div_le_one hsh).2 this)
    rw [hr, hξ, add_sub_cancel_left, abs_of_nonneg hδ0]
    rcases hζ with hζ | hζ
    · rw [abs_of_nonneg (by linarith)]
      exact ⟨by linarith, fun h hne => absurd (by linarith) hne⟩
    · rw [abs_of_nonpos (by linarith)]
      exact ⟨by linarith, fun h _ => hr ▸ tie (by linarith)⟩
  · have hle : 2 ^ d ≤ 2 * δ := by
      have : (2 : ℚ) ^ sh ≤ 2 * rem := by exact_mod_cast ch.above hm hr
      rw [hδ, ← mul_assoc, mul_div_assoc']
      exact le_mul_of_one_le_left h2.le ((one_le_div hsh).2 this)
    have hy : ξ - (r : ℚ) * 2 ^ d = δ - 2 ^ d := by rw [hr, hξ]; push_cast; ring
    rw [hy, abs_of_nonpos (by linarith), hξ]
    have hr' : (r : ℚ) * 2 ^ d = (n + 1) * 2 ^ d := by rw [hr]; push_cast; ring
    rcases hζ with hζ | hζ
    · rw [abs_of_nonneg (by linarith)]
      exact ⟨by linarith, fun h _ => tie (by linarith)⟩
    · rw [abs_of_nonpos (by linarith)]
      exact ⟨by linarith, fun h hne => absurd (by linarith) hne⟩

/-- The result is the value itself just where no remainder is left. -/
theorem Chosen.eq_iff (ch : Chosen mode neg n rem sh r) (hrem : rem < 2 ^ sh) :
    (r : ℚ) * 2 ^ d = (n + rem / 2 ^ sh) * 2 ^ d ↔ rem = 0 := by
  rw [mul_left_inj' (by positivity)]
  constructor
  · intro h
    by_contra hne
    have h0 : (0 : ℚ) < rem / 2 ^ sh := by have := Nat.pos_of_ne_zero hne; positivity
    have h1 := frac_lt_one hrem
    rcases ch.eq_or with hr | hr
    · rw [hr] at h
      linarith
    · rw [hr] at h
      push_cast at h
      linarith
  · intro h
    simp [ch.exact_ h, h]

end Chosen

/-! ### The statement -/

/-- A sign, as a factor. -/
def signOf (neg : Bool) : ℚ := if neg then -1 else 1

theorem abs_signOf_mul (neg : Bool) (a : ℚ) : |signOf neg * a| = |a| := by
  cases neg <;> simp [signOf]

theorem abs_signOf_mul_sub (neg : Bool) {a b u : ℚ} (hu : 0 < u) : |signOf neg * (a * u) - signOf neg * (b * u)| = |a - b| * u := by
  rw [← mul_sub, ← sub_mul, abs_signOf_mul, abs_mul, abs_of_pos hu]

theorem signOf_mul_le (neg : Bool) {a b u : ℚ} (hu : 0 < u) :
    signOf neg * (a * u) ≤ signOf neg * (b * u) ↔ if neg then b ≤ a else a ≤ b := by
  cases neg <;> simp [signOf, hu]

section Values
variable {f : Fmt} {mode m d n rem sh r k : Nat} {neg : Bool} {e : Int} {res : Nat × Nat}

/-- The value of the code that Round gives. -/
theorem Rounded.rat_code (hf : f.Regular) (h : Rounded f mode neg m e res d n rem sh r k) :
    (unpack f res.1).rat = signOf neg * (r * 2 ^ d * 2 ^ f.emin) := by
  have hk : k < 2 ^ (f.eb + f.mb) := h.finite.trans_lt hf.maxBits_lt
  have hmod : res.1 % 2 ^ (f.eb + f.mb) = k := by
    rw [h.code]
    split
    · rw [Nat.add_mod_left, Nat.mod_eq_of_lt hk]
    · rw [zero_add, Nat.mod_eq_of_lt hk]
  have hbit : res.1.testBit (f.eb + f.mb) = neg := by
    rw [h.code]
    cases neg with
    | true => rw [if_pos rfl, Nat.testBit_two_pow_add_eq, Nat.testBit_lt_two_pow hk]; rfl
    | false => rw [if_neg Bool.false_ne_true, zero_add, Nat.testBit_lt_two_pow hk]
  rw [rat_unpack hf ⟨_, _, _, unpack_of_le_maxBits hf (hmod ▸ h.finite)⟩, hmod, hbit, h.ulps, signOf]
  push_cast
  rfl

theorem Rounded.even_code (hf : f.Regular) (h : Rounded f mode neg m e res d n rem sh r k) (hr : r % 2 = 0) : res.1 % 2 = 0 := by
  have h2 : 2 ∣ 2 ^ (f.eb + f.mb) := dvd_pow_self 2 (by have := hf.mb_pos; omega)
  have hk := h.even hr
  rw [h.code]
  split <;> omega

/-- Every value of the format stands on one side of both neighbours. -/
theorem Steps.beside (hf : f.Regular) (st : Steps f m e d n rem sh) {c q : Nat} {b : Bool} {p : Int} (neg : Bool)
    (h : unpack f c = .fin b q p) : ∃ ζ : ℚ, (unpack f c).rat = signOf neg * (ζ * 2 ^ f.emin) ∧ Beside n d |ζ| := by
  refine ⟨signOf neg * signOf (c.testBit (f.eb + f.mb)) * f.ulps (c % 2 ^ (f.eb + f.mb)), ?_, ?_⟩
  · have hsq : signOf neg * signOf neg = 1 := by cases neg <;> simp [signOf]
    rw [rat_unpack hf ⟨_, _, _, h⟩, mul_assoc, mul_assoc, ← mul_assoc (signOf neg) (signOf neg), hsq, one_mul, signOf]
  · rw [mul_assoc, abs_signOf_mul, abs_signOf_mul, Nat.abs_cast]
    exact (Fmt.ulps_le_or_le _ st.adjacent).imp (by intro h; exact_mod_cast h) (by intro h; exact_mod_cast h)

end Values

/-- Settles O23: the value lies between two neighbours, Round gives one of them as its mode says, and no value of the format lies
between them. -/
theorem roundingGivesTheNeighbourTheModeChooses : Obligations.RoundingGivesTheNeighbourTheModeChooses := by
  intro code mode neg m e hcode hmode f res x y hovf
  have hf : f.Regular := regular_fmtOf hcode
  obtain ⟨d, n, rem, sh, r, k, hr⟩ := rounded_roundTo hf hmode hovf
  have hu : (0 : ℚ) < 2 ^ f.emin := by positivity
  have hx : x = signOf neg * ((n + rem / 2 ^ sh) * 2 ^ d * 2 ^ f.emin) := by
    rw [← hr.value, ← mul_assoc, signOf]
  have hy : y = signOf neg * (r * 2 ^ d * 2 ^ f.emin) := hr.rat_code hf
  generalize hξ : ((n : ℚ) + rem / 2 ^ sh) * 2 ^ d = ξ at hx
  have hξ0 : 0 ≤ ξ := by rw [← hξ]; positivity
  have truncates := fun hm {ζ} => hr.chosen.of_truncates (ζ := ζ) (d := d) hr.rem_lt hm
  have away := fun hm {ζ} => hr.chosen.of_away (ζ := ζ) (d := d) hr.rem_lt hm
  have nearest := fun hm {ζ} => hr.chosen.of_nearest (ζ := ζ) (d := d) hr.rem_lt hm
  have exactly := hr.chosen.eq_iff (d := d) hr.rem_lt
  simp only [hξ] at truncates away nearest exactly
  have here : Beside n d (n * 2 ^ d) := .inl le_rfl
  refine ⟨?value, ?zero, ?up, ?down, ?exact⟩
  case value =>
    intro c b q p _ hc
    obtain ⟨ζ, hz, hζ⟩ := hr.beside hf neg hc
    rw [hx, hy, hz]
    refine ⟨fun hm => ?_, fun hm htie hne => ?_, fun hm hle => ?_, fun hm hle => ?_, fun hm hle => ?_⟩
    · rw [abs_signOf_mul_sub neg hu, abs_signOf_mul_sub neg hu]
      exact mul_le_mul_of_nonneg_right (nearest hm hζ.of_abs).1 hu.le
    · rw [abs_signOf_mul_sub neg hu, abs_signOf_mul_sub neg hu] at htie
      exact hr.even_code hf ((nearest hm hζ.of_abs).2 (mul_right_cancel₀ hu.ne' htie) fun h => hne (by rw [h]))
    · rw [abs_signOf_mul, abs_signOf_mul, abs_mul, abs_mul, abs_of_pos hu] at hle ⊢
      rw [abs_of_nonneg hξ0] at hle
      rw [abs_of_nonneg (by positivity : (0 : ℚ) ≤ r * 2 ^ d)]
      exact mul_le_mul_of_nonneg_right ((truncates (.inl hm) hζ).2 (le_of_mul_le_mul_right hle hu)) hu.le
    · rw [signOf_mul_le neg hu] at hle ⊢
      cases neg with
      | true => exact (truncates (.inr (.inl ⟨hm, rfl⟩)) hζ.of_abs).2 hle
      | false => exact (away (.inl ⟨hm, rfl⟩) hζ.of_abs).2 hle
    · rw [signOf_mul_le neg hu] at hle ⊢
      cases neg with
      | true => exact (away (.inr ⟨hm, rfl⟩) hζ.of_abs).2 hle
      | false => exact (truncates (.inr (.inr ⟨hm, rfl⟩)) hζ.of_abs).2 hle
  case zero =>
    intro hm
    rw [hx, hy, abs_signOf_mul, abs_signOf_mul, abs_of_nonneg (by positivity), abs_of_nonneg (by positivity)]
    exact mul_le_mul_of_nonneg_right (truncates (.inl hm) here).1 hu.le
  case up =>
    intro hm
    rw [hx, hy, signOf_mul_le neg hu]
    cases neg with
    | true => exact (truncates (.inr (.inl ⟨hm, rfl⟩)) here).1
    | false => exact (away (.inl ⟨hm, rfl⟩) here).1
  case down =>
    intro hm
    rw [hx, hy, signOf_mul_le neg hu]
    cases neg with
    | true => exact (away (.inr ⟨hm, rfl⟩) here).1
    | false => exact (truncates (.inr (.inr ⟨hm, rfl⟩)) here).1
  case exact =>
    have hs : signOf neg ≠ 0 := by cases neg <;> simp [signOf]
    rw [hr.inexact, ← exactly, hx, hy, mul_right_inj' hs, mul_left_inj' hu.ne']

end Sys2Proof.Machine
end

section
/-! SUPPORT and PROOFS. Code in the instruction cache as bytes and as words (R7, R100), the fetch and the issue of an instruction (R123),
and with them O5 and O6. -/

namespace Sys2Proof.Machine

/-! ### Code as bytes -/

/-- Byte j of words in ascending addresses, each little-endian (R7, R100). -/
def codeByte (ws : List Word32) (j : Nat) : Byte := (ws.getD (j / 4) 0).extractLsb' (8 * (j % 4)) 8

theorem natLE_eq_map (n x : Nat) : natLE n x = (List.range n).map fun j => BitVec.ofNat 8 (x >>> (8 * j)) := by
  induction n generalizing x with
  | zero => rfl
  | succ n ih =>
    rw [natLE, ih, List.range_succ_eq_map, List.map_cons, List.map_map]
    congr 1
    refine List.map_congr_left fun j _ => ?_
    simp only [Function.comp_apply, Nat.shiftRight_eq_div_pow, Nat.div_div_eq_div_mul]
    rw [show 8 * j.succ = 8 + 8 * j by omega, pow_add]
    rfl

/-- The bytes of a line, one by one. -/
theorem lineBytes_eq_map (l : Line) (o n : Nat) :
    lineBytes l o n = (List.range n).map fun j => l.extractLsb' (8 * (o + j)) 8 := by
  rw [lineBytes, natLE_eq_map]
  refine List.map_congr_left fun j _ => BitVec.eq_of_toNat_eq ?_
  rw [BitVec.extractLsb'_toNat, BitVec.toNat_ofNat, ← Nat.shiftRight_add, Nat.mul_add]

theorem word_of_bytes (w : Word32) :
    w.extractLsb' 24 8 ++ w.extractLsb' 16 8 ++ w.extractLsb' 8 8 ++ w.extractLsb' 0 8 = w := by
  refine BitVec.eq_of_toNat_eq ?_
  simp only [toNat_append_eq_add, BitVec.extractLsb'_toNat, Nat.shiftRight_eq_div_pow]
  omega

/-- The words that code's bytes give are the code's. -/
theorem wordsOfBytes_codeByte (ws : List Word32) (k n : Nat) :
    wordsOfBytes ((List.range' (4 * k) (4 * n)).map (codeByte ws)) = (List.range' k n).map (ws.getD · 0) := by
  induction n generalizing k with
  | zero => rfl
  | succ n ih =>
    have hb : ∀ j, j < 4 → codeByte ws (4 * k + j) = (ws.getD k 0).extractLsb' (8 * j) 8 := by
      intro j hj
      rw [codeByte, show (4 * k + j) / 4 = k by omega, show (4 * k + j) % 4 = j by omega]
    rw [show 4 * (n + 1) = 4 * n + 1 + 1 + 1 + 1 by omega]
    simp only [List.range'_succ, List.map_cons, wordsOfBytes]
    rw [← ih (k + 1), hb 1 (by omega), hb 2 (by omega), hb 3 (by omega), show codeByte ws (4 * k) = _ from hb 0 (by omega)]
    rw [word_of_bytes]
    rfl

theorem map_getD_range' (ws : List Word32) : (List.range' 0 ws.length).map (ws.getD · 0) = ws := by
  refine List.ext_getElem (by simp) fun i h1 h2 => ?_
  simp [h2]

/-! ### The fetch (R100, R123 step 1) -/

/-- A line in the instruction cache is fetched with nothing changed. -/
theorem fetchLine_cached {s : State} {c va : Nat} {l : Line} (h : Sparse.get none (s.core c).pl.icache (va / 64) = some l) :
    s.fetchLine c va = (s, .ok l) := by
  unfold State.fetchLine
  simp only [h]

/-- Bytes of code of which each stands in a cached line. -/
def CachedCode (k : Core) (va n : Nat) (b : Nat → Byte) : Prop :=
  ∀ j, j < n → ∃ l, Sparse.get none k.pl.icache ((va + j) / 64) = some l ∧ l.extractLsb' (8 * ((va + j) % 64)) 8 = b j

/-- A piece within one line. -/
theorem lineBytes_cached {k : Core} {va n p : Nat} {b : Nat → Byte} {l : Line} (h : CachedCode k va n b)
    (hl : Sparse.get none k.pl.icache (va / 64) = some l) (hp : p ≤ n) (hline : va % 64 + p ≤ 64) :
    lineBytes l (va % 64) p = (List.range p).map b := by
  rw [lineBytes_eq_map]
  refine List.map_congr_left fun j hj => ?_
  have hj := List.mem_range.1 hj
  obtain ⟨l', hl', hb⟩ := h j (by omega)
  rw [show (va + j) / 64 = va / 64 by omega, hl, Option.some.injEq] at hl'
  rw [← hb, ← hl', show (va + j) % 64 = va % 64 + j by omega]

theorem fetchPieces_cached {s : State} {c f va n : Nat} {b : Nat → Byte} (hf : n = 0 ∨ va % 64 + n ≤ 64 * f)
    (h : CachedCode (s.core c) va n b) : s.fetchPieces c (linePieces f va n) = (s, .ok ((List.range n).map b)) := by
  induction f generalizing va n b with
  | zero =>
    obtain rfl : n = 0 := by omega
    rfl
  | succ f ih =>
    by_cases hn : n = 0
    · subst hn; rfl
    · rw [linePieces, if_neg hn]
      extract_lets p
      have hp : p ≤ n := min_le_left _ _
      have hline : va % 64 + p ≤ 64 := by
        have : p ≤ 64 - va % 64 := min_le_right _ _
        omega
      have hrest : n - p = 0 ∨ (va + p) % 64 + (n - p) ≤ 64 * f := by
        rcases min_choice n (64 - va % 64) with hp | hp <;> simp only [p, hp] <;> omega
      obtain ⟨l, hl, -⟩ := h 0 (by omega)
      rw [Nat.add_zero] at hl
      have htail : CachedCode (s.core c) (va + p) (n - p) fun j => b (p + j) := by
        intro j hj
        rw [Nat.add_assoc]
        exact h (p + j) (by omega)
      rw [State.fetchPieces, fetchLine_cached hl]
      simp only [ih hrest htail, lineBytes_cached h hl hp hline]
      have hshift : (List.range (n - p)).map (fun j => b (p + j)) = ((List.range (n - p)).map (p + ·)).map b :=
        (List.map_map ..).symm
      rw [hshift, ← List.map_append, ← List.range_add, Nat.add_sub_cancel' hp]

/-- Code that stands at the pc is fetched, from the front, with nothing changed. -/
theorem fetchWords_of_codeAt {s : State} {ws : List Word32} {n : Nat} (h : CodeAt s ws) (hn : n ≤ ws.length) (h5 : n ≤ 5) :
    s.fetchWords s.cur s.me.pl.pc n = (s, .ok ((List.range n).map (ws.getD · 0))) := by
  unfold CodeAt at h
  unfold State.fetchWords
  change (if s.me.pl.sup then _ else _) = _
  split at h
  · rename_i hsup
    rw [if_pos hsup]
    congr 2
    refine List.map_congr_left fun j hj => h.2 j ?_
    exact (List.mem_range.1 hj).trans_le hn
  · rename_i hsup
    rw [if_neg hsup]
    dsimp only
    rw [fetchPieces_cached (b := codeByte ws) (.inr (by omega)) fun j hj => h j (by omega)]
    dsimp only
    rw [List.range_eq_range', List.range_eq_range', ← wordsOfBytes_codeByte ws 0 n]

/-! ### An instruction at the pc (R123 steps 1 and 2) -/

section Instruction
variable {s : State} {w : Word32} {ws : List Word32}

theorem wordCount_le (w : Word32) : 1 ≤ wordCount w ∧ wordCount w ≤ 5 := by
  unfold wordCount
  split <;> omega

/-- The number of words that an encoding's first word names is that of its words (R100). -/
theorem wordCount_encode {i : Instr} (h : i.isCore = true) : wordCount ((encode i).headD 0) = (encode i).length := by
  unfold encode
  cases hr : rawOf i with
  | nop => rfl
  | base op w => simp [wordCount]
  | ext op o =>
    rcases o with ⟨form, w, x, imm, lit⟩
    cases form <;> simp [encodeExt, wordCount]
  | event => simp [Instr.isCore, hr] at h

theorem encode_eq_cons {i : Instr} (h : i.isCore = true) : ∃ w ws, encode i = w :: ws ∧ (w :: ws).length = wordCount w := by
  have hlen := wordCount_encode h
  cases he : encode i with
  | nil =>
    rw [he] at hlen
    have := wordCount_le (([] : List Word32).headD 0)
    simp only [List.length_nil] at hlen
    omega
  | cons w ws =>
    rw [he] at hlen
    exact ⟨w, ws, rfl, hlen.symm⟩

theorem fetchWords_one (h : CodeAt s (w :: ws)) : s.fetchWords s.cur s.me.pl.pc 1 = (s, .ok [w]) :=
  fetchWords_of_codeAt h (by simp) (by omega)

theorem fetchWords_all (h : CodeAt s (w :: ws)) (hlen : (w :: ws).length = wordCount w) :
    s.fetchWords s.cur s.me.pl.pc (wordCount w) = (s, .ok (w :: ws)) := by
  have := wordCount_le w
  rw [fetchWords_of_codeAt h hlen.ge (by omega), List.range_eq_range', ← hlen, map_getD_range']

/-- A word beyond the end of the code (R100). -/
theorem fetchInstr_beyond (h : CodeAt s (w :: ws)) (hsize : s.codeSize s.cur s.me.pl.sup < s.me.pl.pc + 4 * wordCount w) :
    s.fetchInstr = (s, .trap 0x05 s.me.pl.pc) := by
  unfold State.fetchInstr
  dsimp only
  by_cases h4 : s.codeSize s.cur s.me.pl.sup < s.me.pl.pc + 4
  · rw [if_pos h4]
  · rw [if_neg h4, fetchWords_one h]
    exact if_pos hsize

section Within
variable (h : CodeAt s (w :: ws)) (hlen : (w :: ws).length = wordCount w)
  (hsize : s.me.pl.pc + 4 * wordCount w ≤ s.codeSize s.cur s.me.pl.sup)
include h hlen hsize

/-- Words within the code are decoded. -/
theorem fetchInstr_within : s.fetchInstr = match decode (w :: ws) with
    | .ok i => (s, .ok i)
    | .error _ => (s, .trap 0x01 w.toNat) := by
  have := wordCount_le w
  unfold State.fetchInstr
  dsimp only
  rw [if_neg (by omega), fetchWords_one h]
  refine (if_neg (Nat.not_lt.mpr hsize : ¬ s.codeSize s.cur s.me.pl.sup < s.me.pl.pc + 4 * wordCount w)).trans ?_
  rw [List.headD_cons, fetchWords_all h hlen]
  rfl

theorem fetchInstr_ok {i : Instr} (hd : decode (w :: ws) = .ok i) : s.fetchInstr = (s, .ok i) := by
  rw [fetchInstr_within h hlen hsize, hd]

theorem fetchInstr_illegal {e : DecodeError} (hd : decode (w :: ws) = .error e) : s.fetchInstr = (s, .trap 0x01 w.toNat) := by
  rw [fetchInstr_within h hlen hsize, hd]

end Within

/-! ### Issue (R123) -/

/-- A core that issues and whose code is its own, not the resident handler, fetches. -/
theorem issue_of_codeAt (hi : Issuing s) (h : CodeAt s ws) : s.issue = match s.fetchInstr with
    | (s, .ok i) => exec i s
    | (s, .trap cs v) => .next (s.trap cs v)
    | (s, .waits) => .next s := by
  obtain ⟨hpipe, hwaiti, htrap, hgo⟩ := hi
  have hres : ¬ (s.me.pl.sup && s.me.pl.resident) = true := by
    unfold CodeAt at h
    split at h
    · simp [h.1]
    · simp_all
  have hrun : ¬ (s.me.pl.pipe ≠ .run ∨ s.me.pl.waiti ∨ (s.me.pl.halted ∧ !s.me.pl.stepping ∧ !s.me.pl.sup)) := by
    rintro (h | h | ⟨h1, h2, h3⟩)
    · exact h hpipe
    · simp [hwaiti] at h
    · rcases hgo with hg | hg | hg <;> simp_all
  unfold State.issue
  dsimp only
  rw [if_neg hrun, htrap]
  exact if_neg hres

theorem issue_ok {i : Instr} (hi : Issuing s) (h : CodeAt s ws) (hf : s.fetchInstr = (s, .ok i)) : s.issue = exec i s := by
  rw [issue_of_codeAt hi h, hf]

theorem issue_trap {cs v : Nat} (hi : Issuing s) (h : CodeAt s ws) (hf : s.fetchInstr = (s, .trap cs v)) :
    s.issue = trapOut s cs v := by
  rw [issue_of_codeAt hi h, hf]
  rfl

end Instruction

/-! ### The step of a core -/

section Step
variable {s s' : State} {c : Nat}

/-- A core's step is its issue and one core cycle, from the state that the step starts from. -/
theorem step_of_moves (h : Moves s c s') : step s = s'.orStall (tickOut s'.issue) := by
  rcases h with ⟨hs, rfl, rfl⟩ | ⟨rest, hs, rfl⟩
  · have hact : step s = s.act (.core s.cur) := by unfold step; rw [hs]
    rw [hact]
    rfl
  · unfold step
    rw [hs]
    rfl

theorem cur_of_moves (h : Moves s c s') : s'.cur = c := by
  rcases h with ⟨-, rfl, rfl⟩ | ⟨rest, -, rfl⟩ <;> rfl

theorem stall_of_moves (h : Moves s c s') : s'.stall = false := by
  rcases h with ⟨-, -, rfl⟩ | ⟨rest, -, rfl⟩ <;> rfl

/-- A trap at the fetch needs no access, and the step takes it. -/
theorem step_of_issue_trap {cs v : Nat} (h : Moves s c s') (hi : s'.issue = trapOut s' cs v) :
    ∃ t, step s = tickOut (.next t) ∧ TrapTaken s' t cs v := by
  refine ⟨s'.trap cs v, ?_, trapTaken_trap s' cs v⟩
  rw [step_of_moves h, hi]
  exact if_neg (by simp [stall_of_moves h])

end Step

/-- Settles O5: the words in the cache are fetched with nothing changed, they decode to the instruction, and the core runs it. -/
theorem stepRunsTheDecodedInstruction : Obligations.StepRunsTheDecodedInstruction := by
  intro s s' c i hm hi hw hcore hcode hsize
  have hissue : s'.issue = exec i s' := by
    obtain ⟨w, ws, he, hlen⟩ := encode_eq_cons hcore
    rw [Instr.len, he, hlen, ← cur_of_moves hm] at hsize
    have hcode' := hcode
    rw [he] at hcode'
    exact issue_ok hi hcode (fetchInstr_ok hcode' hlen hsize (decode_of_encode he hw hcore))
  rw [step_of_moves hm, hissue]
  refine ⟨rfl, fun t ht => ?_⟩
  rw [ht]
  simp only [tickOut, State.orStall]
  split <;> rfl

/-- Settles O6: the fetch of words that are no instruction, or of one beyond the code, ends in its trap with nothing changed. -/
theorem badWordsTrapAtTheFetch : Obligations.BadWordsTrapAtTheFetch := by
  intro s s' c w ws e hm hi hcode hlen
  rw [← cur_of_moves hm]
  exact ⟨fun hd hsize => step_of_issue_trap hm (issue_trap hi hcode (fetchInstr_illegal hcode hlen hsize hd)),
    fun hsize => step_of_issue_trap hm (issue_trap hi hcode (fetchInstr_beyond hcode hsize))⟩

end Sys2Proof.Machine
end

section
/-! SUPPORT and PROOFS. Every core instruction but NOP, MFS and MTS is an effect behind its privilege and its guards (R104, R123), the
special registers (R97, R98), and with them O9, O10, O14 and O15. -/

namespace Sys2Proof.Machine

/-! ### Guards and privilege (R104, R123 steps 3 and 4) -/

theorem opDbnz_eq_run (k : Ctx) (s : State) : ∃ body, opDbnz k s = run false k s body := by
  unfold opDbnz
  exact ⟨_, rfl⟩

theorem opTacld_eq_run (k : Ctx) (s : State) : ∃ body, opTacld k s = run false k s body := by
  unfold opTacld
  exact ⟨_, rfl⟩

/-- A core instruction other than NOP, MFS and MTS is an effect behind its privilege and its guards, and those that ask for the
supervisor are the supervisor forms. -/
theorem exec_eq_run {i : Instr} (hi : i.isCore = true) (hnop : i ≠ .nop) (hmfs : majorOf i ≠ some 0x16) (hmts : majorOf i ≠ some 0x17)
    (s : State) : ∃ body, exec i s = run (supervisorForm i) (fieldsOf i) s body := by
  cases i
  case nop => exact absurd rfl hnop
  case mfs => exact absurd rfl hmfs
  case mts => exact absurd rfl hmts
  case dbnz => exact opDbnz_eq_run _ _
  case dbnzExt => exact opDbnz_eq_run _ _
  case tacld => exact opTacld_eq_run _ _
  all_goals first
    | exact absurd hi Bool.false_ne_true
    | (constructor; rfl)

/-- A supervisor form is a row's, and not NOP, MFS or MTS. -/
theorem major_of_supervisorForm {i : Instr} (h : supervisorForm i = true) :
    ∃ op, majorOf i = some op ∧ op ∉ [0, 0x16, 0x17] := by
  unfold supervisorForm at h
  split at h
  case h_7 => cases h
  all_goals exact ⟨_, ‹_›, by decide⟩

/-- Settles O10: a supervisor form asks for the supervisor before its guards. -/
theorem supervisorFormsTrapInUserMode : Obligations.SupervisorFormsTrapInUserMode := by
  intro i s hw hf hs
  obtain ⟨op, hm, hop⟩ := major_of_supervisorForm hf
  simp only [List.mem_cons, List.not_mem_nil, or_false, not_or] at hop
  obtain ⟨h0, h16, h17⟩ := hop
  have hnop : i ≠ .nop := by
    rintro rfl
    exact h0 (Option.some.inj hm).symm
  obtain ⟨body, hb⟩ := exec_eq_run (isCore_of_major hm) hnop (by simp [hm, h16]) (by simp [hm, h17]) s
  rw [hf, run_traps hs, word_eq hm h0] at hb
  exact .of_exec hb

/-! ### MFS and MTS (R98, R162) -/

section Special
variable {i : Instr} {s : State}

/-- The number of the register that MFS reads, and of the one that MTS writes. -/
def readNumber (i : Instr) : Nat := (fieldsOf i).b * 32 + (fieldsOf i).a
def writeNumber (i : Instr) : Nat := (fieldsOf i).b * 32 + (fieldsOf i).d

/-- MFS takes the trap of an access that is not permitted, whatever its guard. -/
theorem exec_mfs_trap {t : Nat × Nat} (hm : majorOf i = some 0x16) (ht : sprAccess (fieldsOf i) s (readNumber i) false = some t) :
    exec i s = trapOut s t.1 t.2 := by
  rw [show exec i s = opMfs (fieldsOf i) s from exec_core hm s, opMfs]
  rw [readNumber] at ht
  simp only [ht]

theorem exec_mfs (hm : majorOf i = some 0x16) (ht : sprAccess (fieldsOf i) s (readNumber i) false = none) :
    exec i s = run false (fieldsOf i) s fun s => setG (fieldsOf i) s (s.readSpr s.cur (readNumber i)) := by
  rw [show exec i s = opMfs (fieldsOf i) s from exec_core hm s, opMfs]
  rw [readNumber] at ht ⊢
  simp only [ht]

theorem exec_mts_trap {t : Nat × Nat} (hm : majorOf i = some 0x17) (ht : sprAccess (fieldsOf i) s (writeNumber i) true = some t) :
    exec i s = trapOut s t.1 t.2 := by
  rw [show exec i s = opMts (fieldsOf i) s from exec_core hm s, opMts]
  rw [writeNumber] at ht
  simp only [ht]

theorem exec_mts (hm : majorOf i = some 0x17) (ht : sprAccess (fieldsOf i) s (writeNumber i) true = none) :
    exec i s = run false (fieldsOf i) s fun s =>
      let v := (fieldsOf i).vA s
      if (v &&& (ones 64 - ((sprInfo (writeNumber i)).map (·.mask)).getD 0)) != 0 || !s.sprCond s.cur (writeNumber i) v then trapOut s 0x02 v
      else .next ((s.writeSpr s.cur (writeNumber i) v).advance (fieldsOf i).len) := by
  rw [show exec i s = opMts (fieldsOf i) s from exec_core hm s, opMts]
  rw [writeNumber] at ht ⊢
  simp only [ht]

end Special

/-- Settles O9: behind a guard that does not hold nothing but the pc changes; MFS and MTS make their first checks before it. -/
theorem guardNotHoldingChangesNothing : Obligations.GuardNotHoldingChangesNothing := by
  intro i s hw hi hnop hr hsup hmfs hmts
  rw [len_eq hi]
  by_cases h16 : majorOf i = some 0x16
  · rw [exec_mfs h16 (hmfs h16), run_skips (by simp) hr]
  by_cases h17 : majorOf i = some 0x17
  · rw [exec_mts h17 (hmts h17), run_skips (by simp) hr]
  obtain ⟨body, hb⟩ := exec_eq_run hi hnop h16 h17 s
  rw [hb, run_skips hsup hr]

/-! ### What R98 checks -/

section Access
variable {k : Ctx} {s : State} {n : Nat} {r : SprInfo}

theorem sprAccess_unassigned (write : Bool) (h : sprInfo n = none) : sprAccess k s n write = some (0x01, k.word) := by
  simp [sprAccess, h]

theorem sprAccess_readOnly (h : sprInfo n = some r) (hro : r.ro = true) : sprAccess k s n true = some (0x01, k.word) := by
  simp [sprAccess, h, hro]

theorem sprAccess_userRead (h : sprInfo n = some r) (hs : s.me.pl.sup = false) (hur : r.ur = false) :
    sprAccess k s n false = some (0x03, n) := by
  simp [sprAccess, h, hs, hur]

theorem sprAccess_userWrite (h : sprInfo n = some r) (hro : r.ro = false) (hs : s.me.pl.sup = false) (huw : r.uw = false) :
    sprAccess k s n true = some (0x03, n) := by
  simp [sprAccess, h, hro, hs, huw]

theorem sprAccess_read (h : sprInfo n = some r) (hp : s.me.pl.sup = true ∨ r.ur = true) : sprAccess k s n false = none := by
  rcases hp with hp | hp <;> simp [sprAccess, h, hp]

theorem sprAccess_write (h : sprInfo n = some r) (hro : r.ro = false) (hp : s.me.pl.sup = true ∨ r.uw = true) :
    sprAccess k s n true = none := by
  rcases hp with hp | hp <;> simp [sprAccess, h, hro, hp]

end Access

/-- A writable register holds no bit but those of its mask, and no register has more than 64. -/
theorem mask_of_sprInfo {n : Nat} {r : SprInfo} (h : sprInfo n = some r) : r.mask < 2 ^ 64 := by
  unfold sprInfo at h
  dsimp only at h
  split at h
  case h_32 =>
    split_ifs at h <;> cases h <;> decide
  all_goals cases h; decide

/-- The bits outside a mask, as the model takes them and as bit vectors. -/
theorem outside_mask_iff (v : Word) {mask : Nat} (h : mask < 2 ^ 64) :
    v.toNat &&& (ones 64 - mask) = 0 ↔ v &&& ~~~BitVec.ofNat 64 mask = 0 := by
  rw [← BitVec.toNat_inj, BitVec.toNat_and, BitVec.toNat_not, BitVec.toNat_ofNat, Nat.mod_eq_of_lt h]
  rfl

theorem WritesG.of_setG {i : Instr} {s : State} {v : Nat} (hi : i.isCore = true) (h : exec i s = setG (fieldsOf i) s v) :
    WritesG i s (BitVec.ofNat 64 v) := by
  rw [WritesG, h, len_eq hi]
  rfl

/-! ### The frame pool's condition (R42) -/

theorem poolOk_eq (b l : Nat) : poolOk b l = decide (b % 256 = 0 ∧ l % 256 = 0 ∧ b < l ∧ l - b ≤ 256 * 4096) := by
  rw [poolOk, Bool.eq_iff_iff]
  simp only [Bool.and_eq_true, decide_eq_true_eq, and_assoc]
  omega

theorem no_frame_allocated_eq (fs : List (Nat × FrameEnt)) : (!fs.any fun e => e.2.st != 0) = fs.all fun e => e.2.st == 0 := by
  rw [List.not_any_eq_all_not]
  simp only [bne, Bool.not_not]

theorem sprCond_pool (s : State) (v : Nat) :
    let pool := fun b l => decide (b % 256 = 0 ∧ l % 256 = 0 ∧ b < l ∧ l - b ≤ 256 * 4096)
    let idle := s.me.fe.frames.all fun e => e.2.st == 0
    s.sprCond s.cur 0x010 v = (pool v s.me.spr.flim.toNat && idle) ∧
    s.sprCond s.cur 0x011 v = (pool s.me.spr.fbase.toNat v && idle) := by
  dsimp only
  rw [← poolOk_eq, ← poolOk_eq, ← no_frame_allocated_eq]
  exact ⟨rfl, rfl⟩

/-! ### The value that MTS writes -/

section Value
variable {i : Instr} {s : State} {r : SprInfo} (hm : majorOf i = some 0x17) (hr : Runs i s)
  (h : sprInfo (writeNumber i) = some r) (hro : r.ro = false) (hp : s.me.pl.sup = true ∨ r.uw = true)
include hm hr h hro hp

theorem exec_mts_permitted : exec i s =
    if opA i s &&& ~~~BitVec.ofNat 64 r.mask = 0 ∧ s.sprCond s.cur (writeNumber i) (opA i s).toNat = true then
      .next ((s.writeSpr s.cur (writeNumber i) (opA i s).toNat).advance i.len)
    else trapOut s 0x02 (opA i s).toNat := by
  rw [exec_mts hm (sprAccess_write h hro hp), run_running hr, len_eq (isCore_of_major hm), h]
  dsimp only [Option.map_some, Option.getD_some]
  refine (if_congr ?_ rfl rfl).trans (ite_not ..)
  rw [← outside_mask_iff _ (mask_of_sprInfo h), not_and_or, Bool.or_eq_true, bne_iff_ne, Bool.not_eq_true', Bool.not_eq_true]
  rfl

end Value

/-- Settles O14: the number and the privilege are checked before the guard, the value behind it. -/
theorem mfsAndMtsAct : Obligations.MfsAndMtsAct := by
  intro i s hw w rd wr
  have hword : ∀ op, majorOf i = some op → op ≠ 0 → (fieldsOf i).word = w.toNat := fun _ => word_eq
  refine ⟨fun hm h => .of_exec ?_, fun hm h => .of_exec ?_, fun hm r h hro => .of_exec ?_, fun hm r h hs hur => .of_exec ?_,
    fun hm r h hro hs huw => .of_exec ?_, fun hm hr r h hp => .of_setG (isCore_of_major hm) ?_,
    fun hm hr r h hro hp hv hc => ?_, fun hm hr r h hro hp hv => .of_exec ?_, sprCond_pool s⟩
  · rw [exec_mfs_trap hm (sprAccess_unassigned false h), hword _ hm (by decide)]
  · rw [exec_mts_trap hm (sprAccess_unassigned true h), hword _ hm (by decide)]
  · rw [exec_mts_trap hm (sprAccess_readOnly h hro), hword _ hm (by decide)]
  · exact exec_mfs_trap hm (sprAccess_userRead h hs hur)
  · exact exec_mts_trap hm (sprAccess_userWrite h hro hs huw)
  · exact (exec_mfs hm (sprAccess_read h hp)).trans (run_running hr _)
  · exact (exec_mts_permitted hm hr h hro hp).trans (if_pos ⟨hv, hc⟩)
  · refine (exec_mts_permitted hm hr h hro hp).trans (if_neg ?_)
    rintro ⟨hz, hc⟩
    rcases hv with hv | hv
    · exact hv hz
    · exact Bool.false_ne_true (hv.symm.trans hc)

end Sys2Proof.Machine
end

section
/-! SUPPORT and PROOFS. What the memory system's own work leaves of the cores (R332 to R348, R354), a claim's frame (R420), the special
registers read back (R97, R98), and with them O15. -/

namespace Sys2Proof.Machine

/-! ### Work at a slice leaves every core -/

section Cores
variable (s : State) (h line pa key th asid va v : Nat) (d : Line) (full : Bool) (need : Need)

@[simp] theorem State.cores_hbmWrite : (s.hbmWrite line key d full).cores = s.cores := by
  unfold State.hbmWrite
  generalize lineBytes d 0 64 = bs
  rfl

@[simp] theorem State.cores_setCline (c : Option CLine) : (s.setCline h line c).cores = s.cores := rfl

@[simp] theorem State.cores_poisonLine : (s.poisonLine line).cores = s.cores := rfl

@[simp] theorem State.cores_unpoison : (s.unpoison line).cores = s.cores := rfl

@[simp] theorem State.cores_correctLine : (s.correctLine line).cores = s.cores := by
  unfold State.correctLine
  dsimp only
  split
  · rfl
  · split <;> rfl

@[simp] theorem State.cores_scanLine : (s.scanLine line).cores = s.cores := by
  unfold State.scanLine
  dsimp only
  split <;> simp

@[simp] theorem State.cores_physWrite : (s.physWrite pa v).cores = s.cores := by
  unfold State.physWrite
  split <;> simp

theorem State.cores_scanLines (ps : List Nat) : (ps.foldl (fun s pa => s.scanLine (pa / 64)) s).cores = s.cores := by
  induction ps generalizing s with
  | nil => rfl
  | cons p ps ih => rw [List.foldl_cons, ih, State.cores_scanLine]

@[simp] theorem State.cores_scanTables : (s.scanTables h asid va).cores = s.cores := by
  unfold State.scanTables
  split
  · rfl
  · exact State.cores_scanLines _ _

theorem State.cores_translate_fresh (l : Slice) : (State.translate.fresh h asid va need s l).1.cores = s.cores := by
  unfold State.translate.fresh
  split
  · dsimp only
    rw [State.setSlice_cores, apply_ite State.cores, State.cores_physWrite, ite_self]
  · rfl

@[simp] theorem State.cores_translate : (s.translate h asid va need).1.cores = s.cores := by
  unfold State.translate
  dsimp only
  split
  · split
    · rfl
    · rw [State.cores_translate_fresh, State.cores_scanTables]
  · rw [State.cores_translate_fresh, State.cores_scanTables]

@[simp] theorem State.cores_scanCached : (s.scanCached h line).cores = s.cores := by
  unfold State.scanCached
  split
  · dsimp only
    split
    · rfl
    · split <;> simp
  · rfl

@[simp] theorem State.cores_writeBack : (s.writeBack h line).cores = s.cores := by
  unfold State.writeBack
  split
  · rfl
  · dsimp only
    split
    · rw [State.cores_setCline]
      split <;> simp
    · simp

@[simp] theorem State.cores_ensureLine : (s.ensureLine h line key th).1.cores = s.cores := by
  unfold State.ensureLine
  extract_lets s1 _ s2 s3
  have h1 : s1.cores = s.cores := by
    unfold s1
    split
    · split <;> simp
    · rfl
  have h2 : s2.cores = s1.cores := by
    unfold s2
    split
    · rfl
    · split <;> simp
  split
  · simp [h1]
  · simp [s3, h1, h2]

@[simp] theorem State.cores_noteLine : (s.noteLine h pa asid va).cores = s.cores := by
  unfold State.noteLine
  split
  · split
    · split <;> simp
    · rfl
  · rfl

@[simp] theorem State.cores_bypass : (s.bypass h line th).cores = s.cores := by
  unfold State.bypass
  split <;> simp

@[simp] theorem State.cores_writeAt (bs : List Byte) (f : Option Bool) : (s.writeAt h pa bs key th f).1.cores = s.cores := by
  unfold State.writeAt
  dsimp only
  split
  · split
    · rfl
    · split
      · simp
      · dsimp only
        rw [State.cores_bypass, State.cores_setCline]
        split <;> simp
  · split <;> simp
  · rfl

@[simp] theorem State.cores_paWrite (bs : List Byte) (f : Option Bool) : (s.paWrite h pa bs key th f).1.cores = s.cores := by
  have hw := s.cores_writeAt h pa key th bs f
  unfold State.paWrite
  split
  · split <;> rfl
  · split <;> simp_all
  · split <;> simp_all
  · rfl

@[simp] theorem State.cores_prismDiscard (page size : Nat) : (s.prismDiscard asid page size).cores = s.cores := rfl

@[simp] theorem State.cores_watchGen (page size : Nat) : (s.watchGen asid page size).1.cores = s.cores := by
  unfold State.watchGen
  dsimp only
  split
  · rfl
  · split <;> simp

@[simp] theorem State.cores_watchBump (page size : Nat) : (s.watchBump asid page size).cores = s.cores := by
  unfold State.watchBump
  dsimp only
  rw [State.setSlice_cores]
  split <;> simp

@[simp] theorem State.cores_gTrans : (s.gTrans asid va need).1.cores = s.cores := by
  have ht := s.cores_translate (homeSlice va) asid va need
  unfold State.gTrans
  split <;> simp_all

@[simp] theorem State.cores_gTransVia (w : Via) : (s.gTransVia w asid va need).1.cores = s.cores := by
  have ht := s.cores_gTrans asid va need
  unfold State.gTransVia
  split
  · rfl
  · split
    · rfl
    · split
      · split <;> simp_all
      · exact ht

@[simp] theorem State.cores_gWriteAt (leaf : Nat) (bs : List Byte) (w : Via) : (s.gWriteAt asid va pa leaf bs full w).1.cores = s.cores := by
  have hw := s.cores_paWrite (homeSlice va) pa (leafKey leaf) w.th bs (if full && leafSync leaf then some true else none)
  unfold State.gWriteAt
  split
  case h_1 heq =>
    rw [heq] at hw
    exact hw
  case h_2 heq =>
    rw [heq] at hw
    dsimp only
    split <;> simpa using hw

end Cores

/-! ### A claim leaves the supervisor registers (R420) -/

/-- The supervisor registers of every core stand as they stood. -/
def SameSup (s t : State) : Prop := ∀ c, (t.core c).sup = (s.core c).sup

section Sup
variable {s t u : State}

theorem SameSup.of_cores (h : t.cores = s.cores) : SameSup s t := fun c => by rw [State.core, h, State.core]

protected theorem SameSup.rfl : SameSup s s := fun _ => rfl

theorem SameSup.trans (h : SameSup s t) (h' : SameSup t u) : SameSup s u := fun c => (h' c).trans (h c)

theorem SameSup.of_modCore {c : Nat} {f : Core → Core} (h : ∀ k : Core, (f k).sup = k.sup) : SameSup s (s.modCore c f) := by
  intro d
  by_cases hd : d = c
  · rw [hd, State.core_modCore_self, h]
  · rw [State.core_modCore_ne hd]

theorem SameSup.setRegion (h : SameSup s t) (i : Nat) (r : Region) : SameSup s (t.setRegion i r) :=
  h.trans (.of_cores rfl)

theorem SameSup.foldl {α : Type} {f : State → α → State} (h : ∀ s a, SameSup s (f s a)) (l : List α) (s : State) :
    SameSup s (l.foldl f s) := by
  induction l generalizing s with
  | nil => exact .rfl
  | cons a l ih => exact (h s a).trans (ih _)

/-- A reply ends a WAITI, which is the pipeline's. -/
theorem SameSup.replied {α : Type} (c : Nat) {r : State × Except GErr α} (h : SameSup s r.1) : SameSup s (State.replied c r).1 := by
  unfold State.replied
  split
  case h_4 => exact h
  all_goals
    split
    · exact h.trans (.of_modCore fun _ => rfl)
    · exact h

theorem sameSup_gWritePiece (s : State) (asid va : Nat) (bs : List Byte) (v : Via) : SameSup s (s.gWritePiece asid va bs v).1 := by
  have ht := s.cores_gTransVia asid va .write v
  refine .replied _ (.of_cores ?_)
  split
  case h_1 heq =>
    rw [heq] at ht
    exact ht
  case h_2 heq =>
    rw [heq] at ht
    rw [State.cores_gWriteAt, ht]

theorem sameSup_gWritePieces (s : State) (asid : Nat) (bs : List Byte) (ps : List (Nat × Nat)) (v : Via) :
    SameSup s (s.gWritePieces asid bs ps v).1 := by
  induction ps generalizing s bs with
  | nil => exact .rfl
  | cons p ps ih =>
    have hp := sameSup_gWritePiece s asid p.1 (bs.take p.2) v
    rw [State.gWritePieces]
    split
    case h_1 heq =>
      rw [heq] at hp
      exact hp
    case h_2 heq =>
      rw [heq] at hp
      exact hp.trans (ih _ _)

theorem sameSup_ownWrite (s : State) (asid va : Nat) (bs : List Byte) (c : Nat) : SameSup s (s.ownWrite asid va bs c).1 := by
  have hw := sameSup_gWritePieces s asid bs (linePieces (bs.length / 64 + 2) va bs.length)
    { turn := true, core := c, front := c == 0xFFF, own := true }
  unfold State.ownWrite State.ownTurn State.gWrite
  split
  · exact .of_cores rfl
  · exact hw

theorem sameSup_saveFault (s : State) (i : Nat) (block : Option (Nat × Nat)) : SameSup s (s.saveFault i block) := by
  unfold State.saveFault
  dsimp only
  split
  · exact .rfl
  · split
    · exact (SameSup.rfl.setRegion _ _).trans (sameSup_ownWrite _ _ _ _ _)
    · exact SameSup.rfl.setRegion _ _

/-- After a write of its own the device goes on from a state with the same registers, whether the write failed or not. -/
theorem SameSup.after_ownWrite {asid va c : Nat} {bs : List Byte} {r : State × Except GErr Unit} (h : SameSup s t)
    (hr : t.ownWrite asid va bs c = r) : SameSup s r.1 :=
  hr ▸ h.trans (sameSup_ownWrite _ _ _ _ _)

theorem sameSup_claimFor (s : State) (c b i : Nat) : SameSup s (s.claimFor c b i) := by
  unfold State.claimFor
  dsimp only
  split
  · exact .rfl
  split
  · exact .rfl
  split
  · exact .rfl
  split
  · exact .rfl
  split
  · split
    case h_1 h1 => exact (SameSup.rfl.after_ownWrite h1).trans (sameSup_saveFault _ _ _)
    case h_2 h1 =>
      have hs := SameSup.rfl.after_ownWrite h1
      split
      case h_1 h2 => exact (hs.after_ownWrite h2).trans (sameSup_saveFault _ _ _)
      case h_2 h2 => exact ((hs.after_ownWrite h2).after_ownWrite rfl).setRegion _ _
  · split
    case h_1 h1 => exact (SameSup.rfl.after_ownWrite h1).trans (sameSup_saveFault _ _ _)
    case h_2 h1 => exact (SameSup.rfl.after_ownWrite h1).setRegion _ _

theorem sameSup_claimBlock (s : State) (c b : Nat) : SameSup s (s.claimBlock c b) := by
  unfold State.claimBlock
  split
  · exact (SameSup.foldl (fun s i => sameSup_claimFor s c b i) _ s).trans (.of_modCore fun _ => rfl)
  · exact .rfl

theorem sameSup_claim (s : State) (c a n : Nat) : SameSup s (s.claim c a n) := by
  unfold State.claim
  split
  · exact .rfl
  · split
    · exact SameSup.foldl (fun s i => sameSup_claimBlock s c _) _ s
    · exact .rfl

end Sup

/-- The reports at the watermarks leave the special registers. -/
theorem spr_watermark (s : State) (c : Nat) : ((s.watermark c).core c).spr = (s.core c).spr := by
  unfold State.watermark
  dsimp only
  split
  · simp
  · split
    · simp
    · rfl

/-! ### The special registers read back -/

theorem lt_of_and_ones {v w : Nat} (h : v &&& ones w = v) : v < 2 ^ w :=
  Nat.lt_of_le_of_lt (h ▸ Nat.and_le_right) (Nat.sub_lt (Nat.two_pow_pos w) Nat.one_pos)

/-- The number and the bits of each register of a single field that an MTS may write, STEPCTL apart (R97). -/
def writableRegs : List (Nat × Nat) :=
  [(0x002, 16), (0x003, 2), (0x004, 6), (0x005, 6), (0x006, 64), (0x007, 32), (0x010, 20), (0x011, 21), (0x012, 20),
   (0x013, 21), (0x014, 48), (0x015, 48), (0x016, 12), (0x017, 12), (0x018, 32), (0x030, 48), (0x031, 20), (0x032, 32),
   (0x033, 32), (0x034, 8), (0x035, 64), (0x036, 45), (0x037, 64), (0x038, 64)]

theorem writable_cases {n : Nat} {r : SprInfo} (h : sprInfo n = some r) (hro : r.ro = false) :
    (∃ e ∈ writableRegs, n = e.1 ∧ r.mask = ones e.2) ∨ n = 0x110 ∨ (0x100 ≤ n ∧ n ≤ 0x107) ∨
      (0x108 ≤ n ∧ n ≤ 0x10F ∧ r.mask = ones 64) := by
  unfold sprInfo at h
  dsimp only at h
  split at h
  case h_31 => exact .inr (.inl rfl)
  case h_32 =>
    split_ifs at h with hlog hcmp hval
    · cases h
      cases hro
    · exact .inr (.inr (.inl hcmp))
    · cases h
      exact .inr (.inr (.inr ⟨hval.1, hval.2, rfl⟩))
  case h_1 | h_2 | h_9 | h_10 | h_11 | h_12 =>
    cases h
    cases hro
  all_goals
    cases h
    exact .inl ⟨(_, _), by decide, rfl, rfl⟩

/-- A field of w bits of core c reads as the value that was written to it, behind whatever else the write did to the rest of the core. -/
theorem field_reads_back {s t : State} {c w v : Nat} {f : Core → Core} {g : Core → BitVec w} (hv : v < 2 ^ w)
    (hg : ∀ k, g (f k) = BitVec.ofNat w v) (ht : g (t.core c) = g ((s.modCore c f).core c)) : (g (t.core c)).toNat = v := by
  rw [ht, State.core_modCore_self, hg, BitVec.toNat_ofNat, Nat.mod_eq_of_lt hv]

theorem reads_back_of_mem (s : State) (c : Nat) {v : Nat} {e : Nat × Nat} (h : e ∈ writableRegs) (hv : v < 2 ^ e.2) :
    (s.writeSpr c e.1 v).readSpr c e.1 = v := by
  simp only [writableRegs, List.mem_cons, List.not_mem_nil, or_false] at h
  rcases h with rfl | rfl | rfl | rfl | rfl | rfl | rfl | rfl | rfl | rfl | rfl | rfl | rfl | rfl | rfl | rfl | rfl | rfl | rfl | rfl | rfl | rfl | rfl | rfl
  · exact congrArg (fun k : Core => k.net.asid) (State.core_modCore_self ..)
  · exact field_reads_back (g := (·.spr.prio)) hv (fun _ => rfl) rfl
  · exact field_reads_back (g := (·.spr.excflags)) hv (fun _ => rfl) rfl
  · exact field_reads_back (g := (·.spr.excen)) hv (fun _ => rfl) rfl
  · exact field_reads_back (g := (·.spr.rngseed)) hv (fun _ => rfl) rfl
  · exact field_reads_back (g := (·.spr.rngstrm)) hv (fun _ => rfl) rfl
  · exact field_reads_back (g := (·.spr.fbase)) hv (fun _ => rfl) (congrArg Sprs.fbase (spr_watermark _ c))
  · exact field_reads_back (g := (·.spr.flim)) hv (fun _ => rfl) (congrArg Sprs.flim (spr_watermark _ c))
  · exact field_reads_back (g := (·.spr.dqbase)) hv (fun _ => rfl) rfl
  · exact field_reads_back (g := (·.spr.dqlim)) hv (fun _ => rfl) rfl
  · exact field_reads_back (g := (·.spr.umbase)) hv (fun _ => rfl) rfl
  · exact field_reads_back (g := (·.spr.umlim)) hv (fun _ => rfl) rfl
  · exact field_reads_back (g := (·.spr.fwlo)) hv (fun _ => rfl) rfl
  · exact field_reads_back (g := (·.spr.fwhi)) hv (fun _ => rfl) rfl
  · exact field_reads_back (g := (·.spr.orphcnt)) hv (fun _ => rfl) rfl
  · exact field_reads_back (g := (·.sup.saveptr)) hv (fun _ => rfl) rfl
  · exact field_reads_back (g := (·.sup.faultq)) hv (fun _ => rfl) (congrArg SupRegs.faultq (sameSup_claim _ c v 1088 c))
  · exact field_reads_back (g := (·.sup.evec)) hv (fun _ => rfl) rfl
  · exact field_reads_back (g := (·.sup.epc)) hv (fun _ => rfl) rfl
  · exact field_reads_back (g := (·.sup.ecause)) hv (fun _ => rfl) rfl
  · exact field_reads_back (g := (·.sup.etval)) hv (fun _ => rfl) rfl
  · exact field_reads_back (g := (·.sup.estat)) (hv.trans (by decide)) (fun _ => rfl) rfl
  · exact field_reads_back (g := (·.sup.kscr0)) hv (fun _ => rfl) rfl
  · exact field_reads_back (g := (·.sup.kscr1)) hv (fun _ => rfl) rfl

/-- The values that the shutters compare with. -/
theorem shtval_reads_back (s : State) (c : Nat) {n v : Nat} (h0 : 0x108 ≤ n) (h1 : n ≤ 0x10F) (hv : v < 2 ^ 64) :
    (s.writeSpr c n v).readSpr c n = v := by
  have hg : ∀ i, (Sparse.get 0 ((s.modCore c fun k => { k with sup := { k.sup with
      shtval := Sparse.set 0 k.sup.shtval i (BitVec.ofNat 64 v) } }).core c).sup.shtval i).toNat = v := by
    intro i
    rw [State.core_modCore_self, Sparse.get_set_self, BitVec.toNat_ofNat, Nat.mod_eq_of_lt hv]
  interval_cases n
  all_goals exact hg _

/-- Settles O15: each register's own write and read, and for the pool's bounds and FAULTQ the frame of what else the write does. -/
theorem specialRegistersReadBack : Obligations.SpecialRegistersReadBack := by
  intro s c n v r h hro hv hstep hsht
  rcases writable_cases h hro with ⟨e, he, rfl, hm⟩ | h110 | hcmp | ⟨h0, h1, hm⟩
  · exact reads_back_of_mem s c he (lt_of_and_ones (hm ▸ hv))
  · exact absurd h110 hstep
  · omega
  · exact shtval_reads_back s c h0 h1 (lt_of_and_ones (hm ▸ hv))

end Sys2Proof.Machine
end

section
/-! SUPPORT and PROOFS. Vector instructions behind their bindings (R109, R235), a stream-mode instruction as it issues (R225, R236 to
R238), and with them O45. -/

namespace Sys2Proof.Machine

/-! ### Every vector instruction looks at its bindings first -/

theorem exec_vector {i : Instr} {op : Nat} (hm : majorOf i = some op) (h0 : 0xA0 ≤ op) (h1 : op ≤ 0xC6) (s : State) :
    ∃ body, exec i s = vec (fieldsOf i) s body := by
  rw [exec_core hm]
  interval_cases op
  all_goals constructor; rfl

theorem op_fieldsOf {i : Instr} {op : Nat} (hm : majorOf i = some op) (h0 : op ≠ 0) : (fieldsOf i).op = op := by
  unfold majorOf at hm
  unfold fieldsOf
  revert hm
  cases rawOf i with
  | nop => intro h; exact absurd (Option.some.inj h).symm h0
  | base op w => exact Option.some.inj
  | ext op o => rcases o with ⟨f, _, _, _, _⟩; cases f <;> exact Option.some.inj
  | event => intro h; cases h

theorem isExt_iff (k : Ctx) : k.isExt = true ↔ k.l % 2 = 1 := by
  unfold Ctx.isExt
  generalize k.l = l
  revert l
  decide

/-- With a bound operand, the extended form issues in stream mode and the base form traps (R109). -/
theorem exec_bound {i : Instr} {s : State} {op : Nat} (hm : majorOf i = some op) (h0 : 0xA0 ≤ op) (h1 : op ≤ 0xC6) (hr : Runs i s)
    (hb : ¬ Unbound i s) : exec i s =
      if (fieldsOf i).isExt then streamIssue (fieldsOf i) s ((fieldsOf i).bound s) else trapOut s 0x01 (fieldsOf i).word := by
  obtain ⟨body, he⟩ := exec_vector hm h0 h1 s
  rw [he, vec, run_running hr]
  split
  case h_1 hnil => exact absurd hnil hb
  case h_2 => rfl

/-! ### Issue in stream mode (R235, R236) -/

/-- The streams as the operation takes them: nothing buffered yet. -/
def streamsAtIssue (bs : List (Nat × Nat × Stream)) : List (Nat × Nat × Stream) :=
  bs.map fun e => (e.1, e.2.1, { e.2.2 with buf := [], mark := e.2.2.used })

/-- The operation that a stream-mode instruction of n elements gives the vector engine. -/
def streamOp (k : Ctx) (s : State) (bs : List (Nat × Nat × Stream)) (n : Nat) : EngOp :=
  { k.engOp s (k.ref s) with
    streams := streamsAtIssue bs, td1 := n, td2 := vtLanes k.m
    lanes := [k.mask s, k.vC s, s.vf k.a, s.vf k.b, s.vf k.c]
    seed := if k.op = 0xB3 then vecIdentity (k.xop % 8) k.m else s.me.spr.rngseed.toNat }

/-- Bindings of the moving core replaced, one register after the other. -/
def Core.rebind (c : Core) (bs : List (Nat × Nat × Stream)) : Core := bs.foldl (fun c e => c.setStream e.2.1 (some e.2.2)) c

/-- A rebinding keeps whatever one binding keeps. -/
theorem Core.rebind_keeps {α : Type} {p : Core → α} (hp : ∀ c r v, p (Core.setStream c r v) = p c) (bs : List (Nat × Nat × Stream))
    (c : Core) : p (c.rebind bs) = p c := by
  induction bs generalizing c with
  | nil => rfl
  | cons e bs ih => exact (ih _).trans (hp ..)

/-- The state in which a stream-mode instruction has issued. -/
def streamIssued (k : Ctx) (s : State) (bs : List (Nat × Nat × Stream)) (n : Nat) : State :=
  ((issued s (k.ref s)).modMe fun c => (c.startOp .vector (streamOp k s bs n)).rebind (streamsAtIssue bs)).advance k.len

section Issue
variable {k : Ctx} {s : State} {bs : List (Nat × Nat × Stream)}

/-- An operand that may not be bound so: of an instruction without stream mode, of a busy stream, or of the wrong direction. -/
def badOperand (k : Ctx) (s : State) (e : Nat × Nat × Stream) : Bool :=
  vecUnbound k.op || s.me.streamBusy e.2.1 || (e.2.2.dst != (e.1 == 0))

theorem streamIssue_bad {e : Nat × Nat × Stream} (h : bs.find? (badOperand k s) = some e) :
    streamIssue k s bs = trapOut s 0x02 e.2.1 := by
  unfold badOperand at h
  simp only [streamIssue, h]

theorem streamIssue_noDestination (h : bs.find? (badOperand k s) = none) (hd : s.me.stream k.d = none) :
    streamIssue k s bs = trapOut s 0x02 k.d := by
  unfold badOperand at h
  simp only [streamIssue, h, hd, Option.isNone_none, if_true]

theorem streamIssue_noLength (h : bs.find? (badOperand k s) = none) (hd : s.me.stream k.d ≠ none)
    (hn : streamLength k.op k.m k.c bs = none) : streamIssue k s bs = trapOut s 0x02 k.d := by
  unfold badOperand at h
  simp only [streamIssue, h, hn, Option.isNone_iff_eq_none, hd, if_false]

theorem streamIssue_ok {n : Nat} (h : bs.find? (badOperand k s) = none) (hd : s.me.stream k.d ≠ none)
    (hn : streamLength k.op k.m k.c bs = some n) (href : k.refOk s = true)
    (hl : k.op = 0xC5 → localRange (k.vB s) ((n + 31) / 32) = true) : streamIssue k s bs = .next (streamIssued k s bs n) := by
  unfold badOperand at h
  simp only [streamIssue, h, hn, Option.isNone_iff_eq_none, hd, if_false, withRef_ok href]
  split
  · rename_i hop
    rw [checkLocal_ok ⟨hl hop, Nat.mod_one _⟩]
    rfl
  · rfl

/-! ### What has changed when it has issued -/

/-- EMIT's count is the network's. -/
theorem me_issued (s : State) (r : Ref) : ∃ f, (issued s r).me = s.me.modNet f :=
  ⟨_, State.core_modCore_self s s.cur _⟩

theorem core_issued_ne {s : State} {c : Nat} (r : Ref) (h : c ≠ s.cur) : (issued s r).core c = s.core c :=
  State.core_modCore_ne h

theorem me_streamIssued (n : Nat) : ∃ f, (streamIssued k s bs n).me =
    (((s.me.modNet f).startOp .vector (streamOp k s bs n)).rebind (streamsAtIssue bs)).modPl fun p => { p with pc := p.pc + k.len } := by
  obtain ⟨f, hf⟩ := me_issued s (k.ref s)
  refine ⟨f, ?_⟩
  rw [streamIssued, State.me_advance, State.me_modMe, hf]

theorem me_streamIssued_keeps (n : Nat) : (streamIssued k s bs n).me.pl.pc = s.me.pl.pc + k.len ∧
    (streamIssued k s bs n).me.regs.g = s.me.regs.g ∧ (streamIssued k s bs n).me.regs.f = s.me.regs.f ∧
    (streamIssued k s bs n).me.scr = s.me.scr ∧ (streamIssued k s bs n).me.eng.vector = s.me.eng.vector ++ [streamOp k s bs n] := by
  obtain ⟨f, h⟩ := me_streamIssued (k := k) (s := s) (bs := bs) n
  rw [h]
  refine ⟨congrArg (· + k.len) ?_, ?_, ?_, ?_, ?_⟩
  · exact Core.rebind_keeps (p := fun c => c.pl.pc) (fun _ _ _ => rfl) _ _
  · exact Core.rebind_keeps (p := fun c => c.regs.g) (fun _ _ _ => rfl) _ _
  · exact Core.rebind_keeps (p := fun c => c.regs.f) (fun _ _ _ => rfl) _ _
  · exact Core.rebind_keeps (p := fun c => c.scr) (fun _ _ _ => rfl) _ _
  · exact Core.rebind_keeps (p := fun c => c.eng.vector) (fun _ _ _ => rfl) _ _

theorem core_streamIssued_ne (n : Nat) {c : Nat} (h : c ≠ s.cur) : (streamIssued k s bs n).core c = s.core c := by
  have hc : c ≠ (issued s (k.ref s)).cur := h
  unfold streamIssued
  rw [State.core_advance_ne (by exact hc), State.core_modMe_ne hc, core_issued_ne _ h]

theorem sameMemory_streamIssued (n : Nat) : SameMemory s (streamIssued k s bs n) := by
  refine ⟨fun _ => rfl, rfl, rfl, fun c a => ?_⟩
  by_cases hc : c = s.cur
  · obtain ⟨-, -, -, hscr, -⟩ := me_streamIssued_keeps (k := k) (s := s) (bs := bs) n
    rw [hc]
    exact congrArg (fun m : Scratch => m.byte a) hscr
  · rw [core_streamIssued_ne n hc]

theorem streamBusy_streamIssued (n : Nat) {e : Nat × Nat × Stream} (he : e ∈ bs) :
    (streamIssued k s bs n).me.streamBusy e.2.1 = true := by
  obtain ⟨-, -, -, -, hv⟩ := me_streamIssued_keeps (k := k) (s := s) (bs := bs) n
  refine List.any_eq_true.2 ⟨streamOp k s bs n, ?_, ?_⟩
  · rw [show Core.ops _ .vector = _ from hv]
    exact List.mem_append_right _ (List.mem_singleton_self _)
  · exact List.any_eq_true.2 ⟨_, List.mem_map_of_mem he, beq_self_eq_true _⟩

end Issue

/-- Settles O45: the form, then each operand, the destination and the length are checked, and then the operation enters the engine. -/
theorem streamModeIssues : Obligations.StreamModeIssues := by
  intro i s op hw hm h0 h1 hr hb k bs bad
  have hne : op ≠ 0 := by omega
  have hop : k.op = op := op_fieldsOf hm hne
  have hbad : bad = badOperand k s := by
    funext e
    simp only [bad, badOperand, hop]
  have hexec := exec_bound hm h0 h1 hr hb
  have hext (h : k.l % 2 = 1) : exec i s = streamIssue k s bs := by
    rw [hexec, if_pos ((isExt_iff _).2 h)]
  rw [hbad, ← hop]
  refine ⟨fun hl => .of_exec ?_, fun hl e he => .of_exec ?_, fun hl he hd => .of_exec ?_, fun hl he hd hn => .of_exec ?_,
    fun hl he hd href n hn hc5 => ?_⟩
  · have hbase : ¬ (fieldsOf i).isExt = true := by
      rw [isExt_iff, show (fieldsOf i).l % 2 = 0 from hl]
      decide
    rw [hexec, if_neg hbase, word_eq hm hne]
  · exact (hext hl).trans (streamIssue_bad he)
  · exact (hext hl).trans (streamIssue_noDestination he hd)
  · exact (hext hl).trans (streamIssue_noLength he hd hn)
  · have hv : k.op = 0xC5 → localRange (k.vB s) ((n + 31) / 32) = true := by
      rw [vB_eq_opB]
      exact hc5
    obtain ⟨hpc, hg, hf, -, hvec⟩ := me_streamIssued_keeps (k := k) (s := s) (bs := bs) n
    refine ⟨_, (hext hl).trans (streamIssue_ok he hd hn href hv), ?_, hg, hf, sameMemory_streamIssued n, rfl, ?_,
      fun e he => streamBusy_streamIssued n he⟩
    · rw [hpc, len_eq (isCore_of_major hm)]
    · refine ⟨_, hvec, rfl, rfl, rfl, ?_⟩
      exact List.map_map ..

end Sys2Proof.Machine
end

section
/-! SUPPORT and PROOFS. The operand that a base word holds outside its fields (R101, R159, R163), the trap instructions, the branches, and
with them O1, O11 and O24. -/

namespace Sys2Proof.Machine

/-- Settles O1: NOP is encoded as the zero word, and decoding is the encoding's inverse (O3). -/
theorem nopIsTheZeroWord : Obligations.NopIsTheZeroWord :=
  ⟨fun rest => decodeOfEncodeIsTheInstruction .nop rest rfl rfl, rfl, fun _ => rfl⟩

/-! ### Word 0 beyond its fields -/

/-- Word 0 of a row's encoding is made of the fields that its meaning reads. -/
theorem headD_encode {i : Instr} {op : Nat} (hm : majorOf i = some op) (h0 : op ≠ 0) :
    (encode i).headD 0 = word0 (fieldsOf i).op (fieldsOf i).l (fieldsOf i).w :=
  BitVec.eq_of_toNat_eq (word_eq hm h0).symm

section Word
variable (k : Ctx)

theorem imm18_eq : k.imm18 = ((word0 k.op k.l k.w).extractLsb' 10 18).toNat := by
  rw [BitVec.extractLsb'_toNat, Nat.shiftRight_eq_div_pow, toNat_word0]
  unfold Ctx.imm18 Ctx.m Ctx.b Ctx.a Ctx.d
  omega

theorem imm18_mod : k.imm18 % 256 = ((word0 k.op k.l k.w).extractLsb' 10 8).toNat := by
  rw [imm18_eq]
  simp only [BitVec.extractLsb'_toNat, Nat.shiftRight_eq_div_pow]
  omega

theorem imm18_div : k.imm18 / 256 = ((word0 k.op k.l k.w).extractLsb' 18 10).toNat := by
  rw [imm18_eq]
  simp only [BitVec.extractLsb'_toNat, Nat.shiftRight_eq_div_pow]
  omega

theorem imm13_eq : k.m * 2 ^ 10 + k.b * 2 ^ 5 + k.a = ((word0 k.op k.l k.w).extractLsb' 15 13).toNat := by
  rw [BitVec.extractLsb'_toNat, Nat.shiftRight_eq_div_pow, toNat_word0]
  unfold Ctx.m Ctx.b Ctx.a
  omega

end Word

/-! ### SVC, TRAP and BRK (R163) -/

/-- Settles O11: each is one trap behind its guards, with the number that its word holds. -/
theorem trapInstructionsTrap : Obligations.TrapInstructionsTrap := by
  intro i s hw hr w
  have hword {op : Nat} (hm : majorOf i = some op) (h0 : op ≠ 0) : w = word0 (fieldsOf i).op (fieldsOf i).l (fieldsOf i).w :=
    headD_encode hm h0
  refine ⟨fun hm => .of_exec ?_, fun hm => .of_exec ?_, fun hm => .of_exec ?_⟩
  · rw [show exec i s = opSvc (fieldsOf i) s from exec_core hm s, opSvc, run_running hr, imm18_eq, hword hm (by decide)]
  · rw [show exec i s = opTrap (fieldsOf i) s from exec_core hm s, opTrap, run_running hr, imm18_mod, imm18_div,
      hword hm (by decide)]
  · rw [show exec i s = opBrk (fieldsOf i) s from exec_core hm s, opBrk, run_running hr, imm18_eq, hword hm (by decide)]

/-! ### Branches (R158, R159) -/

theorem toSigned_eq_toInt (n x : Nat) (hn : n ≠ 0) : toSigned n x = (BitVec.ofNat n x).toInt := by
  obtain ⟨m, rfl⟩ := Nat.exists_eq_succ_of_ne_zero hn
  have hp : 2 ^ (m + 1) = 2 * 2 ^ m := by ring
  rw [BitVec.toInt_eq_toNat_cond, BitVec.toNat_ofNat]
  unfold toSigned
  simp only [Nat.succ_eq_add_one, Nat.add_sub_cancel]
  refine if_congr ?_ rfl rfl
  omega

theorem toSigned_toNat {n : Nat} (x : BitVec n) (hn : n ≠ 0) : toSigned n x.toNat = x.toInt := by
  rw [toSigned_eq_toInt n _ hn, BitVec.ofNat_toNat, BitVec.setWidth_eq]

theorem ofSigned_eq_toNat (n : Nat) (x : Int) : ofSigned n x = (BitVec.ofInt n x).toNat := by
  rw [BitVec.toNat_ofInt]
  rfl

/-- An instruction of a row without a literal form is of L = 0b00 or of L = 0b01. -/
theorem l_of_no_literal {i : Instr} {op : Nat} {r : Row} (hw : i.wf = true) (hm : majorOf i = some op)
    (hr : rowOf true op = some r) (hl : r.lit = false) : (fieldsOf i).l = 0 ∨ (fieldsOf i).l = 1 := by
  unfold Instr.wf at hw
  unfold majorOf at hm
  unfold fieldsOf
  cases hi : rawOf i with
  | nop => exact .inl rfl
  | base op' w => exact .inl rfl
  | event => exact .inl rfl
  | ext op' o =>
    simp only [hi, Option.some.injEq] at hm hw
    subst hm
    rcases o with ⟨_ | _ | _, _, _, _, _⟩
    · exact .inr rfl
    all_goals simp [checkExt, hr, hl] at hw

section Branch
variable {s : State} {t : Int} {f : Core → Core}

theorem branchTo_ok (ha : t % 4 = 0) (h0 : 0 ≤ t) (hs : t < s.codeSize s.cur s.me.pl.sup) :
    branchTo s t f = .next (s.modMe fun c => (f c).modPl fun p => { p with pc := t.toNat }) := by
  rw [branchTo, targetTrap, if_neg (not_not_intro ha), if_neg (by omega)]

theorem branchTo_misaligned (ha : t % 4 ≠ 0) : branchTo s t f = trapOut s 0x04 (BitVec.ofInt 64 t).toNat := by
  rw [branchTo, targetTrap, if_pos ha, ofSigned_eq_toNat]

theorem branchTo_outside (ha : t % 4 = 0) (h : t < 0 ∨ s.codeSize s.cur s.me.pl.sup ≤ t) :
    branchTo s t f = trapOut s 0x05 (BitVec.ofInt 64 t).toNat := by
  rw [branchTo, targetTrap, if_neg (not_not_intro ha), if_pos h, ofSigned_eq_toNat]

/-- What an instruction that branches does: it goes to a permitted target, and traps at itself otherwise. -/
theorem branches {i : Instr} (h : exec i s = branchTo s t f) :
    (t % 4 = 0 → 0 ≤ t → t < s.codeSize s.cur s.me.pl.sup →
      exec i s = .next (s.modMe fun c => (f c).modPl fun p => { p with pc := t.toNat })) ∧
    (t % 4 ≠ 0 → TrapsWith i s 0x04 (BitVec.ofInt 64 t).toNat) ∧
    (t % 4 = 0 → (t < 0 ∨ s.codeSize s.cur s.me.pl.sup ≤ t) → TrapsWith i s 0x05 (BitVec.ofInt 64 t).toNat) :=
  ⟨fun ha h0 hs => h.trans (branchTo_ok ha h0 hs), fun ha => .of_exec (h.trans (branchTo_misaligned ha)),
    fun ha ho => .of_exec (h.trans (branchTo_outside ha ho))⟩

end Branch

section Offsets
variable {k : Ctx} (hl : k.l = 0 ∨ k.l = 1)
include hl

theorem off18_eq : k.off18 = if k.l = 0 then 4 * ((word0 k.op k.l k.w).extractLsb' 10 18).toInt
    else 4 * (BitVec.ofNat 32 k.imm).toInt := by
  rw [Ctx.off18, imm18_eq, toSigned_toNat _ (by decide), toSigned_eq_toInt _ _ (by decide)]
  rcases hl with h | h <;> simp [Ctx.isExt, h, mul_comm]

theorem off13_eq : k.off13 = if k.l = 0 then 4 * ((word0 k.op k.l k.w).extractLsb' 15 13).toInt
    else 4 * (BitVec.ofNat 32 k.imm).toInt := by
  rw [Ctx.off13, imm13_eq, toSigned_toNat _ (by decide), toSigned_eq_toInt _ _ (by decide)]
  rcases hl with h | h <;> simp [Ctx.isExt, h, mul_comm]

end Offsets

/-- The counter of DBNZ is one less, and zero when it was one. -/
theorem counter_eq (v : Word) : (v.toNat + 2 ^ 64 - 1) % 2 ^ 64 = (v - 1).toNat := by
  rw [BitVec.toNat_sub, Nat.add_comm, show (1 : Word).toNat = 1 from rfl]
  congr 1
  omega

theorem exec_dbnz {i : Instr} {s : State} (hm : majorOf i = some 0x13) (hr : Runs i s) : exec i s =
    if opD i s = 1 then done (fieldsOf i) s (·.writeG (fieldsOf i).d 0)
    else branchTo s (s.me.pl.pc + (fieldsOf i).off13) (·.writeG (fieldsOf i).d (opD i s - 1)) := by
  have hv : ((fieldsOf i).vD s + 2 ^ 64 - 1) % 2 ^ 64 = (opD i s - 1).toNat := counter_eq _
  have hz : (opD i s - 1).toNat = 0 ↔ opD i s = 1 := by
    rw [← sub_eq_zero (a := opD i s), ← BitVec.toNat_inj]
    rfl
  rw [show exec i s = opDbnz (fieldsOf i) s from exec_core hm s, opDbnz, run_running hr]
  simp only [hv, hz, BitVec.ofNat_toNat, BitVec.setWidth_eq]
  split
  case isTrue h => rw [h]; rfl
  case isFalse => rfl

/-- Settles O24: behind its guards each of the four is one branch, to the target that its word or its operand gives. -/
theorem branchesMoveThePc : Obligations.BranchesMoveThePc := by
  intro i s hw hr k w disp pc next goes
  have hlen {op : Nat} (hm : majorOf i = some op) : k.len = i.len := (len_eq (isCore_of_major hm)).symm
  have hlink {op : Nat} (hm : majorOf i = some op) : link k s = (·.writeG k.d next) := by
    funext c
    rw [link, hlen hm]
  refine ⟨fun hm => branches ?_, fun hm => branches ?_, fun hm ha => branches ?_, fun hm ha => .of_exec ?_,
    fun hm h1 => branches ?_, fun hm h1 => ?_⟩
  · rw [show exec i s = opBr k s from exec_core hm s, opBr, run_running hr, off18_eq (l_of_no_literal hw hm rfl rfl),
      ← headD_encode hm (by decide)]
  · rw [show exec i s = opJal k s from exec_core hm s, opJal, run_running hr, off13_eq (l_of_no_literal hw hm rfl rfl),
      ← headD_encode hm (by decide), hlink hm]
  · rw [show exec i s = opJalr k s from exec_core hm s, opJalr, run_running hr, hlink hm]
    refine (if_neg (Nat.not_le.mpr ha)).trans ?_
    rw [toSigned_eq_toInt _ _ (by decide)]
    rfl
  · rw [show exec i s = opJalr k s from exec_core hm s, opJalr, run_running hr]
    exact if_pos ha
  · rw [exec_dbnz hm hr, if_neg h1, off13_eq (l_of_no_literal hw hm rfl rfl), ← headD_encode hm (by decide)]
  · rw [WritesG, exec_dbnz hm hr, if_pos h1, done, ← len_eq (isCore_of_major hm)]

end Sys2Proof.Machine
end

section
/-! SUPPORT and PROOFS. The end of a threadlet and the freeing of a frame (R31, R142, R301, R306, R439): what they make of their core and what
they leave alone, and with them O25. -/

namespace Sys2Proof.Machine

/-! ### What stays -/

/-- What the end of a threadlet of core c leaves as it was: memory, the slices, the regions, every other core, and of core c the scratchpad
and the network interface. -/
structure KeepsMachine (c : Nat) (s t : State) : Prop where
  cur : t.cur = s.cur
  mem : t.mem = s.mem
  slices : t.slices = s.slices
  regions : t.regions = s.regions
  fw : t.fw = s.fw
  others : ∀ d, d ≠ c → t.core d = s.core d
  scr : (t.core c).scr = (s.core c).scr
  net : (t.core c).net = (s.core c).net

section Keeps
variable {c : Nat} {s t u : State}

protected theorem KeepsMachine.rfl : KeepsMachine c s s := ⟨rfl, rfl, rfl, rfl, rfl, fun _ _ => rfl, rfl, rfl⟩

theorem KeepsMachine.trans (h : KeepsMachine c s t) (h' : KeepsMachine c t u) : KeepsMachine c s u :=
  ⟨h'.cur.trans h.cur, h'.mem.trans h.mem, h'.slices.trans h.slices, h'.regions.trans h.regions, h'.fw.trans h.fw,
    fun d hd => (h'.others d hd).trans (h.others d hd), h'.scr.trans h.scr, h'.net.trans h.net⟩

theorem KeepsMachine.setCore (h : KeepsMachine c s t) {v : Core} (hs : v.scr = (t.core c).scr) (hn : v.net = (t.core c).net) :
    KeepsMachine c s (t.setCore c v) :=
  h.trans ⟨rfl, rfl, rfl, rfl, rfl, fun _ hd => State.core_setCore_ne hd, by rw [State.core_setCore_self, hs],
    by rw [State.core_setCore_self, hn]⟩

theorem KeepsMachine.send (h : KeepsMachine c s t) (m : Msg) : KeepsMachine c s (t.send m) :=
  h.trans ⟨rfl, rfl, rfl, rfl, rfl, fun _ _ => rfl, rfl, rfl⟩

theorem KeepsMachine.setCluster (h : KeepsMachine c s t) (j : Nat) (k : Cluster) : KeepsMachine c s (t.setCluster j k) :=
  h.trans ⟨rfl, rfl, rfl, rfl, rfl, fun _ _ => rfl, rfl, rfl⟩

theorem KeepsMachine.sameMemory (h : KeepsMachine c s t) : SameMemory s t := by
  refine ⟨fun _ => by rw [h.mem], h.mem, h.slices, fun d a => ?_⟩
  by_cases hd : d = c
  · rw [hd, h.scr]
  · rw [h.others d hd]

theorem KeepsMachine.regionOf (h : KeepsMachine c s t) : t.regionOf c = s.regionOf c := congrArg Net.region h.net

theorem KeepsMachine.region (h : KeepsMachine c s t) (j : Nat) : t.region j = s.region j := by
  rw [State.region, h.regions, State.region]

end Keeps

/-! ### Freeing a frame (R31, R301, R306) -/

section Free
variable (s : State) (c fix : Nat)

/-- A report at a watermark changes of its core only whether one was made. -/
theorem core_watermark : ∃ b, (s.watermark c).core c = (s.core c).modFe fun f => { f with below := b } := by
  unfold State.watermark
  dsimp only
  split
  · exact ⟨true, by simp⟩
  · split
    · exact ⟨false, by simp⟩
    · exact ⟨(s.core c).fe.below, rfl⟩

theorem keepsMachine_watermark : KeepsMachine c s (s.watermark c) := by
  unfold State.watermark
  dsimp only
  split
  · refine (KeepsMachine.setCore .rfl ?_ ?_).send _ <;> rfl
  · split
    · refine (KeepsMachine.setCore .rfl ?_ ?_).send _ <;> rfl
    · exact .rfl

/-- The orphans of a frame's firings are counted in the core's special registers. -/
theorem orphans_eq (h : Nat) (l : List Nat) (k : Core) :
    ∃ x, l.foldl (fun k slot => k.orphan c .signal slot 4 h) k = { k with spr := x } := by
  induction l generalizing k with
  | nil => exact ⟨k.spr, rfl⟩
  | cons slot l ih => exact ih (k.orphan c .signal slot 4 h)

@[simp] theorem Core.frame_setFrame_self (k : Core) (v : FrameEnt) : (k.setFrame fix v).frame fix = v := Sparse.get_set_self ..

/-- The frame that is freed has nothing left but its generation, which advances. -/
def FrameEnt.freed (e : FrameEnt) : FrameEnt := { gen := if e.gen = 255 then 1 else e.gen + 1 }

theorem freeFrame_eq (flush : Bool) : ∃ x f, s.freeFrame c fix flush =
    (s.setCore c ({ s.core c with spr := x, fe := f }.setFrame fix (FrameEnt.freed ((s.core c).frame fix)))).watermark c := by
  unfold State.freeFrame
  dsimp only
  obtain ⟨x, hx⟩ := orphans_eq c (mkHandle c fix ((s.core c).frame fix).gen)
    (((s.core c).modFe (·.promoteDue s.cycles)).fe.firingsOf fix) ((s.core c).modFe (·.promoteDue s.cycles))
  rw [hx]
  exact ⟨x, _, rfl⟩

theorem keepsMachine_freeFrame (flush : Bool) : KeepsMachine c s (s.freeFrame c fix flush) := by
  obtain ⟨x, f, h⟩ := freeFrame_eq s c fix flush
  rw [h]
  refine (KeepsMachine.setCore .rfl ?_ ?_).trans (keepsMachine_watermark _ _) <;> rfl

/-- Freeing leaves the registers and the pipeline. -/
theorem core_freeFrame (flush : Bool) : ((s.freeFrame c fix flush).core c).regs = (s.core c).regs ∧
    ((s.freeFrame c fix flush).core c).pl = (s.core c).pl ∧
    ((s.freeFrame c fix flush).core c).frame fix = FrameEnt.freed ((s.core c).frame fix) := by
  obtain ⟨x, f, h⟩ := freeFrame_eq s c fix flush
  obtain ⟨b, hb⟩ := core_watermark (s.setCore c ({ s.core c with spr := x, fe := f }.setFrame fix (FrameEnt.freed ((s.core c).frame fix)))) c
  rw [h, hb, State.core_setCore_self]
  exact ⟨rfl, rfl, Core.frame_setFrame_self ..⟩

end Free

/-! ### The end of a threadlet (R142, R439) -/

section End
variable (s : State) (c : Nat)

theorem keepsMachine_releaseAfter : KeepsMachine c s (s.releaseAfter c) := by
  unfold State.releaseAfter
  split
  · exact .rfl
  · exact (KeepsMachine.rfl.setCluster _ _).setCore rfl rfl

/-- The running threadlet has no entry of the afterimage log any more. -/
theorem core_releaseAfter : (s.releaseAfter c).core c = (s.core c).modPl fun p => { p with after := none } := by
  unfold State.releaseAfter
  split
  case h_1 h =>
    rw [Core.modPl, ← h]
  case h_2 => rw [State.core_modCore_self, State.core_setCluster]

/-- The pipeline that a threadlet leaves: idle, in user mode, and halted again where it ran for a STEP (R441). -/
def Pipeline.ended (p : Pipeline) : Pipeline :=
  { p with after := none, pipe := .idle, sup := false, live := false, handle := 0, halted := p.halted || p.stepping, stepping := false }

/-- The core that a threadlet leaves: no registers, and its frame not yet freed or kept. -/
def Core.ended (now : Nat) (k : Core) : Core :=
  { k with regs := {}, pl := k.pl.ended, eng := if k.pl.stepping then k.eng.stop now else k.eng }

/-- The end of a threadlet is the end of its run, then what becomes of its frame. -/
theorem endThreadlet_eq (free : Bool) :
    let t := (s.releaseAfter c).setCore c (Core.ended (s.releaseAfter c).cycles (s.core c))
    let fix := (s.core c).pl.fix
    s.endThreadlet c free =
      if !(s.core c).pl.live then t
      else if free || ((s.core c).frame fix).freeP then t.freeFrame c fix false
      else t.modCore c fun k => (k.modFrame fix fun e =>
        { e with st := if k.fe.queued fix then 2 else 1, age := k.fe.seq }).modFe fun f => { f with seq := f.seq + 1 } := by
  unfold State.endThreadlet
  dsimp only
  rw [core_releaseAfter]
  rfl

theorem keepsMachine_endThreadlet (free : Bool) : KeepsMachine c s (s.endThreadlet c free) := by
  have hrun : KeepsMachine c s ((s.releaseAfter c).setCore c (Core.ended (s.releaseAfter c).cycles (s.core c))) :=
    (keepsMachine_releaseAfter s c).setCore (keepsMachine_releaseAfter s c).scr.symm (keepsMachine_releaseAfter s c).net.symm
  rw [endThreadlet_eq]
  split
  · exact hrun
  · split
    · exact hrun.trans (keepsMachine_freeFrame _ _ _ _)
    · exact hrun.setCore rfl rfl

/-- The registers are discarded and the pipeline is idle, whatever becomes of the frame. -/
theorem core_endThreadlet (free : Bool) :
    ((s.endThreadlet c free).core c).regs = {} ∧ ((s.endThreadlet c free).core c).pl = (s.core c).pl.ended := by
  rw [endThreadlet_eq]
  split
  · rw [State.core_setCore_self]
    exact ⟨rfl, rfl⟩
  · split
    · obtain ⟨hregs, hpl, -⟩ := core_freeFrame
        ((s.releaseAfter c).setCore c (Core.ended (s.releaseAfter c).cycles (s.core c))) c (s.core c).pl.fix false
      rw [hregs, hpl, State.core_setCore_self]
      exact ⟨rfl, rfl⟩
    · rw [State.core_modCore_self, State.core_setCore_self]
      exact ⟨rfl, rfl⟩

variable {s c}

/-- The frame of a threadlet that ran is kept, Ready where a firing of it is queued. -/
theorem frame_endThreadlet_keep (hl : (s.core c).pl.live = true) (hf : ((s.core c).frame (s.core c).pl.fix).freeP = false) :
    ((s.endThreadlet c false).core c).frame (s.core c).pl.fix = { (s.core c).frame (s.core c).pl.fix with
      st := if (s.core c).fe.queued (s.core c).pl.fix then 2 else 1, age := (s.core c).fe.seq } := by
  rw [endThreadlet_eq, hl, hf, if_neg (by decide), if_neg (by decide), State.core_modCore_self, State.core_setCore_self]
  exact Core.frame_setFrame_self ..

/-- The frame of a threadlet that ran is freed. -/
theorem frame_endThreadlet_free {free : Bool} (hl : (s.core c).pl.live = true)
    (hf : free = true ∨ ((s.core c).frame (s.core c).pl.fix).freeP = true) :
    ((s.endThreadlet c free).core c).frame (s.core c).pl.fix = FrameEnt.freed ((s.core c).frame (s.core c).pl.fix) := by
  obtain ⟨-, -, hframe⟩ := core_freeFrame
    ((s.releaseAfter c).setCore c (Core.ended (s.releaseAfter c).cycles (s.core c))) c (s.core c).pl.fix false
  rw [endThreadlet_eq, hl, if_neg (by decide), if_pos (Bool.or_eq_true_iff.2 hf), hframe, State.core_setCore_self]
  rfl

end End

/-- Settles O25: END is the end of the running threadlet, which frees the frame for END.f. -/
theorem endDiscardsTheThreadlet : Obligations.EndDiscardsTheThreadlet := by
  intro i s hw hm hr hl fix fr
  have hexec : exec i s = .next (s.endThreadlet s.cur ((fieldsOf i).m == 1)) := by
    rw [show exec i s = opEnd (fieldsOf i) s from exec_core hm s, opEnd, run_running hr]
  have hkeep := keepsMachine_endThreadlet s s.cur ((fieldsOf i).m == 1)
  have hme : (s.endThreadlet s.cur ((fieldsOf i).m == 1)).me = (s.endThreadlet s.cur ((fieldsOf i).m == 1)).core s.cur :=
    congrArg _ hkeep.cur
  obtain ⟨hregs, hpl⟩ := core_endThreadlet s s.cur ((fieldsOf i).m == 1)
  refine ⟨_, hexec, ?_⟩
  rw [hme, hpl]
  refine ⟨hregs, rfl, rfl, rfl, hkeep.sameMemory, fun h0 hf => ?_, fun hf => ?_⟩
  · rw [h0]
    exact frame_endThreadlet_keep hl hf
  · have hfree := frame_endThreadlet_free (free := (fieldsOf i).m == 1) hl (hf.imp beq_iff_eq.2 id)
    exact ⟨congrArg FrameEnt.st hfree, congrArg FrameEnt.gen hfree⟩

end Sys2Proof.Machine
end

section
/-! SUPPORT and PROOFS. RFE by its disposition (R164, R424, R430, R440), the core that a restart goes to, and with them O12. -/

namespace Sys2Proof.Machine

/-! ### The next core of a region (R440) -/

theorem cores_pairwise_lt (r : Region) : r.cores.Pairwise (· < ·) := by
  refine List.pairwise_flatMap.2 ⟨fun p _ => ?_, ?_⟩
  · refine List.Pairwise.map _ (fun a b hab => ?_) List.pairwise_lt_range
    unfold coreOf
    omega
  · refine (List.pairwise_lt_range.filter _).imp fun {a b} hab x hx y hy => ?_
    obtain ⟨j, hj, rfl⟩ := List.mem_map.1 hx
    obtain ⟨l, hl, rfl⟩ := List.mem_map.1 hy
    rw [List.mem_range] at hj hl
    unfold coreOf
    omega

/-- The first number of a rising list above c, or else its first: it is in the list, and comes next after c, wrapping. -/
theorem next_of_pairwise_lt {cs : List Nat} (hs : cs.Pairwise (· < ·)) (c : Nat) :
    let d := ((cs.find? fun x => decide (c < x)).or cs.head?).getD c
    ((∃ x, x ∈ cs) → d ∈ cs) ∧ ∀ x ∈ cs, (c < d ∧ (c < x → d ≤ x)) ∨ (d ≤ c ∧ d ≤ x ∧ x ≤ c) := by
  cases h : cs.find? fun x => decide (c < x) with
  | some d =>
    obtain ⟨hcd, pre, post, rfl, hpre⟩ := List.find?_eq_some_iff_append.1 h
    refine ⟨fun _ => by simp, fun x hx => .inl ⟨of_decide_eq_true hcd, fun hcx => ?_⟩⟩
    obtain ⟨-, hpost, -⟩ := List.pairwise_append.1 hs
    rcases List.mem_append.1 hx with hx | hx
    · simpa [hcx] using hpre x hx
    · rcases List.mem_cons.1 hx with rfl | hx
      · exact le_rfl
      · exact (List.rel_of_pairwise_cons hpost hx).le
  | none =>
    have hle : ∀ x ∈ cs, x ≤ c := fun x hx => by simpa using List.find?_eq_none.1 h x hx
    cases cs with
    | nil => simp
    | cons d cs =>
      refine ⟨fun _ => List.mem_cons_self, fun x hx => .inr ⟨hle d List.mem_cons_self, ?_, hle x hx⟩⟩
      rcases List.mem_cons.1 hx with rfl | hx
      · exact le_rfl
      · exact (List.rel_of_pairwise_cons hs hx).le

/-- The core that a restart goes to, among those of the region in clusters that are not fenced. -/
theorem nextCore_spec (s : State) (j c : Nat) :
    let open_ (x : Nat) : Prop := x ∈ (s.region j).cores ∧ s.fw.fenced.testBit (clusterOf x) = false
    ((∃ x, open_ x) → open_ (s.nextCore j c)) ∧
    ∀ x, open_ x → (c < s.nextCore j c ∧ (c < x → s.nextCore j c ≤ x)) ∨ (s.nextCore j c ≤ c ∧ s.nextCore j c ≤ x ∧ x ≤ c) := by
  have hmem : ∀ x, x ∈ (s.region j).cores.filter (fun d => !s.fw.fenced.testBit (clusterOf d)) ↔
      x ∈ (s.region j).cores ∧ s.fw.fenced.testBit (clusterOf x) = false := by simp
  simp only [← hmem]
  exact next_of_pairwise_lt ((cores_pairwise_lt _).filter _) c

/-! ### RFE by its disposition -/

/-- What RFE releases before it returns: the journal entry of a recorded 0x0B, the exhaustion of a recorded 0x0E (R427, R47). -/
def State.releasedByRfe (s : State) (c : Nat) : State :=
  let k := s.core c
  let recd := k.sup.estat.toNat.testBit 40
  let cause := k.sup.ecause.toNat
  if recd && cause == 0x0B then s.setCore c (k.setJournal k.pl.auxid {})
  else if recd && cause == 0x0E then s.setCore c (k.modFe fun f => { f with exhausted := false })
  else s

/-- No threadlet stands under the handler: REC = 1 or HANDLE = 0. -/
def Core.underNone (k : Core) : Bool := k.sup.estat.toNat.testBit 40 || bits k.sup.estat.toNat 31 0 == 0

/-- RFE with DISP 00, and with any but 11 where no threadlet stands under the handler. -/
def State.rfeReturn (s : State) (c : Nat) : Except (Nat × Nat) State :=
  let k := s.core c
  if k.underNone && !isFw c then
    .ok (((s.releasedByRfe c).modCore c (·.modPl fun p => { p with sup := false, pipe := .idle })).boundary c)
  else
    match targetTrap (s.codeSize c (k.sup.estat.getLsbD 44)) k.sup.epc.toNat with
    | some t => .error (t, k.sup.epc.toNat)
    | none => .ok (((s.releasedByRfe c).modCore c Core.resume).boundary c)

/-- RFE with DISP 01 or 10. -/
def State.rfeEnd (s : State) (c : Nat) (free : Bool) : Except (Nat × Nat) State :=
  if (s.core c).underNone then s.rfeReturn c
  else .ok ((if (s.core c).pl.doomed then (s.releasedByRfe c).endDoomed c else (s.releasedByRfe c).endThreadlet c free).boundary c)

section Rfe
variable {s : State} {c : Nat}

theorem rfe_of_disp_zero (hd : bits (s.core c).sup.estat.toNat 39 38 = 0) : s.rfe c = s.rfeReturn c := by
  unfold State.rfe
  simp only [hd]
  rfl

theorem rfe_of_disp_one (hd : bits (s.core c).sup.estat.toNat 39 38 = 1) : s.rfe c = s.rfeEnd c false := by
  unfold State.rfe
  simp only [hd]
  rfl

theorem rfe_of_disp_two (hd : bits (s.core c).sup.estat.toNat 39 38 = 2) : s.rfe c = s.rfeEnd c true := by
  unfold State.rfe
  simp only [hd]
  rfl

theorem rfe_of_disp_three (hd : bits (s.core c).sup.estat.toNat 39 38 = 3) : s.rfe c =
    if (s.core c).sup.ecause.toNat = 0 then
      .ok (if (s.finishMoves c).settling c then (s.finishMoves c).modCore c (·.modEng (·.stop s.cycles)) else (s.finishMoves c).park c)
    else if (s.core c).sup.ecause.toNat = 0x10 ∧ (s.core c).sup.estat.toNat.testBit 41 then
      match if (s.core c).pl.doomed then none else (s.releasedByRfe c).restartRunning c with
      | some s => .ok (s.boundary c)
      | none => s.rfeEnd c true
    else .error (0x02, (s.core c).sup.estat.toNat) := by
  unfold State.rfe
  simp only [hd]
  rfl


theorem disp_eq : ((s.core c).sup.estat.extractLsb' 38 2).toNat = bits (s.core c).sup.estat.toNat 39 38 := BitVec.extractLsb'_toNat ..

theorem underNone_iff : (s.core c).underNone = true ↔
    (s.core c).sup.estat.getLsbD 40 = true ∨ (s.core c).sup.estat.extractLsb' 0 32 = 0 := by
  unfold Core.underNone
  rw [Bool.or_eq_true, beq_iff_eq, ← BitVec.toNat_inj, BitVec.extractLsb'_toNat]
  rfl

/-! What is released first. -/

theorem releasedByRfe_nothing (h : ¬ ((s.core c).sup.estat.getLsbD 40 = true ∧
    ((s.core c).sup.ecause = 0x0B ∨ (s.core c).sup.ecause = 0x0E))) : s.releasedByRfe c = s := by
  have hne : ∀ v : BitVec 8, v = 0x0B ∨ v = 0x0E →
      ¬ (((s.core c).sup.estat.toNat.testBit 40 && (s.core c).sup.ecause.toNat == v.toNat) = true) := by
    intro v hv hc
    obtain ⟨hrecd, hcause⟩ := Bool.and_eq_true_iff.1 hc
    have hcause : (s.core c).sup.ecause = v := BitVec.eq_of_toNat_eq (beq_iff_eq.1 hcause)
    exact h ⟨hrecd, hcause ▸ hv⟩
  exact (if_neg (hne 0x0B (.inl rfl))).trans (if_neg (hne 0x0E (.inr rfl)))

theorem releasedByRfe_journal (hr : (s.core c).sup.estat.getLsbD 40 = true) (hc : (s.core c).sup.ecause = 0x0B) :
    s.releasedByRfe c = s.modCore c (·.setJournal (s.core c).pl.auxid {}) := by
  unfold State.releasedByRfe
  dsimp only
  rw [hc, show (s.core c).sup.estat.toNat.testBit 40 = true from hr]
  rfl

theorem releasedByRfe_exhausted (hr : (s.core c).sup.estat.getLsbD 40 = true) (hc : (s.core c).sup.ecause = 0x0E) :
    s.releasedByRfe c = s.modCore c (·.modFe fun f => { f with exhausted := false }) := by
  unfold State.releasedByRfe
  dsimp only
  rw [hc, show (s.core c).sup.estat.toNat.testBit 40 = true from hr]
  rfl

/-! The return. -/

theorem boundary_of_nothing (hd : (s.core c).pl.doomed = false) (hh : (s.core c).pl.haltReq = false) : s.boundary c = s := by
  simp [State.boundary, hd, hh]

theorem targetTrap_none {size t : Nat} (ha : t % 4 = 0) (hs : t < size) : targetTrap size t = none := by
  rw [targetTrap, if_neg (by omega), if_neg (by omega)]

theorem targetTrap_misaligned {size t : Nat} (ha : t % 4 ≠ 0) : targetTrap size t = some 0x04 := by
  rw [targetTrap, if_pos (by omega)]

theorem targetTrap_outside {size t : Nat} (ha : t % 4 = 0) (hs : size ≤ t) : targetTrap size t = some 0x05 := by
  rw [targetTrap, if_neg (by omega), if_pos (by omega)]

theorem rfeReturn_idle (hn : (s.core c).underNone = true) (hf : isFw c = false) : s.rfeReturn c =
    .ok (((s.releasedByRfe c).modCore c fun k => { k with pl := { k.pl with sup := false, pipe := .idle } }).boundary c) := by
  unfold State.rfeReturn
  dsimp only
  rw [hn, hf]
  rfl

section Resume
variable (h : (s.core c).underNone = false ∨ isFw c = true)
include h

theorem rfeReturn_resume (hrel : s.releasedByRfe c = s) (ha : (s.core c).sup.epc.toNat % 4 = 0)
    (hs : (s.core c).sup.epc.toNat < s.codeSize c ((s.core c).sup.estat.getLsbD 44))
    (hd : (s.core c).pl.doomed = false) (hh : (s.core c).pl.haltReq = false) :
    s.rfeReturn c = .ok (s.modCore c Core.resume) := by
  unfold State.rfeReturn
  dsimp only
  rw [if_neg (by simpa using h.resolve_left), targetTrap_none ha hs, hrel,
    boundary_of_nothing (by rw [State.core_modCore_self]; exact hd) (by rw [State.core_modCore_self]; exact hh)]

theorem rfeReturn_misaligned (ha : (s.core c).sup.epc.toNat % 4 ≠ 0) :
    s.rfeReturn c = .error (0x04, (s.core c).sup.epc.toNat) := by
  unfold State.rfeReturn
  dsimp only
  rw [if_neg (by simpa using h.resolve_left), targetTrap_misaligned ha]

theorem rfeReturn_outside (ha : (s.core c).sup.epc.toNat % 4 = 0)
    (hs : s.codeSize c ((s.core c).sup.estat.getLsbD 44) ≤ (s.core c).sup.epc.toNat) :
    s.rfeReturn c = .error (0x05, (s.core c).sup.epc.toNat) := by
  unfold State.rfeReturn
  dsimp only
  rw [if_neg (by simpa using h.resolve_left), targetTrap_outside ha hs]

end Resume

/-- Without a threadlet under the handler DISP 01 and 10 are as DISP 00. -/
theorem rfe_of_underNone (hn : (s.core c).underNone = true) (hd : bits (s.core c).sup.estat.toNat 39 38 ≤ 2) :
    s.rfe c = s.rfeReturn c := by
  have hend (free : Bool) : s.rfeEnd c free = s.rfeReturn c := if_pos hn
  interval_cases h : bits (s.core c).sup.estat.toNat 39 38
  · exact rfe_of_disp_zero h
  · exact (rfe_of_disp_one h).trans (hend _)
  · exact (rfe_of_disp_two h).trans (hend _)

/-! The end of the threadlet under the handler. -/

section Ends
variable (hn : (s.core c).underNone = false) (hrel : s.releasedByRfe c = s)
include hn hrel

theorem rfeEnd_live (free : Bool) (hd : (s.core c).pl.doomed = false) :
    s.rfeEnd c free = .ok ((s.endThreadlet c free).boundary c) := by
  rw [State.rfeEnd, hn, hd, hrel]
  rfl

theorem rfeEnd_doomed (free : Bool) (hd : (s.core c).pl.doomed = true) : s.rfeEnd c free = .ok ((s.endDoomed c).boundary c) := by
  rw [State.rfeEnd, hn, hd, hrel]
  rfl

end Ends

/-! DISP 11. -/

theorem releasedByRfe_of_interrupt (hc : (s.core c).sup.ecause = 0x10) : s.releasedByRfe c = s :=
  releasedByRfe_nothing fun h => by simp [hc] at h

section Three
variable (hd : bits (s.core c).sup.estat.toNat 39 38 = 3)
include hd

theorem rfe_park (hc : (s.core c).sup.ecause = 0) : s.rfe c =
    .ok (if (s.finishMoves c).settling c then (s.finishMoves c).modCore c (·.modEng (·.stop s.cycles)) else (s.finishMoves c).park c) := by
  rw [rfe_of_disp_three hd, if_pos (show (s.core c).sup.ecause.toNat = 0 from congrArg BitVec.toNat hc)]

theorem rfe_reserved (hc : (s.core c).sup.ecause ≠ 0)
    (hr : (s.core c).sup.ecause ≠ 0x10 ∨ (s.core c).sup.estat.getLsbD 41 = false) :
    s.rfe c = .error (0x02, (s.core c).sup.estat.toNat) := by
  rw [rfe_of_disp_three hd, if_neg (show ¬ (s.core c).sup.ecause.toNat = 0 from fun h => hc (BitVec.eq_of_toNat_eq h)), if_neg]
  rintro ⟨h10, hb⟩
  rcases hr with hr | hr
  · exact hr (BitVec.eq_of_toNat_eq h10)
  · exact Bool.false_ne_true (hr.symm.trans hb)

variable (hc : (s.core c).sup.ecause = 0x10) (hb : (s.core c).sup.estat.getLsbD 41 = true)
include hc hb

theorem rfe_interrupt : s.rfe c = match if (s.core c).pl.doomed then none else s.restartRunning c with
    | some s => .ok (s.boundary c)
    | none => s.rfeEnd c true := by
  rw [rfe_of_disp_three hd, releasedByRfe_of_interrupt hc, hc, if_neg (by decide), if_pos ⟨rfl, hb⟩]

theorem rfe_restarts {t : State} (hl : (s.core c).pl.doomed = false) (hr : s.restartRunning c = some t) :
    s.rfe c = .ok (t.boundary c) := by
  rw [rfe_interrupt hd hc hb, hl, if_neg (by decide), hr]

theorem rfe_not_restarted (h : (s.core c).pl.doomed = true ∨ s.restartRunning c = none) : s.rfe c = s.rfeEnd c true := by
  rw [rfe_interrupt hd hc hb]
  rcases h with h | h
  · rw [h]
    rfl
  · rw [h, ite_self]

end Three

end Rfe

/-! ### Restart (R440) -/

section Restart
variable {s : State} {c : Nat}

/-- The afterimage-log entry of the threadlet that runs on core c. -/
def State.afterEntry (s : State) (c : Nat) : Option AfterEnt :=
  (s.core c).pl.after.bind (Sparse.get none (s.cluster (clusterOf c)).log ·)

theorem restartRunning_none (h : ∀ e, s.afterEntry c = some e → 3 ≤ e.retry) : s.restartRunning c = none := by
  unfold State.afterEntry at h
  unfold State.restartRunning
  split
  · rfl
  case h_2 n hn =>
    split
    · rfl
    case h_2 e he => exact if_pos (h e (by rw [hn]; exact he))

theorem restartRunning_some {n j : Nat} {e : AfterEnt} (hn : (s.core c).pl.after = some n) (he : s.afterEntry c = some e)
    (hr : e.retry < 3) (hj : s.regionOf c = some j) :
    let u := (s.modCore c (·.modPl fun p => { p with after := none })).endThreadlet c true
    let k := u.cluster (clusterOf c)
    s.restartRunning c = some ((u.setCluster (clusterOf c) { k with log := Sparse.set none k.log n none }).send
      { src := .core c, dst := .core (s.nextCore j c), chan := .request, region := some j
        body := .restart e.tix e.pri e.job (e.retry + 1) e.frame }) := by
  intro u k
  have hkeep : KeepsMachine c s u := by
    refine (KeepsMachine.setCore .rfl ?_ ?_).trans (keepsMachine_endThreadlet _ c true) <;> rfl
  have hlog : Sparse.get none (s.cluster (clusterOf c)).log n = some e := by
    rw [State.afterEntry, hn] at he
    exact he
  have hnext : (u.setCluster (clusterOf c) { k with log := Sparse.set none k.log n none }).nextCore j c = s.nextCore j c := by
    unfold State.nextCore
    rw [State.region_setCluster, hkeep.region, State.setCluster_fw, hkeep.fw]
  unfold State.restartRunning
  rw [hn]
  dsimp only
  rw [hlog]
  dsimp only
  rw [if_neg (by omega), State.restart, hkeep.regionOf.trans hj]
  dsimp only
  rw [hnext]

end Restart

/-! ### The statement -/

section Exec
variable {i : Instr} {s : State} (hm : majorOf i = some 0x1A) (hr : Runs i s) (hs : s.me.pl.sup = true)
include hm hr hs

theorem exec_rfe_ok {t : State} (h : s.rfe s.cur = .ok t) : exec i s = .next t := by
  rw [show exec i s = opRfe (fieldsOf i) s from exec_core hm s, opRfe, run_runs (fun _ => hs) hr.1 hr.2, h]

theorem exec_rfe_error {t : Nat × Nat} (h : s.rfe s.cur = .error t) : exec i s = trapOut s t.1 t.2 := by
  rw [show exec i s = opRfe (fieldsOf i) s from exec_core hm s, opRfe, run_runs (fun _ => hs) hr.1 hr.2, h]

end Exec

/-- Settles O12, disposition by disposition: each answer of RFE is one of the lemmas above. -/
theorem rfeActsByItsDisposition : Obligations.RfeActsByItsDisposition := by
  intro i s hw hm hr hs disp recd none_ epc size back left
  have ok {t : State} (h : s.rfe s.cur = .ok t) : exec i s = .next t := exec_rfe_ok hm hr hs h
  have traps {cause val : Nat} (h : s.rfe s.cur = .error (cause, val)) : TrapsWith i s cause val :=
    .of_exec (exec_rfe_error hm hr hs h)
  have hdisp : disp = bits (s.core s.cur).sup.estat.toNat 39 38 := disp_eq
  have hnone : (s.core s.cur).underNone = true ↔ none_ := underNone_iff
  have hsome (h : ¬ none_) : (s.core s.cur).underNone = false := Bool.eq_false_iff.2 fun hn => h (hnone.1 hn)
  have hunrecorded (h : ¬ recd = true) : s.releasedByRfe s.cur = s := releasedByRfe_nothing fun hx => h hx.1
  rw [hdisp]
  refine ⟨fun hn => ?threadlet, fun hn hd hf => ?none, fun hn hd hf hrec hl hh => ?firmware, fun hd hc => ?park,
    fun hd hc h10 => traps (rfe_reserved hd hc h10), fun hd hc hb => ?interrupt⟩
  case threadlet =>
    have hu := hsome hn
    have hrel := hunrecorded fun h => hn (.inl h)
    refine ⟨fun hd ha hlt hl hh => ok ((rfe_of_disp_zero hd).trans (rfeReturn_resume (.inl hu) hrel ha hlt hl hh)),
      fun hd ha => traps ((rfe_of_disp_zero hd).trans (rfeReturn_misaligned (.inl hu) ha)),
      fun hd ha hle => traps ((rfe_of_disp_zero hd).trans (rfeReturn_outside (.inl hu) ha hle)),
      fun hd hl => ok ((rfe_of_disp_one hd).trans (rfeEnd_live hu hrel false hl)),
      fun hd hl => ok ((rfe_of_disp_two hd).trans (rfeEnd_live hu hrel true hl)), ?_⟩
    rintro (hd | hd) hl
    · exact ok ((rfe_of_disp_one hd).trans (rfeEnd_doomed hu hrel false hl))
    · exact ok ((rfe_of_disp_two hd).trans (rfeEnd_doomed hu hrel true hl))
  case none =>
    have hidle := ok ((rfe_of_underNone (hnone.2 hn) hd).trans (rfeReturn_idle (hnone.2 hn) hf))
    refine ⟨fun hrel => ?_, fun hrec hc => ?_, fun hrec hc => ?_⟩
    · rw [releasedByRfe_nothing hrel] at hidle
      exact hidle
    · rw [releasedByRfe_journal hrec hc] at hidle
      exact hidle
    · rw [releasedByRfe_exhausted hrec hc] at hidle
      exact hidle
  case firmware =>
    have hrfe := rfe_of_underNone (hnone.2 hn) hd
    exact ⟨fun ha hlt => ok (hrfe.trans (rfeReturn_resume (.inr hf) (hunrecorded (by simp [hrec])) ha hlt hl hh)),
      fun ha => traps (hrfe.trans (rfeReturn_misaligned (.inr hf) ha)),
      fun ha hle => traps (hrfe.trans (rfeReturn_outside (.inr hf) ha hle))⟩
  case park =>
    have hrfe := ok (rfe_park hd hc)
    exact ⟨fun hset => by rw [hrfe, hset]; rfl, fun hset => by rw [hrfe, hset]; rfl⟩
  case interrupt =>
    have hrel : s.releasedByRfe s.cur = s := releasedByRfe_of_interrupt hc
    intro log entry
    refine ⟨fun n e j hl hh hn he hr hj => ?_, fun he hn hl => ?_, fun hn hl => ?_, fun h hn hf => ?_⟩
    · intro u k
      have hrestart := restartRunning_some hn he hr hj
      refine ⟨s.nextCore j s.cur, ?_, nextCore_spec s j s.cur⟩
      have hpl : ((u.setCluster (clusterOf s.cur) { k with log := Sparse.set none k.log n none }).core s.cur).pl = s.me.pl.ended := by
        refine (core_endThreadlet (s.modMe (·.modPl fun p => { p with after := none })) s.cur true).2.trans ?_
        rw [show (s.modMe (·.modPl fun p => { p with after := none })).core s.cur = _ from State.core_modCore_self ..]
        rfl
      rw [ok (rfe_restarts hd hc hb hl hrestart)]
      refine congrArg Host.Outcome.next (boundary_of_nothing ?_ ?_)
      · exact (congrArg Pipeline.doomed hpl).trans hl
      · exact (congrArg Pipeline.haltReq hpl).trans hh
    · exact ok ((rfe_not_restarted hd hc hb (.inr (restartRunning_none he))).trans (rfeEnd_live (hsome hn) hrel true hl))
    · exact ok ((rfe_not_restarted hd hc hb (.inl hl)).trans (rfeEnd_doomed (hsome hn) hrel true hl))
    · have hrfe := rfe_not_restarted hd hc hb (h.imp id restartRunning_none)
      have hidle := ok ((hrfe.trans (if_pos (hnone.2 hn))).trans (rfeReturn_idle (hnone.2 hn) hf))
      rw [hrel] at hidle
      exact hidle

end Sys2Proof.Machine
end

section
/-! SUPPORT. What a claim of scratchpad blocks leaves alone (R420, R435): every part of the state but the cores, memory and its slices, the
clusters' Prisms, the regions, the host's port and the stall. -/

namespace Sys2Proof.Machine

/-- A part of the state that the device's own work for a claim does not reach. -/
structure BesideClaims {α : Type} (p : State → α) : Prop where
  cores : ∀ (s : State) v, p { s with cores := v } = p s
  mem : ∀ (s : State) v, p { s with mem := v } = p s
  slices : ∀ (s : State) v, p { s with slices := v } = p s
  clusters : ∀ (s : State) v, p { s with clusters := v } = p s
  regions : ∀ (s : State) v, p { s with regions := v } = p s
  port : ∀ (s : State) v, p { s with port := v } = p s
  stall : ∀ (s : State) v, p { s with stall := v } = p s

/-- Which core moves is such a part. -/
theorem besideClaims_cur : BesideClaims State.cur :=
  ⟨fun _ _ => rfl, fun _ _ => rfl, fun _ _ => rfl, fun _ _ => rfl, fun _ _ => rfl, fun _ _ => rfl, fun _ _ => rfl⟩

namespace BesideClaims

section Slices
variable {α : Type} {p : State → α} (hp : BesideClaims p) (s : State) (h line pa key th asid va v : Nat) (d : Line) (full : Bool)
  (need : Need)
include hp

/-! ### Work at a slice (R332 to R348, R354) -/

theorem setSlice (l : Slice) : p (s.setSlice h l) = p s := hp.slices s _

theorem setCline (c : Option CLine) : p (s.setCline h line c) = p s := hp.setSlice s h _

theorem hbmWrite : p (s.hbmWrite line key d full) = p s := hp.mem s _

theorem poisonLine : p (s.poisonLine line) = p s := hp.mem s _

theorem unpoison : p (s.unpoison line) = p s := hp.mem s _

theorem correctLine : p (s.correctLine line) = p s := by
  unfold State.correctLine
  dsimp only
  split
  · rfl
  · split
    · rw [hp.setSlice]
      exact hp.mem s _
    · exact hp.mem s _

theorem scanLine : p (s.scanLine line) = p s := by
  unfold State.scanLine
  dsimp only
  split
  · rw [hp.poisonLine, hp.correctLine]
  · exact hp.correctLine s line

theorem physWrite : p (s.physWrite pa v) = p s := by
  unfold State.physWrite
  split
  · exact hp.hbmWrite s _ _ _ _
  · exact hp.mem s _
  · rfl

theorem scanTables : p (s.scanTables h asid va) = p s := by
  unfold State.scanTables
  split
  · rfl
  · exact foldl_keeps (fun s pa => hp.scanLine s (pa / 64)) _ s

theorem fresh (l : Slice) : p (State.translate.fresh h asid va need s l).1 = p s := by
  unfold State.translate.fresh
  split
  · rw [hp.setSlice, apply_ite p, hp.physWrite, ite_self]
  · rfl

theorem translate : p (s.translate h asid va need).1 = p s := by
  unfold State.translate
  dsimp only
  split
  · split
    · rfl
    · rw [hp.fresh, hp.scanTables]
  · rw [hp.fresh, hp.scanTables]

theorem scanCached : p (s.scanCached h line) = p s := by
  unfold State.scanCached
  split
  · split
    · rfl
    · dsimp only
      split
      · rw [hp.poisonLine, hp.setCline, hp.setSlice]
      · rw [hp.setCline, hp.setSlice]
  · rfl

theorem writeBack : p (s.writeBack h line) = p s := by
  unfold State.writeBack
  split
  · rfl
  · dsimp only
    split
    · rw [hp.setCline, apply_ite p, hp.unpoison, hp.hbmWrite, ite_self, hp.scanCached]
    · exact hp.scanCached s h line

theorem ensureLine : p (s.ensureLine h line key th).1 = p s := by
  unfold State.ensureLine
  extract_lets s1 _ s2 s3
  have h1 : p s1 = p s := by
    unfold s1
    split
    · split
      · exact hp.scanCached s h line
      · rw [hp.setCline, hp.writeBack]
    · rfl
  have h2 : p s2 = p s1 := by
    unfold s2
    split
    · rfl
    · split
      · rw [hp.setCline, hp.writeBack]
      · rfl
  split
  · rw [hp.setCline, hp.setSlice, h1]
  · rw [hp.setCline, hp.setSlice, hp.scanLine, h2, h1]

theorem noteLine : p (s.noteLine h pa asid va) = p s := by
  unfold State.noteLine
  split
  · split
    · split
      · rfl
      · exact hp.setCline s h _ _
    · rfl
  · rfl

theorem bypass : p (s.bypass h line th) = p s := by
  unfold State.bypass
  split
  · rw [hp.setCline, hp.writeBack]
  · rfl

theorem writeAt (bs : List Byte) (f : Option Bool) : p (s.writeAt h pa bs key th f).1 = p s := by
  unfold State.writeAt
  dsimp only
  split
  · split
    · rfl
    · split
      · exact hp.ensureLine s h _ key th
      · rw [hp.bypass, hp.setCline, apply_ite p, hp.unpoison, ite_self, hp.ensureLine]
  · split
    · exact hp.scanLine s _
    · exact (hp.mem _ _).trans (hp.scanLine s _)
  · rfl

theorem paWrite (bs : List Byte) (f : Option Bool) : p (s.paWrite h pa bs key th f).1 = p s := by
  have hw := hp.writeAt s h pa key th bs f
  unfold State.paWrite
  split
  · split
    · exact hp.port s _
    · exact hp.port s _
  · split <;> simp_all
  · split <;> simp_all
  · rfl

theorem watchGen (page size : Nat) : p (s.watchGen asid page size).1 = p s := by
  unfold State.watchGen
  dsimp only
  split
  · rfl
  · split
    · exact hp.setSlice s _ _
    · exact (hp.setSlice _ _ _).trans (hp.clusters s _)

theorem watchBump (page size : Nat) : p (s.watchBump asid page size) = p s := by
  unfold State.watchBump
  dsimp only
  rw [hp.setSlice, apply_ite p, show p (State.prismDiscard _ asid page size) = _ from hp.clusters _ _, ite_self, hp.watchGen]

theorem gTrans : p (s.gTrans asid va need).1 = p s := by
  have ht := hp.translate s (homeSlice va) asid va need
  unfold State.gTrans
  split <;> simp_all

theorem gTransVia (w : Via) : p (s.gTransVia w asid va need).1 = p s := by
  have ht := hp.gTrans s asid va need
  unfold State.gTransVia
  split
  · rfl
  · split
    · rfl
    · split
      · split <;> simp_all
      · exact ht

theorem gWriteAt (leaf : Nat) (bs : List Byte) (w : Via) : p (s.gWriteAt asid va pa leaf bs full w).1 = p s := by
  have hw := hp.paWrite s (homeSlice va) pa (leafKey leaf) w.th bs (if full && leafSync leaf then some true else none)
  unfold State.gWriteAt
  split
  case h_1 heq =>
    rw [heq] at hw
    exact hw
  case h_2 heq =>
    rw [heq] at hw
    dsimp only
    rw [apply_ite p, hp.watchBump, ite_self, hp.noteLine]
    exact hw

end Slices

/-! ### The device's own writes, and the claim -/

section Claims
variable {α : Type} {p : State → α} (hp : BesideClaims p) (s : State)
include hp

theorem modCore (c : Nat) (f : Core → Core) : p (s.modCore c f) = p s := hp.cores s _

theorem setRegion (i : Nat) (r : Region) : p (s.setRegion i r) = p s := hp.regions s _

theorem replied {β : Type} (c : Nat) (r : State × Except GErr β) : p (State.replied c r).1 = p r.1 := by
  unfold State.replied
  split
  case h_4 => rfl
  all_goals
    split
    · exact hp.cores r.1 _
    · rfl

theorem gWritePiece (asid va : Nat) (bs : List Byte) (v : Via) : p (s.gWritePiece asid va bs v).1 = p s := by
  have ht := hp.gTransVia s asid va .write v
  unfold State.gWritePiece
  rw [hp.replied]
  split
  case h_1 heq =>
    rw [heq] at ht
    exact ht
  case h_2 heq =>
    rw [heq] at ht
    exact (hp.gWriteAt _ _ _ _ _ _ _ _).trans ht

theorem gWritePieces (asid : Nat) (bs : List Byte) (ps : List (Nat × Nat)) (v : Via) : p (s.gWritePieces asid bs ps v).1 = p s := by
  induction ps generalizing s bs with
  | nil => rfl
  | cons a ps ih =>
    have ha := hp.gWritePiece s asid a.1 (bs.take a.2) v
    rw [State.gWritePieces]
    split
    case h_1 heq =>
      rw [heq] at ha
      exact ha
    case h_2 heq =>
      rw [heq] at ha
      exact (ih _ _).trans ha

theorem ownWrite (asid va : Nat) (bs : List Byte) (c : Nat) : p (s.ownWrite asid va bs c).1 = p s := by
  have hw := hp.gWritePieces s asid bs (linePieces (bs.length / 64 + 2) va bs.length)
    { turn := true, core := c, front := c == 0xFFF, own := true }
  unfold State.ownWrite State.ownTurn State.gWrite
  split
  · exact hp.stall s _
  · exact hw

/-- After a write of its own the device goes on from a state with the same part, whether the write failed or not. -/
theorem of_ownWrite {t : State} {asid va c : Nat} {bs : List Byte} {r : State × Except GErr Unit} (h : t.ownWrite asid va bs c = r) :
    p r.1 = p t :=
  h ▸ hp.ownWrite t asid va bs c

theorem saveFault (i : Nat) (block : Option (Nat × Nat)) : p (s.saveFault i block) = p s := by
  unfold State.saveFault
  dsimp only
  split
  · rfl
  · split
    · rw [hp.ownWrite, hp.setRegion]
    · exact hp.setRegion s i _

theorem claimFor (c b i : Nat) : p (s.claimFor c b i) = p s := by
  unfold State.claimFor
  dsimp only
  split
  · rfl
  split
  · rfl
  split
  · rfl
  split
  · rfl
  split
  · split
    case h_1 hdata => exact (hp.saveFault _ _ _).trans (hp.of_ownWrite hdata)
    case h_2 hdata =>
      split
      case h_1 hentry => exact (hp.saveFault _ _ _).trans ((hp.of_ownWrite hentry).trans (hp.of_ownWrite hdata))
      case h_2 hentry =>
        rw [hp.setRegion, hp.ownWrite]
        exact (hp.of_ownWrite hentry).trans (hp.of_ownWrite hdata)
  · split
    case h_1 hentry => exact (hp.saveFault _ _ _).trans (hp.of_ownWrite hentry)
    case h_2 hentry => exact (hp.setRegion _ _ _).trans (hp.of_ownWrite hentry)

theorem claimBlock (c b : Nat) : p (s.claimBlock c b) = p s := by
  unfold State.claimBlock
  split
  · exact (hp.modCore _ c _).trans (foldl_keeps (fun s i => hp.claimFor s c b i) _ s)
  · rfl

theorem claim (c a n : Nat) : p (s.claim c a n) = p s := by
  unfold State.claim
  split
  · rfl
  · split
    · exact foldl_keeps (fun s i => hp.claimBlock s c _) _ s
    · rfl

theorem reach (c a n : Nat) : p (s.reach c a n) = p s := by
  unfold State.reach
  dsimp only
  split
  · exact hp.claim s c a n
  · rw [hp.modCore, hp.claim]

theorem scrWrite (c a : Nat) (bs : List Byte) : p (s.scrWrite c a bs) = p s :=
  (hp.cores (s.claim c a bs.length) _).trans (hp.claim s c a _)

end Claims

end BesideClaims

@[simp] theorem State.reach_cur (s : State) (c a n : Nat) : (s.reach c a n).cur = s.cur := besideClaims_cur.reach s c a n

@[simp] theorem State.scrWrite_cur (s : State) (c a : Nat) (bs : List Byte) : (s.scrWrite c a bs).cur = s.cur :=
  besideClaims_cur.scrWrite s c a bs

end Sys2Proof.Machine
end

section
/-! SUPPORT and PROOFS. PRIO, BARCFG and the two ends of the deque behind their guards (R150, R152, R154, R155, R355), and O28. -/

namespace Sys2Proof.Machine

section Deque
variable {i : Instr} {s : State}

/-- PRIO behind its guards (R150). -/
theorem exec_prio (hm : majorOf i = some 0x09) (hr : Runs i s) : exec i s =
    .next ((s.modMe fun c => { c with spr := { c.spr with prio := BitVec.ofNat 2 (fieldsOf i).m } }).advance i.len) := by
  rw [show exec i s = opPrio (fieldsOf i) s from exec_core hm s, opPrio, run_running hr, done, len_eq (isCore_of_major hm)]

/-- The entry that BARCFG binds: its operands as numbers (R152). -/
def barEntry (i : Instr) (s : State) : BarEnt :=
  { handle := (opA i s).toNat % 2 ^ 32, slot := (fieldsOf i).imm / 16 % 8, count := (fieldsOf i).imm / 65536 }

/-- BARCFG behind its guards (R152). -/
theorem exec_barcfg (hm : majorOf i = some 0x0B) (hr : Runs i s) : exec i s =
    let h := (opA i s).toNat % 2 ^ 32
    if s.handleOk s.cur h = false ∨ sameInst (fieldsOf i).sc s.cur (handleCore h) = false then trapOut s 0x06 h
    else .next ((s.modMe (·.modNet fun t => { t with
      bars := Sparse.set none t.bars (16 * ((fieldsOf i).sc - 2) + (fieldsOf i).imm % 16) (some (barEntry i s)) })).advance i.len) := by
  have hslot : bits (fieldsOf i).imm 6 4 = (fieldsOf i).imm / 16 % 8 :=
    congrArg (· % 8) (Nat.shiftRight_eq_div_pow (fieldsOf i).imm 4)
  have hcount : bits (fieldsOf i).imm 31 16 = (fieldsOf i).imm / 65536 := bits_eq_div (by norm_num) (imm_lt_two_pow_32 i)
  have hix : (fieldsOf i).barIx = 16 * ((fieldsOf i).sc - 2) + (fieldsOf i).imm % 16 := rfl
  rw [show exec i s = opBarcfg (fieldsOf i) s from exec_core hm s, opBarcfg, run_running hr, hslot, hcount, hix,
    len_eq (isCore_of_major hm)]
  exact if_congr (by simp only [Bool.or_eq_true, Bool.not_eq_true']; rfl) rfl rfl

/-- The moving core's scratchpad once the deque's header has been reached (R154). -/
def headReached (s : State) : State := s.reach s.cur s.me.spr.dqbase.toNat 16

/-- Once the entry has been reached, too. -/
def entryReached (s : State) (e : Nat) : State := (headReached s).reach s.cur ((headReached s).me.dqEntry e) 16

/-- The entry behind the last, and the last. -/
def tailIx (s : State) : Nat := ((headReached s).me.dqTop + (headReached s).me.dqCnt) % s.me.dqCap
def lastIx (s : State) : Nat := ((headReached s).me.dqTop + ((headReached s).me.dqCnt - 1)) % s.me.dqCap

@[simp] theorem headReached_cur : (headReached s).cur = s.cur := State.reach_cur ..

@[simp] theorem entryReached_cur (e : Nat) : (entryReached s e).cur = s.cur := (State.reach_cur ..).trans headReached_cur

/-- DQPUSH behind its guards: the header is read before the entry, and the entry before it is written (R155, R355). -/
theorem exec_dqpush (hm : majorOf i = some 0x0C) (hr : Runs i s) : exec i s =
    let u := headReached s
    let v := entryReached s (tailIx s)
    if s.me.dqCap = 0 then .next ((s.modMe (·.writeP (fieldsOf i).d false)).advance i.len)
    else if u.me.dqHeadBad then trapOut u 0x10 u.me.spr.dqbase.toNat
    else if s.me.dqCap ≤ u.me.dqCnt then .next ((u.modMe (·.writeP (fieldsOf i).d false)).advance i.len)
    else if v.me.dqEntryBad (tailIx s) then trapOut v 0x10 (u.me.dqEntry (tailIx s))
    else .next ((((v.scrWrite s.cur (u.me.dqEntry (tailIx s)) (natLE 8 (opA i v).toNat ++ natLE 8 (opB i v).toNat)).scrWrite
      s.cur (u.me.spr.dqbase.toNat + 8) (natLE 4 (u.me.dqCnt + 1))).modMe (·.writeP (fieldsOf i).d true)).advance i.len) := by
  rw [show exec i s = opDqpush (fieldsOf i) s from exec_core hm s, opDqpush, run_running hr, len_eq (isCore_of_major hm)]
  simp only [setP, done, vB_eq_opB, State.reach_cur]
  rfl

/-- DQPOP behind its guards (R155, R355). -/
theorem exec_dqpop (hm : majorOf i = some 0x0D) (hr : Runs i s) : exec i s =
    let u := headReached s
    let w := entryReached s (lastIx s)
    if s.me.dqCap = 0 then .next ((s.modMe (·.writeP (fieldsOf i).a false)).advance i.len)
    else if u.me.dqHeadBad then trapOut u 0x10 u.me.spr.dqbase.toNat
    else if u.me.dqCnt = 0 then .next ((u.modMe (·.writeP (fieldsOf i).a false)).advance i.len)
    else if w.me.dqEntryBad (lastIx s) then trapOut w 0x10 (u.me.dqEntry (lastIx s))
    else .next (((w.scrWrite s.cur (u.me.spr.dqbase.toNat + 8) (natLE 4 (u.me.dqCnt - 1))).modMe fun c =>
      ((c.writeG (fieldsOf i).d (BitVec.ofNat 64 (c.scr.readN (u.me.dqEntry (lastIx s)) 8))).writeG ((fieldsOf i).d + 1)
        (BitVec.ofNat 64 (c.scr.readN (u.me.dqEntry (lastIx s) + 8) 8))).writeP (fieldsOf i).a true).advance i.len) := by
  rw [show exec i s = opDqpop (fieldsOf i) s from exec_core hm s, opDqpop, run_running hr, len_eq (isCore_of_major hm)]
  simp only [done, State.reach_cur]
  rfl

end Deque

/-- An answer that is an exact trap at a state that the instruction has reached. -/
theorem taken_of_exec {i : Instr} {s t : State} {cause val : Nat} (h : exec i s = trapOut t cause val) :
    ∃ t', exec i s = .next t' ∧ TrapTaken t t' cause val :=
  ⟨_, h, trapTaken_trap t cause val⟩

/-- Settles O28: PRIO and BARCFG are one update each, and DQPUSH and DQPOP are their checks in their order, then the entry. -/
theorem priorityBarrierAndDequeResults : Obligations.PriorityBarrierAndDequeResults := by
  intro i s hw hr k h entry n u base tail last v w
  refine ⟨fun hm => exec_prio hm hr, fun hm hh hi => ?_, fun hm hbad => .of_exec ?_, fun hm h0 => ?_, fun hm h0 hb hc => ?_,
    fun hm h0 hb hc he => ?_, fun hm h0 => ?_, fun hm h0 hb hc => ?_, fun hm h0 hb hc he => ?_, ?_, fun hm h0 hb hc he => ?_,
    fun hm h0 hb hc he => ?_⟩
  · exact (exec_barcfg hm hr).trans (if_neg (not_or.2 ⟨ne_false_of_eq_true hh, ne_false_of_eq_true hi⟩))
  · exact (exec_barcfg hm hr).trans (if_pos hbad)
  · exact (exec_dqpush hm hr).trans (if_pos h0)
  · exact (exec_dqpush hm hr).trans ((if_neg h0).trans ((if_neg (ne_true_of_eq_false hb)).trans (if_pos hc)))
  · exact (exec_dqpush hm hr).trans ((if_neg h0).trans ((if_neg (ne_true_of_eq_false hb)).trans
      ((if_neg (Nat.not_le.mpr hc)).trans (if_neg (ne_true_of_eq_false he)))))
  · exact (exec_dqpop hm hr).trans (if_pos h0)
  · exact (exec_dqpop hm hr).trans ((if_neg h0).trans ((if_neg (ne_true_of_eq_false hb)).trans (if_pos hc)))
  · exact (exec_dqpop hm hr).trans ((if_neg h0).trans ((if_neg (ne_true_of_eq_false hb)).trans
      ((if_neg hc).trans (if_neg (ne_true_of_eq_false he)))))
  · rintro (hm | hm) h0 hb
    · exact taken_of_exec ((exec_dqpush hm hr).trans ((if_neg h0).trans (if_pos hb)))
    · exact taken_of_exec ((exec_dqpop hm hr).trans ((if_neg h0).trans (if_pos hb)))
  · exact taken_of_exec ((exec_dqpush hm hr).trans ((if_neg h0).trans ((if_neg (ne_true_of_eq_false hb)).trans
      ((if_neg (Nat.not_le.mpr hc)).trans (if_pos he)))))
  · exact taken_of_exec ((exec_dqpop hm hr).trans ((if_neg h0).trans ((if_neg (ne_true_of_eq_false hb)).trans
      ((if_neg hc).trans (if_pos he)))))

end Sys2Proof.Machine
end

section
/-! SUPPORT and PROOFS. The last core of a SYNCI's scope to empty its caches, and the refutation of O13; an update of the issuing frame that
waits behind an earlier one, and the refutation of O27. -/

namespace Sys2Proof.Machine

/-! ### SYNCI (R166) -/

/-- A SYNCI that core 1 issued has still to reach core 0, and its message is on its way there. -/
def synciSent : State :=
  { syncs := [{ ref := { origin := 1 }, await := [0] }], msgs := [{ src := .core 1, dst := .core 0, chan := .signal, body := .synci 0 }] }

/-- The last core of the scope completes the SYNCI for the core that issued it, as a core, and not as an engine of that core. -/
theorem synciSent_signals : (synciSent.deliverOrder 0).msgs.map (·.src) = [.core 0] := by decide

/-- Refutes O13: its last clause has an engine of the core that was awaited last signal the SYNCI's slot, which holds only where that core
issued it (`Ref.completer`); at `synciSent` it is another. -/
theorem not_waitiAndSynciAct : ¬ Obligations.WaitiAndSynciAct := by
  rintro ⟨-, -, -, hdeliver⟩
  obtain ⟨-, -, hlast⟩ := hdeliver synciSent 0 0 0 _ rfl rfl rfl
  obtain ⟨hsignal, -⟩ := hlast _ rfl
  have hsrc := congrArg (fun t : State => t.msgs.map (·.src)) (hsignal rfl)
  dsimp only at hsrc
  rw [synciSent_signals] at hsrc
  exact absurd hsrc (by decide)

/-! ### An update of the issuing frame (R145, R293, R443) -/

/-- An update of the core's own pipeline that waits in the pending-arrival buffer. -/
def ownWaiting : Msg :=
  { src := .core 0, dst := .core 0, chan := .signal, body := .arrival { handle := 0x101, n := 1 }, region := some 0, own := true, tested := true }

/-- Core 0 runs a threadlet of frame 0, and an update of its frame 1, which is spilled, waits for that frame. -/
def ownBehind : State :=
  { cores := [(0, { pl := { live := true, handle := 1 }, fe := { frames := [(0, { st := 3 }), (1, { st := 5 })], pending := [ownWaiting] }, net := { region := some 0 } })] }

/-- Whether the shutters have tested what waits at core 0 when an instruction has been executed (R443). -/
def testedAfter : Out → List Bool
  | .next t => t.me.fe.pending.map (·.tested)
  | _ => []

/-- The shutters test an update as it is taken, before it waits. -/
theorem ownBehind_tested : testedAfter (exec (.sig { imm := 1 }) ownBehind) = [true, true] := by decide

/-- Refutes O27: an update that waits behind an earlier one joins the pending arrivals as one that the shutters have tested (`Core.awaits`,
R443), where the statement has it join them as it was issued, untested. -/
theorem not_slotInstructionsUpdateSlots : ¬ Obligations.SlotInstructionsUpdateSlots := by
  intro hall
  obtain ⟨hsig, -⟩ := hall (.sig { imm := 1 }) ownBehind (by decide) ⟨by decide, by decide⟩
  obtain ⟨-, hacts⟩ := hsig rfl
  obtain ⟨-, -, -, -, -, hwaits⟩ := hacts rfl rfl
  obtain ⟨hpending, -⟩ := hwaits (by decide) (by decide) (by decide) (by decide)
  obtain ⟨t, ht, hp, -⟩ := hpending (by decide)
  have hanswer : testedAfter (exec (.sig { imm := 1 }) ownBehind) = t.me.fe.pending.map (·.tested) := congrArg testedAfter ht
  rw [ownBehind_tested, hp] at hanswer
  exact absurd hanswer (by decide)

end Sys2Proof.Machine
end

section
/-! SUPPORT and PROOFS. The integer instructions' operands and results in bit vectors of the instruction's width (R168), what each
operation makes of them (R170 to R176), and with them O17 and O18. -/

namespace Sys2Proof.Machine

/-! ### Operands and results on w bits (R168) -/

theorem widthOf_pos (i : Instr) : 0 < widthOf i := Nat.mul_pos (by norm_num) (Nat.two_pow_pos _)

/-- A width divides the number of values that it has. -/
theorem widthOf_dvd (i : Instr) : widthOf i ∣ 2 ^ widthOf i := by
  have h : widthOf i = 2 ^ (3 + (fieldsOf i).m % 4) := by rw [widthOf, pow_add]; rfl
  rw [h]
  exact Nat.pow_dvd_pow 2 Nat.lt_two_pow_self.le

theorem width_fieldsOf (i : Instr) : (fieldsOf i).width = widthOf i := rfl
theorem vC_eq_opC (i : Instr) (s : State) : (fieldsOf i).vC s = (opC i s).toNat := rfl

/-- What an operand of w bits reads as, signed or natural. -/
def readW {w : Nat} (signed : Bool) (a : BitVec w) : Int := if signed then a.toInt else a.toNat

@[simp] theorem readW_true {w : Nat} (a : BitVec w) : readW true a = a.toInt := rfl
@[simp] theorem readW_false {w : Nat} (a : BitVec w) : readW false a = a.toNat := rfl

section Width
variable {w : Nat}

theorem readI_toNat (hw : 0 < w) (signed : Bool) (x : Word) : readI signed w x.toNat = readW signed (x.setWidth w) := by
  cases signed with
  | true => exact (toSigned_eq_toInt w x.toNat hw.ne').trans (by rw [BitVec.ofNat_toNat]; rfl)
  | false => simp [readI]

theorem ofInt_readW (signed : Bool) (a : BitVec w) : BitVec.ofInt w (readW signed a) = a := by
  cases signed with
  | true => exact BitVec.ofInt_toInt
  | false => simp [BitVec.ofInt_natCast]

theorem readW_eq_zero (signed : Bool) (b : BitVec w) : readW signed b = 0 ↔ b = 0 := by
  constructor
  · intro h
    rw [← ofInt_readW signed b, h]
    simp
  · rintro rfl
    cases signed <;> simp

/-- A result on w bits as gD receives it. -/
theorem ofNat_extendI (h0 : 0 < w) (signed : Bool) (z : Int) :
    BitVec.ofNat 64 (extendI signed w z) = extendTo64 signed (BitVec.ofInt w z) := by
  cases signed with
  | true =>
    have hz : toSigned w (ofSigned w z) = (BitVec.ofInt w z).toInt := by
      rw [ofSigned_eq_toNat, toSigned_toNat _ h0.ne']
    rw [extendI, if_pos rfl, signExtend, hz, ofSigned_eq_toNat, BitVec.ofNat_toNat, BitVec.setWidth_eq]
    rfl
  | false =>
    simp only [extendI, extendTo64, ofSigned_eq_toNat, Bool.false_eq_true, if_false]
    exact BitVec.eq_of_toNat_eq (by simp)

end Width

section Shapes
variable {i : Instr} {s : State} {op : Nat}

/-- An instruction behind its guards that sets gD. -/
theorem WritesG.of_run {v : State → Nat} (hm : majorOf i = some op) (hr : Runs i s)
    (h : exec i s = run false (fieldsOf i) s fun s => setG (fieldsOf i) s (v s)) : WritesG i s (BitVec.ofNat 64 (v s)) :=
  .of_setG (isCore_of_major hm) (h.trans (run_running hr _))

/-- The integer operations that read and extend as signed or as natural. -/
theorem writesG_opInt {signed : Bool} {f : Nat → Int → Int → Int} (hm : majorOf i = some op) (hr : Runs i s)
    (h : exec i s = opInt signed f (fieldsOf i) s) :
    WritesG i s (extendTo64 signed (BitVec.ofInt (widthOf i)
      (f (widthOf i) (readW signed ((opA i s).setWidth (widthOf i))) (readW signed ((opB i s).setWidth (widthOf i)))))) := by
  have h0 := widthOf_pos i
  rw [← ofNat_extendI h0, ← readI_toNat h0, ← readI_toNat h0, ← vB_eq_opB]
  exact .of_run hm hr h

/-- The operations on bit patterns, extended by M[2]. -/
theorem writesG_opBits {f : Nat → Nat → Nat → Nat} (hm : majorOf i = some op) (hr : Runs i s)
    (h : exec i s = opBits f (fieldsOf i) s) :
    WritesG i s (extendTo64 (decide ((fieldsOf i).m < 4)) (BitVec.ofNat (widthOf i)
      (f (widthOf i) ((opA i s).setWidth (widthOf i)).toNat ((opB i s).setWidth (widthOf i)).toNat))) := by
  rw [← BitVec.ofInt_natCast, ← ofNat_extendI (widthOf_pos i), BitVec.toNat_setWidth, BitVec.toNat_setWidth]
  simp only [opBits, width_fieldsOf, vA_eq_opA, vB_eq_opB] at h
  exact (WritesG.of_run hm hr h :)

end Shapes

/-! ### ADD, SUB and MUL (R170) -/

/-- The exact result of ADD, SUB and MUL. -/
def exactArith (op : Nat) (x y : Int) : Int := if op = 0x20 then x + y else if op = 0x21 then x - y else x * y

section Results
variable {w : Nat}

/-- The exact result, wrapped. -/
theorem ofInt_exactArith (op : Nat) (signed : Bool) (a b : BitVec w) :
    BitVec.ofInt w (exactArith op (readW signed a) (readW signed b)) =
      if op = 0x20 then a + b else if op = 0x21 then a - b else a * b := by
  have hsub : BitVec.ofInt w (readW signed a - readW signed b) = a - b := by
    rw [sub_eq_add_neg, BitVec.ofInt_add, BitVec.ofInt_neg, ofInt_readW, ofInt_readW, sub_eq_add_neg]
  unfold exactArith
  split_ifs
  · rw [BitVec.ofInt_add, ofInt_readW, ofInt_readW]
  · exact hsub
  · rw [BitVec.ofInt_mul, ofInt_readW, ofInt_readW]

/-- Saturation clamps to the range of w bits, signed or natural. -/
theorem ofInt_saturate (op : Nat) (signed sat : Bool) (a b : BitVec w) :
    let z := exactArith op (readW signed a) (readW signed b)
    BitVec.ofInt w (if sat = true then (if signed then satS z w else clampInt z 0 ((2 ^ w : Nat) - 1)) else z) =
      arith op signed sat a b := by
  intro z
  unfold arith
  cases sat with
  | false => simpa [z] using ofInt_exactArith op signed a b
  | true =>
    have hp : (1 : Int) ≤ 2 ^ w := one_le_pow₀ (by norm_num)
    have hp' : (0 : Int) < 2 ^ (w - 1) := by positivity
    have hclamp (lo hi : Int) (h : lo ≤ hi) : clampInt z lo hi = max lo (min z hi) := by unfold clampInt; omega
    cases signed with
    | true =>
      simp only [if_true, satS]
      rw [hclamp _ _ (by push_cast; omega)]
      push_cast
      rfl
    | false =>
      simp only [if_true, Bool.false_eq_true, if_false]
      rw [hclamp _ _ (by push_cast; omega)]
      push_cast
      rfl

/-! ### MULH, DIV and REM (R171, R172) -/

/-- The upper half of an integer on 2w bits. -/
theorem extractLsb'_ofInt (z : Int) : (BitVec.ofInt (2 * w) z).extractLsb' w w = BitVec.ofInt w (z / (2 ^ w : Nat)) := by
  refine BitVec.eq_of_toNat_eq ?_
  rw [BitVec.extractLsb'_toNat, BitVec.toNat_ofInt, BitVec.toNat_ofInt, Nat.shiftRight_eq_div_pow, two_mul, pow_add]
  generalize hp : (2 ^ w : Nat) = p
  have h0 : (p : Int) ≠ 0 := by have := Nat.two_pow_pos w; omega
  zify
  rw [Int.toNat_of_nonneg (Int.emod_nonneg _ (mul_ne_zero h0 h0)), Int.toNat_of_nonneg (Int.emod_nonneg _ h0)]
  have hz : z % (p * p) = z + p * (p * -(z / (p * p))) := by rw [Int.emod_def]; ring
  rw [hz, Int.add_mul_ediv_left _ _ h0, Int.add_mul_emod_self_left]

/-- The upper half of the product, of operands extended to 2w bits. -/
theorem ofInt_mulUpper (signed : Bool) (a b : BitVec w) : BitVec.ofInt w (mulUpper w (readW signed a) (readW signed b)) =
    (BitVec.ofInt (2 * w) (readW signed a) * BitVec.ofInt (2 * w) (readW signed b)).extractLsb' w w := by
  rw [← BitVec.ofInt_mul, extractLsb'_ofInt, mulUpper]

/-- Without a zero divisor, the signed quotient wraps as the bit vectors' does, and the remainder is theirs. -/
theorem ofInt_tdiv (a b : BitVec w) : BitVec.ofInt w (a.toInt.tdiv b.toInt) = a.sdiv b :=
  BitVec.eq_of_toInt_eq (by rw [BitVec.toInt_ofInt, BitVec.toInt_sdiv])

theorem ofInt_tmod (a b : BitVec w) : BitVec.ofInt w (a.toInt.tmod b.toInt) = a.srem b := by
  rw [← BitVec.toInt_srem, BitVec.ofInt_toInt]

theorem ofInt_natDiv (a b : BitVec w) : BitVec.ofInt w ((a.toNat : Int).tdiv b.toNat) = a.udiv b := by
  rw [← Int.ofNat_tdiv, BitVec.ofInt_natCast, ← BitVec.toNat_udiv, BitVec.ofNat_toNat, BitVec.setWidth_eq]
  rfl

theorem ofInt_natMod (a b : BitVec w) : BitVec.ofInt w ((a.toNat : Int).tmod b.toNat) = a.umod b := by
  rw [← Int.ofNat_tmod, BitVec.ofInt_natCast, ← BitVec.toNat_umod, BitVec.ofNat_toNat, BitVec.setWidth_eq]
  rfl

/-- A quotient and a remainder, with what a zero divisor gives. -/
theorem ofInt_divQuot {signed : Bool} {a b q : BitVec w} (h : BitVec.ofInt w ((readW signed a).tdiv (readW signed b)) = q) :
    BitVec.ofInt w (divQuot w (readW signed a) (readW signed b)) = if b = 0 then BitVec.allOnes w else q := by
  rw [divQuot, apply_ite (BitVec.ofInt w), h]
  exact if_congr (readW_eq_zero signed b) (by rw [BitVec.ofInt_neg, ← BitVec.neg_one_eq_allOnes]; rfl) rfl

theorem ofInt_divRem {signed : Bool} {a b r : BitVec w} (h : BitVec.ofInt w ((readW signed a).tmod (readW signed b)) = r) :
    BitVec.ofInt w (divRem w (readW signed a) (readW signed b)) = if b = 0 then a else r := by
  rw [divRem, apply_ite (BitVec.ofInt w), h, ofInt_readW]
  exact if_congr (readW_eq_zero signed b) rfl rfl

end Results

section Integer
variable {i : Instr} {s : State} {op : Nat} (hm : majorOf i = some op) (hr : Runs i s)
include hm hr

/-- ADD, SUB and MUL: exact on the operands' readings, then saturated or wrapped. -/
theorem writesG_opArith {f : Int → Int → Int} (hf : f = exactArith op) (h : exec i s = opArith f (fieldsOf i) s) :
    WritesG i s (extendTo64 (decide ((fieldsOf i).m < 4)) (arith op (decide ((fieldsOf i).m < 4)) ((fieldsOf i).xop % 2 == 1)
      ((opA i s).setWidth (widthOf i)) ((opB i s).setWidth (widthOf i)))) := by
  unfold opArith at h
  have hw := writesG_opInt hm hr h
  simp only [hf, ← beq_iff_eq (a := (fieldsOf i).xop % 2)] at hw
  rw [← ofInt_saturate]
  exact hw

/-- An operation whose result, wrapped, is r. -/
theorem writesG_of_opInt {signed : Bool} {f : Nat → Int → Int → Int} {r : BitVec (widthOf i)}
    (h : exec i s = opInt signed f (fieldsOf i) s)
    (hv : BitVec.ofInt (widthOf i) (f (widthOf i) (readW signed ((opA i s).setWidth (widthOf i)))
      (readW signed ((opB i s).setWidth (widthOf i)))) = r) : WritesG i s (extendTo64 signed r) := by
  rw [← hv]
  exact writesG_opInt hm hr h

end Integer

/-- Settles O17: each operation is exact on the operands' readings, and its result wraps as the bit vectors' does. -/
theorem arithmeticResults : Obligations.ArithmeticResults := by
  intro i s op hw hm hr a b signed
  have hexec : exec i s = byMajor op (fieldsOf i) s := exec_core hm s
  refine ⟨fun hlo hhi => ?_, fun hlo hhi => ?_⟩
  · interval_cases op
    · exact writesG_opArith hm hr rfl hexec
    · exact writesG_opArith hm hr rfl hexec
    · exact writesG_opArith hm hr rfl hexec
  · interval_cases op
    · exact writesG_of_opInt hm hr hexec (ofInt_mulUpper true a b)
    · refine writesG_of_opInt hm hr hexec ((ofInt_mulUpper false a b).trans ?_)
      simp [upperOrDivide, BitVec.ofInt_natCast, BitVec.ofNat_toNat]
    · exact writesG_of_opInt hm hr hexec (ofInt_divQuot (ofInt_tdiv a b))
    · exact writesG_of_opInt hm hr hexec (ofInt_divQuot (ofInt_natDiv a b))
    · exact writesG_of_opInt hm hr hexec (ofInt_divRem (ofInt_tmod a b))
    · exact writesG_of_opInt hm hr hexec (ofInt_divRem (ofInt_natMod a b))

/-! ### The logical operations and the shifts (R174, R175) -/

section Results
variable {w : Nat}

/-- A pattern computed on natural numbers is the bit vectors' when its number is. -/
theorem ofNat_eq_of_toNat {x : Nat} {r : BitVec w} (h : r.toNat = x) : BitVec.ofNat w x = r := by
  rw [← h, BitVec.ofNat_toNat, BitVec.setWidth_eq]

theorem toNat_not_eq_notW (b : BitVec w) : (~~~b).toNat = notW w b.toNat := by
  rw [notW, ← BitVec.toNat_allOnes, ← BitVec.toNat_xor, BitVec.xor_allOnes]

/-- What the logical operations compute on the operands' numbers. -/
def logicNat (op w x y : Nat) : Nat :=
  if op = 0x29 then x &&& y else if op = 0x2A then x ||| y else if op = 0x2B then x ^^^ y
  else if op = 0x2C then x &&& notW w y else x ||| notW w y

theorem ofNat_logicNat (op : Nat) (a b : BitVec w) : BitVec.ofNat w (logicNat op w a.toNat b.toNat) = logic op a b := by
  unfold logicNat logic
  rw [← toNat_not_eq_notW]
  split_ifs
  · exact ofNat_eq_of_toNat (BitVec.toNat_and a b)
  · exact ofNat_eq_of_toNat (BitVec.toNat_or a b)
  · exact ofNat_eq_of_toNat (BitVec.toNat_xor a b)
  · exact ofNat_eq_of_toNat (BitVec.toNat_and a (~~~b))
  · exact ofNat_eq_of_toNat (BitVec.toNat_or a (~~~b))

theorem ofNat_shlW (a b : BitVec w) : BitVec.ofNat w (shlW w a.toNat b.toNat) = a <<< (b.toNat % w) :=
  BitVec.eq_of_toNat_eq (by rw [BitVec.toNat_ofNat, shlW, BitVec.toNat_shiftLeft, Nat.shiftLeft_eq])

theorem ofNat_rotW (a b : BitVec w) : BitVec.ofNat w (rotW w a.toNat b.toNat) = a.rotateLeft (b.toNat % w) := by
  have h := BitVec.toNat_rotateLeft (x := a) (r := b.toNat % w)
  rw [Nat.mod_mod, Nat.shiftLeft_eq, Nat.shiftRight_eq_div_pow] at h
  rw [rotW, ← h, BitVec.ofNat_toNat, BitVec.setWidth_eq]

/-- The count of a shift is the same read as signed and as natural. -/
theorem toNat_readW_emod (hw : w ∣ 2 ^ w) (signed : Bool) (b : BitVec w) : (readW signed b % (w : Int)).toNat = b.toNat % w := by
  have hdvd : (w : Int) ∣ (2 ^ w : Nat) := Int.natCast_dvd_natCast.2 hw
  have hb : (b.toNat : Int) = readW signed b % (2 ^ w : Nat) := by
    have h := congrArg BitVec.toNat (ofInt_readW signed b)
    rw [BitVec.toNat_ofInt] at h
    rw [← h, Int.toNat_of_nonneg (Int.emod_nonneg _ (by positivity))]
  rw [← Int.emod_emod_of_dvd _ hdvd, ← hb, ← Int.natCast_emod, Int.toNat_natCast]

theorem ofInt_shrW_natural (hw : w ∣ 2 ^ w) (a b : BitVec w) :
    BitVec.ofInt w (shrW w (readW false a) (readW false b)) = a >>> (b.toNat % w) := by
  rw [shrW, toNat_readW_emod hw, readW_false, ← Int.natCast_ediv, BitVec.ofInt_natCast, ← Nat.shiftRight_eq_div_pow,
    ← BitVec.toNat_ushiftRight, BitVec.ofNat_toNat, BitVec.setWidth_eq]

theorem ofInt_shrW_signed (hw : w ∣ 2 ^ w) (a b : BitVec w) :
    BitVec.ofInt w (shrW w (readW true a) (readW true b)) = a.sshiftRight (b.toNat % w) := by
  rw [shrW, toNat_readW_emod hw, readW_true, BitVec.sshiftRight_eq, Int.shiftRight_eq_div_pow]

/-! ### MIN, MAX, ABS and NEG (R176) -/

/-- The order of the readings is that of the bit vectors. -/
def below (signed : Bool) (a b : BitVec w) : Bool := if signed then a.slt b else a.ult b

theorem readW_lt (signed : Bool) (a b : BitVec w) : readW signed a < readW signed b ↔ below signed a b = true := by
  cases signed with
  | true => exact BitVec.slt_iff_toInt_lt.symm
  | false => simp [below, BitVec.ult]

theorem ofInt_minW (signed : Bool) (a b : BitVec w) :
    BitVec.ofInt w (minW w (readW signed a) (readW signed b)) = if below signed b a then b else a := by
  rw [minW, apply_ite (BitVec.ofInt w), ofInt_readW, ofInt_readW]
  exact if_congr (readW_lt signed b a) rfl rfl

theorem ofInt_maxW (signed : Bool) (a b : BitVec w) :
    BitVec.ofInt w (maxW w (readW signed a) (readW signed b)) = if below signed a b then b else a := by
  rw [maxW, apply_ite (BitVec.ofInt w), ofInt_readW, ofInt_readW]
  exact if_congr (readW_lt signed a b) rfl rfl

theorem ofInt_natAbs (a : BitVec w) : BitVec.ofInt w (a.toInt.natAbs : Int) = if a.msb then -a else a := by
  rw [BitVec.msb_eq_toInt]
  by_cases h : a.toInt < 0
  · rw [decide_eq_true h, if_pos rfl, Int.ofNat_natAbs_of_nonpos h.le, BitVec.ofInt_neg, BitVec.ofInt_toInt]
  · rw [decide_eq_false h, if_neg Bool.false_ne_true, Int.natAbs_of_nonneg (by omega), BitVec.ofInt_toInt]

theorem ofInt_neg_toInt (a : BitVec w) : BitVec.ofInt w (-a.toInt) = -a := by
  rw [BitVec.ofInt_neg, BitVec.ofInt_toInt]

end Results

/-- An operation on bit patterns whose result is r. -/
theorem writesG_of_opBits {i : Instr} {s : State} {op : Nat} {f : Nat → Nat → Nat → Nat} {r : BitVec (widthOf i)}
    (hm : majorOf i = some op) (hr : Runs i s) (h : exec i s = opBits f (fieldsOf i) s)
    (hv : BitVec.ofNat (widthOf i) (f (widthOf i) ((opA i s).setWidth (widthOf i)).toNat
      ((opB i s).setWidth (widthOf i)).toNat) = r) : WritesG i s (extendTo64 (decide ((fieldsOf i).m < 4)) r) := by
  rw [← hv]
  exact writesG_opBits hm hr h

section Integer
variable {i : Instr} {s : State} {op : Nat} (hm : majorOf i = some op) (hr : Runs i s)
include hm hr

theorem writesG_logic (hlo : 0x29 ≤ op) (hhi : op ≤ 0x2D) : WritesG i s (extendTo64 (decide ((fieldsOf i).m < 4))
    (logic op ((opA i s).setWidth (widthOf i)) ((opB i s).setWidth (widthOf i)))) := by
  refine writesG_of_opBits (f := logicNat op) hm hr ?_ (ofNat_logicNat op _ _)
  rw [exec_core hm]
  interval_cases op <;> rfl

theorem writesG_shift (hlo : 0x2E ≤ op) (hhi : op ≤ 0x31) : WritesG i s
    (extendTo64 (if op = 0x2F then false else if op = 0x30 then true else decide ((fieldsOf i).m < 4))
      (shifted op ((opA i s).setWidth (widthOf i)) ((opB i s).setWidth (widthOf i)))) := by
  have hexec : exec i s = byMajor op (fieldsOf i) s := exec_core hm s
  have hdvd := widthOf_dvd i
  interval_cases op
  · exact writesG_of_opBits hm hr hexec (ofNat_shlW _ _)
  · exact writesG_of_opInt hm hr hexec (ofInt_shrW_natural hdvd _ _)
  · exact writesG_of_opInt hm hr hexec (ofInt_shrW_signed hdvd _ _)
  · exact writesG_of_opBits hm hr hexec (ofNat_rotW _ _)

theorem writesG_extremum (hlo : 0x32 ≤ op) (hhi : op ≤ 0x37) : WritesG i s (extendTo64 (op != 0x34 && op != 0x35)
    (extremum op ((opA i s).setWidth (widthOf i)) ((opB i s).setWidth (widthOf i)))) := by
  have hexec : exec i s = byMajor op (fieldsOf i) s := exec_core hm s
  interval_cases op
  · exact writesG_of_opInt hm hr hexec (ofInt_minW true _ _)
  · exact writesG_of_opInt hm hr hexec (ofInt_maxW true _ _)
  · exact writesG_of_opInt hm hr hexec (ofInt_minW false _ _)
  · exact writesG_of_opInt hm hr hexec (ofInt_maxW false _ _)
  · exact writesG_of_opInt (f := fun _ x _ => x.natAbs) hm hr hexec (ofInt_natAbs _)
  · exact writesG_of_opInt (f := fun _ x _ => -x) hm hr hexec (ofInt_neg_toInt _)

end Integer

/-- Settles O18: operation by operation, on the operands' readings and on their patterns. -/
theorem logicShiftAndExtremumResults : Obligations.LogicShiftAndExtremumResults := fun _ _ _ _ hm hr =>
  ⟨writesG_logic hm hr, writesG_shift hm hr, writesG_extremum hm hr⟩

end Sys2Proof.Machine
end

section
/-! SUPPORT and PROOFS. Comparisons, selections and predicates (R177, R178, R183), and with them O19. -/

namespace Sys2Proof.Machine

/-! ### The limits of a row on its extended fields (R118) -/

section Limits
variable {i : Instr} {op : Nat} {r : Row} (hw : i.wf = true) (hm : majorOf i = some op)
include hw hm

/-- A well-formed instruction's XOP is one that its row lists, where the row lists the 0 of the forms without word 1. -/
theorem xop_listed (hr : rowOf true op = some r) (h0 : r.xop.testBit 0 = true) : r.xop.testBit (fieldsOf i).xop = true := by
  unfold Instr.wf at hw
  unfold majorOf at hm
  unfold fieldsOf
  cases hi : rawOf i with
  | nop => exact h0
  | event => exact h0
  | base op' w => exact h0
  | ext op' o =>
    simp only [hi, Option.some.injEq] at hm hw
    subst hm
    simp only [checkExt, hr, Row.okX, Bool.and_eq_true] at hw
    obtain ⟨⟨⟨-, ⟨⟨⟨⟨⟨⟨-, hxop⟩, -⟩, -⟩, -⟩, -⟩, -⟩⟩, -⟩, -⟩ := hw
    rcases o with ⟨_ | _ | _, _, _, _, _⟩
    · exact hxop
    · exact h0
    · exact hxop

/-- An instruction of a row without a base form has word 1, whose fields are within the row's further limits. -/
theorem extra_of_no_base (hr : ∀ e, rowOf e op = some r) (hb : r.base = false) (h0 : op ≠ 0) :
    ∃ o : Ext, extraExt op o = true ∧ (fieldsOf i).w = o.w ∧ (fieldsOf i).x = o.x ∧ (fieldsOf i).imm = o.imm.toNat := by
  unfold Instr.wf at hw
  unfold majorOf at hm
  unfold fieldsOf
  cases hi : rawOf i with
  | nop => simp [hi, h0.symm] at hm
  | event => simp [hi] at hm
  | base op' w =>
    simp only [hi, Option.some.injEq] at hm hw
    subst hm
    simp [checkBase, hr, hb] at hw
  | ext op' o =>
    simp only [hi, Option.some.injEq] at hm hw
    subst hm
    simp only [checkExt, hr, hb, Bool.and_eq_true] at hw
    obtain ⟨⟨-, hextra⟩, hform⟩ := hw
    refine ⟨o, hextra, ?_⟩
    rcases o with ⟨_ | _ | _, _, _, _, _⟩
    · exact ⟨rfl, rfl, rfl⟩
    · simp at hform
    · exact ⟨rfl, rfl, rfl⟩

end Limits

/-! ### Instructions that write a predicate or a register unchanged -/

section Shapes
variable {i : Instr} {s : State} {op : Nat} (hm : majorOf i = some op) (hr : Runs i s)
include hm hr

theorem WritesP.of_run {v : State → Bool} (h : exec i s = run false (fieldsOf i) s fun s => setP (fieldsOf i) s (v s)) :
    WritesP i s (v s) := by
  rw [WritesP, h, run_running hr, len_eq (isCore_of_major hm)]
  rfl

/-- gD takes a value of 64 bits. -/
theorem WritesG.of_word {v : State → Nat} {x : Word} (h : exec i s = run false (fieldsOf i) s fun s => setG (fieldsOf i) s (v s))
    (hv : BitVec.ofNat 64 (v s) = x) : WritesG i s x :=
  hv ▸ WritesG.of_run hm hr h

theorem writesP_opPred {f : Bool → Bool → Bool} (h : exec i s = opPred f (fieldsOf i) s) :
    WritesP i s (f (s.me.readP (fieldsOf i).a) (s.me.readP (fieldsOf i).b)) :=
  .of_run hm hr h

theorem writesG_opSel (h : exec i s = opSel (fieldsOf i) s) :
    WritesG i s (if s.me.readP (fieldsOf i).m then opA i s else opB i s) := by
  unfold opSel at h
  refine .of_word hm hr h ?_
  rw [vA_eq_opA, vB_eq_opB, ← apply_ite BitVec.toNat, BitVec.ofNat_toNat, BitVec.setWidth_eq]

theorem writesG_opMov (h : exec i s = opMov (fieldsOf i) s) : WritesG i s (opB i s) := by
  unfold opMov at h
  refine .of_word hm hr h ?_
  rw [vB_eq_opB, BitVec.ofNat_toNat, BitVec.setWidth_eq]

end Shapes

/-! ### CMP (R114, R177) -/

theorem cmpCond_eq (cond : Nat) {w a b : Nat} (hw : w ≠ 0) :
    cmpCond cond w a b = condition cond (BitVec.ofNat w a) (BitVec.ofNat w b) := by
  have hx (x : Nat) : x % 2 ^ w = (BitVec.ofNat w x).toNat := (BitVec.toNat_ofNat ..).symm
  unfold cmpCond
  simp only [hx, toSigned_toNat _ hw]
  generalize BitVec.ofNat w a = x
  generalize BitVec.ofNat w b = y
  have heq : (x.toNat == y.toNat) = (x == y) := by rw [Bool.eq_iff_iff]; simp [BitVec.toNat_inj]
  unfold condition
  split
  · exact heq
  · exact congrArg (!·) heq
  · exact (Bool.eq_iff_iff.2 (by simp [BitVec.slt_iff_toInt_lt]))
  · exact (Bool.eq_iff_iff.2 (by simp [BitVec.sle_iff_toInt_le]))
  · rfl
  · rfl
  · rw [← BitVec.toNat_and, Bool.eq_iff_iff]
    simp [← BitVec.toNat_inj]

theorem exec_cmp {i : Instr} {s : State} {w : Nat} (hm : majorOf i = some 0x38) (hr : Runs i s) (hw : w ≠ 0)
    (h : (if (fieldsOf i).l = 1 ∨ (fieldsOf i).l = 3 then 8 * 2 ^ ((fieldsOf i).xop % 4) else 64) = w) :
    WritesP i s (condition (fieldsOf i).m ((opA i s).setWidth w) ((opB i s).setWidth w)) := by
  rw [← BitVec.ofNat_toNat, ← BitVec.ofNat_toNat, ← cmpCond_eq _ hw, ← vA_eq_opA, ← vB_eq_opB, ← h]
  exact .of_run hm hr (v := fun s => cmpCond _ _ ((fieldsOf i).vA s) ((fieldsOf i).vB s)) (exec_core hm s)

/-- XOP of a CMP names a width (R177). -/
theorem xop_lt_of_cmp {i : Instr} (hw : i.wf = true) (hm : majorOf i = some 0x38) : (fieldsOf i).xop < 4 := by
  have h := xop_listed hw hm rfl (by decide)
  exact Nat.lt_of_not_le fun hge => Bool.false_ne_true
    ((Nat.testBit_lt_two_pow ((by decide : 0x0F < 2 ^ 4).trans_le (Nat.pow_le_pow_right (by norm_num) hge))).symm.trans h)

/-- Settles O19: CMP is its condition on the width that its form names, and the others write what they read. -/
theorem compareSelectAndPredicateResults : Obligations.CompareSelectAndPredicateResults := by
  intro i s hw hr k p q
  have hexec {op : Nat} (hm : majorOf i = some op) : exec i s = byMajor op (fieldsOf i) s := exec_core hm s
  refine ⟨fun hm hl => ?_, fun hm hl => ?_, fun hm => ?_, fun hm => ?_, fun hm => ?_, fun hm => ?_, fun hm => ?_, fun hm => ?_,
    fun hm => ?_⟩
  · have h := exec_cmp (w := 64) hm hr (by norm_num) (if_neg (by rcases hl with hl | hl <;> simp [show (fieldsOf i).l = _ from hl]))
    rwa [BitVec.setWidth_eq, BitVec.setWidth_eq] at h
  · refine exec_cmp hm hr (Nat.mul_ne_zero (by norm_num) (by positivity)) ?_
    rw [if_pos hl, Nat.mod_eq_of_lt (xop_lt_of_cmp hw hm)]
  · exact writesG_opSel hm hr (hexec hm)
  · exact writesG_opMov hm hr (hexec hm)
  · exact writesP_opPred (f := (· && ·)) hm hr (hexec hm)
  · exact writesP_opPred (f := (· || ·)) hm hr (hexec hm)
  · exact writesP_opPred (f := (· ^^ ·)) hm hr (hexec hm)
  · exact writesP_opPred (f := (fun p _ => !p)) hm hr (hexec hm)
  · exact writesP_opPred (f := (fun p _ => p)) hm hr (hexec hm)

end Sys2Proof.Machine
end

section
/-! SUPPORT and PROOFS. The packed bit instructions element by element (R179), bit fields, extensions, addresses, MADD and SLICE (R173,
R180 to R182, R184), and with them O20. -/

namespace Sys2Proof.Machine

/-! ### Elements in their places (R179) -/

/-- Numbers of w bits, set side by side, are the digits of their sum, the elements of `packed`. -/
theorem digits_foldl {w : Nat} (d : Nat → Nat) (hd : ∀ j, d j < 2 ^ w) (n : Nat) :
    let t := (List.range n).foldl (fun r j => r + d j * 2 ^ (w * j)) 0
    t < 2 ^ (w * n) ∧ ∀ j, j < n → t / 2 ^ (w * j) % 2 ^ w = d j := by
  induction n with
  | zero => exact ⟨by simp, fun j hj => absurd hj (Nat.not_lt_zero j)⟩
  | succ n ih =>
    obtain ⟨hlt, hdig⟩ := ih
    simp only [List.range_succ, List.foldl_append, List.foldl_cons, List.foldl_nil]
    generalize (List.range n).foldl (fun r j => r + d j * 2 ^ (w * j)) 0 = t at hlt hdig
    refine ⟨?_, fun j hj => ?_⟩
    · have := Nat.mul_le_mul_right (2 ^ (w * n)) (Nat.succ_le_of_lt (hd n))
      rw [Nat.mul_succ, pow_add, Nat.mul_comm (2 ^ (w * n))]
      rw [Nat.succ_mul] at this
      omega
    · rcases Nat.lt_succ_iff_lt_or_eq.1 hj with hj | rfl
      · obtain ⟨k, rfl⟩ := Nat.exists_eq_add_of_lt hj
        have hsum : t + d (j + k + 1) * 2 ^ (w * (j + k + 1)) = t + 2 ^ (w * j) * (2 ^ w * (d (j + k + 1) * 2 ^ (w * k))) := by
          rw [show w * (j + k + 1) = w * j + w + w * k by ring, pow_add, pow_add]
          ring
        rw [hsum, Nat.add_mul_div_left _ _ (Nat.two_pow_pos _), Nat.add_mul_mod_self_left, hdig j hj]
      · rw [Nat.add_mul_div_right _ _ (Nat.two_pow_pos _), Nat.div_eq_of_lt hlt, zero_add, Nat.mod_eq_of_lt (hd _)]

/-- Each element of the result is the operation's on the operand's element. -/
theorem extractLsb'_packed {w : Nat} (hw : 0 < w) (f : Nat → Nat) (x : Word) {j : Nat} (hj : j < 64 / w) :
    (BitVec.ofNat 64 (packed w f x.toNat)).extractLsb' (j * w) w = BitVec.ofNat w (f (x.extractLsb' (j * w) w).toNat) := by
  have hbits (k : Nat) : bits x.toNat (w * k + w - 1) (w * k) = (x.extractLsb' (k * w) w).toNat := by
    rw [bits, BitVec.extractLsb'_toNat, Nat.mul_comm k, show w * k + w - 1 + 1 - w * k = w by omega]
  have hdigits := digits_foldl (w := w) (fun k => f (bits x.toNat (w * k + w - 1) (w * k)) % 2 ^ w)
    (fun _ => Nat.mod_lt _ (Nat.two_pow_pos w)) (64 / w)
  obtain ⟨hlt, hdig⟩ := hdigits
  have hfit : w * (64 / w) ≤ 64 := Nat.mul_div_le 64 w
  have hpacked : packed w f x.toNat < 2 ^ 64 := hlt.trans_le (Nat.pow_le_pow_right (by norm_num) hfit)
  refine BitVec.eq_of_toNat_eq ?_
  rw [BitVec.extractLsb'_toNat, BitVec.toNat_ofNat, BitVec.toNat_ofNat, Nat.mod_eq_of_lt hpacked, Nat.shiftRight_eq_div_pow,
    ← hbits, Nat.mul_comm j]
  exact hdig j hj

/-! ### One element -/

section Element
variable {w : Nat}

/-- A nonzero element has fewer leading zeros than bits. -/
theorem toNat_clz_lt {x : BitVec w} (hx : x ≠ 0) : x.clz.toNat < w := by
  have h := BitVec.lt_def.1 (BitVec.clz_lt_iff_ne_zero.2 hx)
  exact h.trans_le ((BitVec.toNat_ofNat w w).le.trans (Nat.mod_le _ _))

theorem ofNat_clzW (x : BitVec w) : BitVec.ofNat w (clzW w x.toNat) = x.clz := by
  unfold clzW
  by_cases hx : x = 0
  · rw [if_pos (by simp [hx]), BitVec.clz_eq_iff_eq_zero.2 hx]
    rfl
  · have hn : x.toNat ≠ 0 := fun h => hx (BitVec.eq_of_toNat_eq h)
    have hlt := toNat_clz_lt hx
    have hlog : Nat.log2 x.toNat = w - 1 - x.clz.toNat := by
      refine (Nat.log2_eq_iff hn).2 ⟨BitVec.two_pow_sub_clz_le_toNat_of_ne_zero (by omega) hx, ?_⟩
      rw [show w - 1 - x.clz.toNat + 1 = w - x.clz.toNat by omega]
      exact BitVec.toNat_lt_two_pow_sub_clz
    rw [if_neg hn, hlog]
    exact ofNat_eq_of_toNat (by omega)

theorem ofNat_ctzW (x : BitVec w) : BitVec.ofNat w (ctzW w x.toNat) = x.ctz := by
  unfold ctzW
  by_cases hx : x = 0
  · subst hx
    rw [List.find?_range_eq_none.2 (by simp), BitVec.ctz_eq_reverse_clz, BitVec.clz_eq_iff_eq_zero.2 (by simp)]
    rfl
  · have hbit := BitVec.getLsbD_true_ctz_of_ne_zero hx
    have hlow : ∀ j, j < x.ctz.toNat → (!x.toNat.testBit j) = true := fun j hj => by
      rw [BitVec.testBit_toNat, BitVec.getLsbD_false_of_lt_ctz hj]
      rfl
    have hfind : (List.range w).find? (fun j => x.toNat.testBit j) = some x.ctz.toNat :=
      List.find?_range_eq_some.2 ⟨hbit, List.mem_range.2 (BitVec.lt_of_getLsbD hbit), hlow⟩
    rw [hfind]
    exact ofNat_eq_of_toNat rfl

theorem ofNat_ffsW (x : BitVec w) : BitVec.ofNat w (ffsW w x.toNat) = if x = 0 then 0 else x.ctz + 1 := by
  unfold ffsW
  have h0 : x.toNat = 0 ↔ x = 0 := ⟨fun h => BitVec.eq_of_toNat_eq h, fun h => by rw [h]; rfl⟩
  rw [apply_ite (BitVec.ofNat w), BitVec.ofNat_add, ofNat_ctzW]
  exact if_congr h0 rfl rfl

theorem cpopNatRec_eq_popcount (x : BitVec w) (n acc : Nat) : x.cpopNatRec n acc = acc + popcount n x.toNat := by
  induction n generalizing acc with
  | zero => exact BitVec.cpopNatRec_zero_self
  | succ n ih =>
    rw [BitVec.cpopNatRec_succ, ih, popcount, Nat.add_assoc, BitVec.testBit_toNat]
    cases x.getLsbD n <;> rfl

theorem ofNat_popcount (x : BitVec w) : BitVec.ofNat w (popcount w x.toNat) = x.cpop :=
  ofNat_eq_of_toNat (by rw [BitVec.toNat_cpop, cpopNatRec_eq_popcount, zero_add])

/-- The high n bits of a number and one bit below them. -/
theorem div_mul_two_pow_succ (y e : Nat) :
    y / 2 ^ e * 2 ^ e = y / 2 ^ (e + 1) * 2 ^ (e + 1) + b2n (y.testBit e) * 2 ^ e := by
  have hbit : b2n (y.testBit e) = y / 2 ^ e % 2 := by
    rw [Nat.testBit_eq_decide_div_mod_eq, b2n]
    split
    case isTrue h => exact (of_decide_eq_true h).symm
    case isFalse h =>
      have := of_decide_eq_false (Bool.eq_false_of_not_eq_true h)
      omega
  have hdiv := Nat.div_add_mod (y / 2 ^ e) 2
  rw [hbit, pow_succ, ← Nat.div_div_eq_div_mul]
  conv_lhs => rw [← hdiv]
  ring

/-- Reversed bit by bit from the front. -/
theorem foldl_reverse (x : BitVec w) {n : Nat} (hn : n ≤ w) :
    (List.range n).foldl (fun r i => r + b2n (x.toNat.testBit i) * 2 ^ (w - 1 - i)) 0 =
      x.reverse.toNat / 2 ^ (w - n) * 2 ^ (w - n) := by
  induction n with
  | zero => rw [Nat.sub_zero, Nat.div_eq_of_lt x.reverse.isLt]; simp
  | succ n ih =>
    have hbit : x.reverse.toNat.testBit (w - (n + 1)) = x.toNat.testBit n := by
      rw [BitVec.testBit_toNat, BitVec.getLsbD_reverse, BitVec.getMsbD_eq_getLsbD, decide_eq_true (by omega), Bool.true_and,
        show w - 1 - (w - (n + 1)) = n by omega, BitVec.testBit_toNat]
    rw [List.range_succ, List.foldl_append, ih (by omega), List.foldl_cons, List.foldl_nil, div_mul_two_pow_succ _ (w - (n + 1)),
      hbit, show w - (n + 1) + 1 = w - n by omega, show w - 1 - n = w - (n + 1) by omega]

theorem ofNat_brevW (x : BitVec w) : BitVec.ofNat w (brevW w x.toNat) = x.reverse :=
  ofNat_eq_of_toNat (by rw [brevW, foldl_reverse x le_rfl]; simp)

/-- What the packed instructions compute on an element's number. -/
def elementNat (op : Nat) : Nat → Nat → Nat :=
  if op = 0x3B then clzW else if op = 0x3C then ctzW else if op = 0x3D then ffsW else if op = 0x3E then popcount else brevW

theorem ofNat_elementNat (op : Nat) (x : BitVec w) : BitVec.ofNat w (elementNat op w x.toNat) = element op x := by
  unfold elementNat element
  split_ifs
  · exact ofNat_clzW x
  · exact ofNat_ctzW x
  · exact (ofNat_ffsW x).trans (if_pos ‹_›)
  · exact (ofNat_ffsW x).trans (if_neg ‹_›)
  · exact ofNat_popcount x
  · exact ofNat_brevW x

end Element

/-! ### Bit fields (R180) -/

/-- BFX's and BFI's fields of IMM32 (R180). -/
theorem field_of_wf {i : Instr} {op : Nat} (hw : i.wf = true) (hm : majorOf i = some op) (hop : op = 0x40 ∨ op = 0x41) :
    (fieldsOf i).lsb = (fieldsOf i).imm % 64 ∧ (fieldsOf i).flen = (fieldsOf i).imm / 256 ∧
      0 < (fieldsOf i).imm / 256 ∧ (fieldsOf i).imm % 64 + (fieldsOf i).imm / 256 ≤ 64 := by
  obtain ⟨r, hr, hb, himm⟩ : ∃ r, (∀ e, rowOf e op = some r) ∧ r.base = false ∧ r.imm = 0x7F3F := by
    rcases hop with rfl | rfl <;> exact ⟨_, fun _ => rfl, rfl, rfl⟩
  have hlt : (fieldsOf i).imm < 2 ^ 15 := by
    refine lt_two_pow_of_and_eq_zero (imm_lt_two_pow_32 i) ?_
    have h := imm_and_eq_zero hw hm (hr true)
    rw [himm] at h
    rw [show immAny ^^^ (2 ^ 15 - 1) = (immAny ^^^ 0x7F3F) &&& (immAny ^^^ (2 ^ 15 - 1)) by decide, ← Nat.and_assoc, h,
      Nat.zero_and]
  obtain ⟨o, hextra, -, -, ho⟩ := extra_of_no_base hw hm hr hb (by omega)
  have hlsb : (fieldsOf i).lsb = (fieldsOf i).imm % 64 := rfl
  have hlen : (fieldsOf i).flen = (fieldsOf i).imm / 256 := bits_eq_div (by norm_num) hlt
  have hlimits : 1 ≤ bits o.imm.toNat 14 8 ∧ bits o.imm.toNat 5 0 + bits o.imm.toNat 14 8 ≤ 64 := by
    rcases hop with rfl | rfl <;> simp [extraExt] at hextra <;> exact ⟨hextra.1.1, hextra.2⟩
  rw [← ho, show bits (fieldsOf i).imm 5 0 = (fieldsOf i).lsb from rfl, show bits (fieldsOf i).imm 14 8 = (fieldsOf i).flen from rfl,
    hlsb, hlen] at hlimits
  exact ⟨hlsb, hlen, hlimits.1, hlimits.2⟩

theorem bits_eq_extractLsb' (x : Word) (l : Nat) {n : Nat} (hn : 0 < n) : bits x.toNat (l + n - 1) l = (x.extractLsb' l n).toNat := by
  rw [bits, BitVec.extractLsb'_toNat, show l + n - 1 + 1 - l = n by omega]

/-- A number of n bits, sign-extended. -/
theorem signExtend_eq_toNat {n : Nat} (hn : n ≠ 0) (x : Nat) : signExtend n x = ((BitVec.ofNat n x).signExtend 64).toNat := by
  rw [signExtend, toSigned_eq_toInt _ _ hn, ofSigned_eq_toNat]
  rfl

theorem ofNat_field {n : Nat} (hn : n ≠ 0) (signed : Prop) [Decidable signed] (x : BitVec n) :
    BitVec.ofNat 64 (if signed then signExtend n x.toNat else x.toNat) = extendTo64 (decide signed) x := by
  have hx : BitVec.ofNat n x.toNat = x := ofNat_eq_of_toNat rfl
  unfold extendTo64
  by_cases h : signed
  · rw [if_pos h, if_pos (decide_eq_true h), signExtend_eq_toNat hn, hx]
    exact ofNat_eq_of_toNat rfl
  · rw [if_neg h, if_neg (by simpa using h), BitVec.ofNat_toNat]

/-- A number with n bits from l on replaced. -/
theorem testBit_putBits (x v l j : Nat) {n : Nat} (hn : 0 < n) : (putBits x (l + n - 1) l v).testBit j =
    if l ≤ j ∧ j < l + n then v.testBit (j - l) else x.testBit j := by
  have hparts : putBits x (l + n - 1) l v = 2 ^ l * (2 ^ n * (x / 2 ^ (l + n)) + v % 2 ^ n) + x % 2 ^ l := by
    have hlow := Nat.div_add_mod x (2 ^ l)
    have hmid := Nat.div_add_mod (x / 2 ^ l) (2 ^ n)
    rw [Nat.div_div_eq_div_mul, ← pow_add] at hmid
    rw [putBits, bits, show l + n - 1 + 1 - l = n by omega, Nat.shiftRight_eq_div_pow]
    rw [← hmid, Nat.mul_add] at hlow
    rw [Nat.mul_add, Nat.mul_comm (x / 2 ^ l % 2 ^ n), Nat.mul_comm (v % 2 ^ n)]
    omega
  rw [hparts, Nat.testBit_two_pow_mul_add _ (Nat.mod_lt _ (Nat.two_pow_pos l)),
    Nat.testBit_two_pow_mul_add _ (Nat.mod_lt _ (Nat.two_pow_pos n)), Nat.testBit_mod_two_pow, Nat.testBit_mod_two_pow,
    Nat.testBit_div_two_pow]
  by_cases hl : j < l
  · rw [if_pos hl, if_neg (by omega), decide_eq_true hl, Bool.true_and]
  · rw [if_neg hl]
    by_cases hm : j - l < n
    · rw [if_pos hm, if_pos (by omega), decide_eq_true hm, Bool.true_and]
    · rw [if_neg hm, if_neg (by omega), show j - l - n + (l + n) = j by omega]

/-! ### SLICE (R134, R184) -/

/-- A field of the bits that name a page. -/
theorem bits_page (va : Word) (h k w : Nat) (hk : k + w ≤ 36) (hw : h + 1 - k = w) :
    bits (bits (va.toNat % 2 ^ 48) 47 12) h k = (va.extractLsb' (12 + k) w).toNat := by
  refine Nat.eq_of_testBit_eq fun j => ?_
  simp only [bits, hw, BitVec.testBit_toNat, Nat.testBit_mod_two_pow, Nat.testBit_shiftRight, BitVec.getLsbD_extractLsb']
  by_cases hj : j < w
  · rw [decide_eq_true hj, decide_eq_true (by omega), decide_eq_true (by omega), Nat.add_assoc]
    simp only [Bool.true_and]
  · rw [decide_eq_false hj, Bool.false_and, Bool.false_and]

theorem homeSlice_eq (va : Word) : homeSlice (va.toNat % 2 ^ 48) = (homeSliceOf va).toNat := by
  unfold homeSlice homeSliceOf
  simp only [BitVec.toNat_xor, toNat_append_eq_add]
  rw [bits_page va 7 0 8 (by norm_num) rfl, bits_page va 15 8 8 (by norm_num) rfl, bits_page va 23 16 8 (by norm_num) rfl,
    bits_page va 31 24 8 (by norm_num) rfl, bits_page va 35 32 4 (by norm_num) rfl, Nat.mul_comm]
  rfl

/-! ### The statement -/

section Instructions
variable {i : Instr} {s : State} {op : Nat} (hm : majorOf i = some op) (hr : Runs i s)
include hm hr

/-- The packed instructions, element by element (R179). -/
theorem writesG_packed (hlo : 0x3B ≤ op) (hhi : op ≤ 0x3F) : ∃ v : Word, WritesG i s v ∧ ∀ j, j < 64 / widthOf i →
    v.extractLsb' (j * widthOf i) (widthOf i) = element op ((opA i s).extractLsb' (j * widthOf i) (widthOf i)) := by
  have h : exec i s = opPacked (elementNat op) (fieldsOf i) s := by
    rw [exec_core hm]
    interval_cases op <;> rfl
  unfold opPacked at h
  refine ⟨_, .of_run hm hr h, fun j hj => ?_⟩
  rw [vA_eq_opA, width_fieldsOf, extractLsb'_packed (widthOf_pos i) _ _ hj, ofNat_elementNat]

theorem writesG_opBfx (hw : i.wf = true) (hop : op = 0x40) (h : exec i s = opBfx (fieldsOf i) s) :
    WritesG i s (extendTo64 (decide (4 ≤ (fieldsOf i).m))
      ((opA i s).extractLsb' ((fieldsOf i).imm % 64) ((fieldsOf i).imm / 256))) := by
  obtain ⟨hlsb, hlen, hpos, -⟩ := field_of_wf hw hm (.inl hop)
  unfold opBfx at h
  refine .of_word hm hr h ?_
  rw [hlsb, hlen, vA_eq_opA, bits_eq_extractLsb' _ _ hpos, ofNat_field hpos.ne']

theorem writesG_opBfi (hw : i.wf = true) (hop : op = 0x41) (h : exec i s = opBfi (fieldsOf i) s) :
    ∃ v : Word, WritesG i s v ∧ ∀ j, j < 64 → v.getLsbD j =
      if (fieldsOf i).imm % 64 ≤ j ∧ j < (fieldsOf i).imm % 64 + (fieldsOf i).imm / 256 then
        (opA i s).getLsbD (j - (fieldsOf i).imm % 64) else (opD i s).getLsbD j := by
  obtain ⟨hlsb, hlen, hpos, -⟩ := field_of_wf hw hm (.inr hop)
  unfold opBfi at h
  refine ⟨_, .of_run hm hr h, fun j hj => ?_⟩
  rw [hlsb, hlen, BitVec.getLsbD_ofNat, decide_eq_true hj, Bool.true_and, testBit_putBits _ _ _ _ hpos]
  rfl

theorem writesG_opSext (h : exec i s = opSext (fieldsOf i) s) :
    WritesG i s (((opA i s).setWidth (widthOf i)).signExtend 64) := by
  unfold opSext at h
  refine .of_word hm hr h ?_
  rw [vA_eq_opA, width_fieldsOf, signExtend_eq_toNat (widthOf_pos i).ne', BitVec.ofNat_toNat, BitVec.ofNat_toNat, BitVec.setWidth_eq]

theorem writesG_opZext (h : exec i s = opZext (fieldsOf i) s) :
    WritesG i s (((opA i s).setWidth (widthOf i)).setWidth 64) := by
  unfold opZext at h
  refine .of_word hm hr h ?_
  rw [vA_eq_opA, width_fieldsOf, ← BitVec.toNat_setWidth, BitVec.ofNat_toNat]

theorem writesG_opLea (h : exec i s = opLea (fieldsOf i) s) :
    WritesG i s (opA i s + (opB i s <<< (fieldsOf i).m) + opImm i) := by
  unfold opLea at h
  refine .of_word hm hr h (ofNat_eq_of_toNat ?_)
  rw [vA_eq_opA, vB_eq_opB, signExtend_eq_toNat (by norm_num), BitVec.toNat_add, BitVec.toNat_add, BitVec.toNat_shiftLeft,
    Nat.shiftLeft_eq, Nat.add_mod_mod, Nat.mod_add_mod]
  rfl

theorem writesG_opMadd (h : exec i s = opMadd (fieldsOf i) s) : WritesG i s (extendTo64 (decide ((fieldsOf i).m < 4))
    ((opA i s).setWidth (widthOf i) * (opB i s).setWidth (widthOf i) + (opC i s).setWidth (widthOf i))) := by
  unfold opMadd at h
  refine .of_word hm hr h ?_
  rw [vA_eq_opA, vB_eq_opB, vC_eq_opC, width_fieldsOf, ofNat_extendI (widthOf_pos i), BitVec.ofInt_natCast, BitVec.ofNat_add,
    BitVec.ofNat_mul, BitVec.ofNat_toNat, BitVec.ofNat_toNat, BitVec.ofNat_toNat]

theorem writesG_opSlice (h : exec i s = opSlice (fieldsOf i) s) : WritesG i s ((homeSliceOf (opA i s)).setWidth 64) := by
  unfold opSlice at h
  refine .of_word hm hr h ?_
  rw [vA_eq_opA, homeSlice_eq, BitVec.ofNat_toNat]

end Instructions

/-- Settles O20: the packed instructions element by element, the others as one operation on bit vectors. -/
theorem bitFieldAndAddressResults : Obligations.BitFieldAndAddressResults := by
  intro i s hw hr k w lsb len
  have hexec {op : Nat} (hm : majorOf i = some op) : exec i s = byMajor op (fieldsOf i) s := exec_core hm s
  exact ⟨fun op hm hlo hhi => writesG_packed hm hr hlo hhi, fun hm => writesG_opBfx hm hr hw rfl (hexec hm),
    fun hm => writesG_opBfi hm hr hw rfl (hexec hm), fun hm => writesG_opSext hm hr (hexec hm),
    fun hm => writesG_opZext hm hr (hexec hm), fun hm => writesG_opLea hm hr (hexec hm),
    fun hm => writesG_opMadd hm hr (hexec hm), fun hm => writesG_opSlice hm hr (hexec hm)⟩

end Sys2Proof.Machine
end

section
/-! SUPPORT and PROOFS. Scalar floating-point instructions behind their guards, with the flags that they raise (R187), and with them
O22. -/

namespace Sys2Proof.Machine

/-! ### Flags (R99, R187) -/

section Flags
variable {i : Instr} {s : State} {op : Nat}

@[simp] theorem Core.orFlags_excen (c : Core) (fl : Nat) : (c.orFlags fl).spr.excen = c.spr.excen := rfl

theorem Core.flagTrap_iff (c : Core) (fl : Nat) : c.flagTrap fl = true ↔ c.spr.excen &&& BitVec.ofNat 6 fl ≠ 0 := bne_iff_ne

/-- The end of an instruction that raises flags. -/
theorem Raises.of_raise {fl : Nat} {f : Core → Core} (hm : majorOf i = some op) (h : exec i s = raise (fieldsOf i) s fl f) :
    Raises i s fl f := by
  have htrap : (s.modMe (·.orFlags fl)).me.flagTrap fl = true ↔ s.me.spr.excen &&& BitVec.ofNat 6 fl ≠ 0 := by
    rw [State.me_modMe, Core.flagTrap_iff, Core.orFlags_excen]
  unfold raise at h
  dsimp only at h
  refine ⟨fun h0 => ?_, fun h0 => ?_⟩
  · rw [h, if_neg (fun ht => htrap.1 ht h0), len_eq (isCore_of_major hm)]
    rfl
  · rw [h, if_pos (htrap.2 h0)]
    exact trapOut_taken _ _ _

variable (hm : majorOf i = some op) (hr : Runs i s)
include hm hr

theorem Raises.of_run {v : State → Nat} {f : State → Core → Core}
    (h : exec i s = run false (fieldsOf i) s fun s => raise (fieldsOf i) s (v s) (f s)) : Raises i s (v s) (f s) :=
  .of_raise hm (h.trans (run_running hr _))

/-- gD takes a result behind the guards. -/
theorem FloatResult.of_run {r : State → Nat × Nat} (h : exec i s = run false (fieldsOf i) s fun s => setF (fieldsOf i) s (r s)) :
    FloatResult i s (r s) :=
  .of_raise hm (h.trans (run_running hr _))

end Flags

/-! ### FCVT (R191) -/

section Convert
variable {i : Instr} {s : State} (hm : majorOf i = some 0x69) (hr : Runs i s)
include hm

/-- One of the two kinds is a float's (R191). -/
theorem fcvt_kinds (hw : i.wf = true) : (fieldsOf i).m < 4 ∨ (fieldsOf i).c < 4 := by
  obtain ⟨o, hextra, ho, hx, -⟩ := extra_of_no_base hw hm (fun _ => rfl) rfl (by decide)
  have h : o.w.m.toNat < 4 ∨ o.x.c.toNat < 4 := by simpa [extraExt] using hextra
  rw [Ctx.m, Ctx.c, ho, hx]
  exact h

include hr

/-- A copy to the same kind, of anything but a quiet NaN. -/
theorem fcvt_same (hk : (fieldsOf i).c = (fieldsOf i).m) (hq : floatOf i (opA i s) ≠ .nan false) :
    FloatResult i s (roundV (fmtK (fieldsOf i).m) (fieldsOf i).rm 0 (floatOf i (opA i s))) := by
  refine .of_raise hm ?_
  rw [show exec i s = opFcvt (fieldsOf i) s from exec_core hm s, opFcvt, run_running hr]
  dsimp only
  rw [if_pos hk.symm, vA_eq_opA]
  rw [floatOf, valK] at hq ⊢
  split
  · exact absurd ‹_› hq
  · rfl

/-- A conversion to a float kind. -/
theorem fcvt_to_float (hk : (fieldsOf i).c ≠ (fieldsOf i).m) (h4 : (fieldsOf i).m < 4) :
    FloatResult i s (roundV (fmtK (fieldsOf i).m) (fieldsOf i).rm 0
      (if (fieldsOf i).c < 4 then valK (fieldsOf i).c (opA i s).toNat else intV (intK (fieldsOf i).c (opA i s).toNat))) := by
  refine .of_raise hm ?_
  rw [show exec i s = opFcvt (fieldsOf i) s from exec_core hm s, opFcvt, run_running hr]
  dsimp only
  rw [if_neg hk.symm, if_pos h4, vA_eq_opA]
  rfl

/-- A conversion to an integer kind. -/
theorem fcvt_to_integer (hk : (fieldsOf i).c ≠ (fieldsOf i).m) (h4 : 4 ≤ (fieldsOf i).m) :
    let r := toInt (fieldsOf i).rm 0 (rangeK (fieldsOf i).m).1 (rangeK (fieldsOf i).m).2 (valK (fieldsOf i).c (opA i s).toNat)
    FloatResult i s ((BitVec.ofInt 64 r.1).toNat, r.2) := by
  refine .of_raise hm ?_
  rw [show exec i s = opFcvt (fieldsOf i) s from exec_core hm s, opFcvt, run_running hr]
  dsimp only
  rw [if_neg hk.symm, if_neg (by omega), vA_eq_opA, ofSigned_eq_toNat]
  rfl

end Convert

/-! ### FCMP, FABS, FNEG and FCLASS (R190, R192) -/

section Signs
variable {i : Instr} {s : State} {op : Nat} (hm : majorOf i = some op) (hr : Runs i s)
include hm hr

theorem raises_opFcmp (h : exec i s = opFcmp (fieldsOf i) s) :
    Raises i s (fCond (fieldsOf i).xop (floatOf i (opA i s)) (floatOf i (opB i s))).2
      (·.writeP (fieldsOf i).d (fCond (fieldsOf i).xop (floatOf i (opA i s)) (floatOf i (opB i s))).1) := by
  rw [floatOf, floatOf, ← vA_eq_opA, ← vB_eq_opB]
  refine .of_raise hm (h.trans ?_)
  rw [opFcmp, run_running hr]

theorem writesG_fabs (h : exec i s = opFSign false (fieldsOf i) s) :
    WritesG i s (BitVec.ofNat 64 ((opA i s).toNat % 2 ^ ((fmtK (fieldsOf i).m).width - 1))) := by
  unfold opFSign at h
  refine .of_word hm hr h ?_
  have hdvd : 2 ^ ((fmtK (fieldsOf i).m).width - 1) ∣ 2 ^ (fmtK (fieldsOf i).m).width := Nat.pow_dvd_pow 2 (Nat.sub_le _ _)
  rw [vA_eq_opA, if_neg Bool.false_ne_true, Nat.mod_mod_of_dvd _ hdvd]

theorem writesG_fneg (h : exec i s = opFSign true (fieldsOf i) s) : ∃ v : Word, WritesG i s v ∧ ∀ j, j < 64 → v.getLsbD j =
    (decide (j < (fmtK (fieldsOf i).m).width) && ((opA i s).getLsbD j != decide (j = (fmtK (fieldsOf i).m).width - 1))) := by
  unfold opFSign at h
  refine ⟨_, .of_run hm hr h, fun j hj => ?_⟩
  have hpos : 0 < (fmtK (fieldsOf i).m).width := by unfold Fmt.width; omega
  generalize (fmtK (fieldsOf i).m).width = w at hpos
  rw [if_pos rfl, BitVec.getLsbD_ofNat, decide_eq_true hj, Bool.true_and, vA_eq_opA, Nat.testBit_xor, Nat.testBit_mod_two_pow,
    Nat.testBit_two_pow, BitVec.testBit_toNat]
  by_cases hw : j < w
  · simp [hw, eq_comm]
  · simp [hw, show ¬ w - 1 = j by omega]

theorem writesG_fclass (h : exec i s = opFclass (fieldsOf i) s) : WritesG i s (BitVec.ofNat 64
    (2 ^ classBit (fmtK (fieldsOf i).m) ((opA i s).toNat % 2 ^ (fmtK (fieldsOf i).m).width))) :=
  .of_run hm hr (v := fun s => 2 ^ classBit _ ((fieldsOf i).vA s % _)) h

end Signs

/-- Settles O22: FCVT case by case of its two kinds, the others as one operation. -/
theorem floatCompareConvertSignClassResults : Obligations.FloatCompareConvertSignClassResults := by
  intro i s hw hr f rm ks x
  have hexec {op : Nat} (hm : majorOf i = some op) : exec i s = byMajor op (fieldsOf i) s := exec_core hm s
  refine ⟨fun hm => raises_opFcmp hm hr (hexec hm), fun hm h4 hks hne => ?_, fun hm => fcvt_same hm hr, fun hm hks => ?_,
    fun hm h4 => ?_, fun hm => writesG_fabs hm hr (hexec hm), fun hm => writesG_fneg hm hr (hexec hm),
    fun hm => writesG_fclass hm hr (hexec hm)⟩
  · have h := fcvt_to_float hm hr hne h4
    rwa [if_pos hks] at h
  · have h4 : (fieldsOf i).m < 4 := (fcvt_kinds hm hw).resolve_right (by omega)
    have h := fcvt_to_float hm hr (by omega) h4
    rwa [if_neg (by omega)] at h
  · have hks : (fieldsOf i).c < 4 := (fcvt_kinds hm hw).resolve_left (by omega)
    exact fcvt_to_integer hm hr (by omega) h4

end Sys2Proof.Machine
end

section
/-! SUPPORT. Rounding of a real number that Round is given exactly or with a sticky bit (R133, R186, R188, R239, R315). -/

namespace Sys2Proof.Machine

/-! ### A fraction between two steps of the last place -/

/-- The real fraction φ lies as rem / 2^sh does with regard to every point at which a rounding decides: 0, a half, and the multiples of
2^-32. -/
structure Stands (rem sh : Nat) (φ : ℝ) : Prop where
  nonneg : 0 ≤ φ
  lt_one : φ < 1
  eq_zero : rem = 0 ↔ φ = 0
  lt_half : 2 * rem < 2 ^ sh ↔ 2 * φ < 1
  eq_half : 2 * rem = 2 ^ sh ↔ 2 * φ = 1
  floor : ⌊2 ^ 32 * φ⌋ = (2 ^ 32 * rem / 2 ^ sh : Nat)

theorem stands_exact {rem sh : Nat} (h : rem < 2 ^ sh) : Stands rem sh (rem / 2 ^ sh) where
  nonneg := by positivity
  lt_one := by rw [div_lt_one (by positivity)]; exact_mod_cast h
  eq_zero := by simp
  lt_half := by rw [mul_div_assoc', div_lt_one (by positivity)]; exact_mod_cast Iff.rfl
  eq_half := by rw [mul_div_assoc', div_eq_one_iff_eq (by positivity)]; exact_mod_cast Iff.rfl
  floor := by
    have hcast : (2 : ℝ) ^ 32 * (rem / 2 ^ sh) = ((2 ^ 32 * rem : Nat) : ℝ) / ((2 ^ sh : Nat) : ℝ) := by push_cast; ring
    rw [hcast, ← Int.natCast_floor_eq_floor (by positivity), Nat.floor_div_eq_div]

/-- What Round is given for the real number t, in units of its exponent: t itself, or so many bits of it that only the last one, a
sticky bit, need not be its own. -/
def StandsFor (f : Fmt) (m : Nat) (t : ℝ) : Prop :=
  t = m ∨ 2 ^ (f.mb + 35) ≤ m ∧ ∀ T : Nat, Even T → (m < T ↔ t < T) ∧ (m = T ↔ t = T)

section Split
variable {f : Fmt} {m : Nat} {t : ℝ}

theorem StandsFor.two_pow_log_le (h : StandsFor f m t) (hm : m ≠ 0) : (2 : ℝ) ^ Nat.log2 m ≤ t ∧ t < 2 ^ (Nat.log2 m + 1) := by
  have hlo := Nat.log2_self_le hm
  have hhi := Nat.lt_log2_self (n := m)
  rcases h with rfl | ⟨hbig, h⟩
  · exact ⟨by exact_mod_cast hlo, by exact_mod_cast hhi⟩
  · have hlog : f.mb + 35 ≤ Nat.log2 m := (Nat.le_log2 hm).2 hbig
    have heven {n : Nat} (hn : 0 < n) : Even (2 ^ n) := (Nat.even_pow.2 ⟨even_two, hn.ne'⟩)
    have h1 := (h _ (heven (n := Nat.log2 m) (by omega))).1.not.1 (by omega)
    have h2 := (h _ (heven (n := Nat.log2 m + 1) (by omega))).1.1 hhi
    push_cast at h1 h2
    exact ⟨not_lt.1 h1, h2⟩

theorem stands_sticky {j : Nat} (hj : 35 ≤ j) (h : ∀ T : Nat, Even T → (m < T ↔ t < T) ∧ (m = T ↔ t = T)) :
    Stands (m % 2 ^ j) j (t / 2 ^ j - (m / 2 ^ j : Nat)) := by
  have hdiv := Nat.div_add_mod' m (2 ^ j)
  have hrem := Nat.mod_lt m (Nat.two_pow_pos j)
  generalize m / 2 ^ j = n at hdiv ⊢
  generalize m % 2 ^ j = r at hdiv hrem ⊢
  have h2j : (0 : ℝ) < 2 ^ j := by positivity
  -- the points that the fraction is compared with, as even numbers
  have point (c i : Nat) (hi : 1 ≤ i) (hij : i ≤ j) : (r < c * 2 ^ i ↔ (t / 2 ^ j - n) * 2 ^ j < c * 2 ^ i) ∧
      (r = c * 2 ^ i ↔ (t / 2 ^ j - n) * 2 ^ j = c * 2 ^ i) := by
    have heven : Even (n * 2 ^ j + c * 2 ^ i) :=
      ((Nat.even_pow.2 ⟨even_two, by omega⟩).mul_left n).add ((Nat.even_pow.2 ⟨even_two, by omega⟩).mul_left c)
    obtain ⟨hlt, heq⟩ := h _ heven
    push_cast at hlt heq
    have hfrac : (t / 2 ^ j - n) * 2 ^ j = t - n * 2 ^ j := by field_simp
    rw [hfrac, sub_lt_iff_lt_add', sub_eq_iff_eq_add', ← hlt, ← heq]
    omega
  generalize t / 2 ^ j - (n : ℝ) = φ at point ⊢
  have hsucc : (2 : ℝ) ^ j = 2 * 2 ^ (j - 1) := by rw [← pow_succ']; congr 1; omega
  have hsuccN : 2 ^ j = 2 * 2 ^ (j - 1) := by rw [← pow_succ']; congr 1; omega
  have h32 : (2 : ℝ) ^ j = 2 ^ 32 * 2 ^ (j - 32) := by rw [← pow_add]; congr 1; omega
  have h32N : 2 ^ j = 2 ^ 32 * 2 ^ (j - 32) := by rw [← pow_add]; congr 1; omega
  have hpos : (0 : ℝ) < 2 ^ (j - 1) := by positivity
  have hpos32 : (0 : ℝ) < 2 ^ (j - 32) := by positivity
  have p0 := point 0 j (by omega) le_rfl
  have p1 := point 1 j (by omega) le_rfl
  have ph := point 1 (j - 1) (by omega) (by omega)
  simp only [Nat.cast_zero, Nat.cast_one, zero_mul, one_mul] at p0 p1 ph
  refine ⟨?_, ?_, ?_, ?_, ?_, ?_⟩
  · by_contra hneg
    exact Nat.not_lt_zero _ (p0.1.2 (by nlinarith))
  · have := p1.1.1 hrem
    nlinarith
  · rw [p0.2, mul_eq_zero, or_iff_left h2j.ne']
  · rw [hsuccN, Nat.mul_lt_mul_left two_pos, ph.1, hsucc]
    constructor <;> intro _ <;> nlinarith
  · rw [hsuccN, Nat.mul_right_inj two_ne_zero, ph.2, hsucc]
    constructor
    · intro hφ
      exact mul_right_cancel₀ hpos.ne' (by linarith)
    · intro hφ
      linear_combination 2 ^ (j - 1) * hφ
  · have hF : 2 ^ 32 * r / 2 ^ j = r / 2 ^ (j - 32) := by rw [h32N, Nat.mul_div_mul_left _ _ (by positivity)]
    rw [hF, Int.floor_eq_iff]
    have hlo := (point (r / 2 ^ (j - 32)) (j - 32) (by omega) (by omega)).1.not.1 (Nat.not_lt.mpr (Nat.div_mul_le_self ..))
    have hhi := (point (r / 2 ^ (j - 32) + 1) (j - 32) (by omega) (by omega)).1.1
      ((Nat.div_lt_iff_lt_mul (Nat.two_pow_pos _)).1 (Nat.lt_succ_self _))
    rw [h32, mul_left_comm, ← mul_assoc] at hlo hhi
    push_cast at hhi ⊢
    exact ⟨le_of_mul_le_mul_right (not_lt.1 hlo) hpos32, lt_of_mul_lt_mul_right hhi hpos32.le⟩

/-- The real number at the place where Round splits what it is given. -/
theorem StandsFor.split (h : StandsFor f m t) (hm : m ≠ 0) {e q : Int}
    (hq : e + (Nat.log2 m + 1 : Nat) - (f.mb + 1 : Nat) ≤ q) :
    ∃ φ : ℝ, t * 2 ^ e = ((splitAt m e q).1 + φ) * 2 ^ q ∧ Stands (splitAt m e q).2.1 (splitAt m e q).2.2 φ := by
  rcases h with rfl | ⟨hbig, h⟩
  · refine ⟨_, ?_, stands_exact (splitAt_rem_lt m e q)⟩
    have hval := congrArg (fun v : ℚ => (v : ℝ)) (splitAt_value m e q).symm
    push_cast at hval
    exact hval
  · have hlog : f.mb + 35 ≤ Nat.log2 m := (Nat.le_log2 hm).2 hbig
    have hqe : q = ((q - e).toNat : Int) + e := by omega
    rw [splitAt, if_neg (by omega)]
    refine ⟨_, ?_, stands_sticky (by omega) h⟩
    generalize (q - e).toNat = j at hqe ⊢
    rw [hqe, zpow_add₀ two_ne_zero, zpow_natCast]
    field_simp
    ring

end Split

/-! ### The neighbour that a mode chooses, in steps of the last place -/

/-- Whether a mode goes to the neighbour of greater magnitude (R315, R239). -/
def goesUp (mode : Nat) (neg : Bool) (draw n : Nat) (φ : ℝ) : Prop :=
  match mode with
  | 0 => 1 < 2 * φ ∨ 2 * φ = 1 ∧ n % 2 = 1
  | 1 => False
  | 2 => neg = false ∧ φ ≠ 0
  | 3 => neg = true ∧ φ ≠ 0
  | _ => (draw : ℤ) < ⌊2 ^ 32 * φ⌋

/-- Round goes from n + φ to r. -/
structure Landing (mode : Nat) (neg : Bool) (draw n : Nat) (φ : ℝ) (r : Nat) : Prop where
  nonneg : 0 ≤ φ
  lt_one : φ < 1
  up : goesUp mode neg draw n φ → r = n + 1
  stay : ¬ goesUp mode neg draw n φ → r = n

theorem roundInt_eq_or (mode : Nat) (neg : Bool) (draw n rem sh : Nat) :
    roundInt mode neg draw n rem sh = n ∨ roundInt mode neg draw n rem sh = n + 1 := by
  unfold roundInt
  dsimp only
  exact (ite_eq_or_eq _ _ _).symm

theorem landing_roundInt {mode draw n rem sh : Nat} {neg : Bool} {φ : ℝ} (hmode : mode ≤ 4) (h : Stands rem sh φ) :
    Landing mode neg draw n φ (roundInt mode neg draw n rem sh) := by
  have hgt : 2 ^ sh < 2 * rem ↔ 1 < 2 * φ := by
    rw [← not_le, ← not_le, le_iff_lt_or_eq, le_iff_lt_or_eq, h.lt_half, h.eq_half]
  have hup : goesUp mode neg draw n φ ↔ roundInt mode neg draw n rem sh ≠ n := by
    unfold roundInt goesUp
    interval_cases mode
    · rw [← hgt, ← h.eq_half]
      simp
      omega
    · simp
    · rw [ne_eq φ, ← h.eq_zero]
      simp
    · rw [ne_eq φ, ← h.eq_zero]
      simp
    · rw [h.floor, Nat.cast_lt]
      simp
  exact ⟨h.nonneg, h.lt_one, fun hu => (roundInt_eq_or ..).resolve_left (hup.1 hu), fun hu => not_not.1 (hu ∘ hup.2)⟩

/-- A number that does not lie between n and n + 1. -/
def Outside (n : Nat) (ζ : ℝ) : Prop := ζ ≤ n ∨ n + 1 ≤ ζ

theorem Outside.of_abs {n : Nat} {ζ : ℝ} (h : Outside n |ζ|) : Outside n ζ := by
  rcases le_total 0 ζ with h0 | h0
  · rwa [abs_of_nonneg h0] at h
  · exact .inl (h0.trans (Nat.cast_nonneg n))

namespace Landing
variable {mode draw n r : Nat} {neg : Bool} {φ ζ : ℝ} (h : Landing mode neg draw n φ r)
include h

theorem eq_or : r = n ∨ r = n + 1 := by
  by_cases hu : goesUp mode neg draw n φ
  · exact .inr (h.up hu)
  · exact .inl (h.stay hu)

theorem eq_of_zero (h0 : φ = 0) : r = n := by
  refine h.stay ?_
  subst h0
  unfold goesUp
  split <;> simp

theorem eq_iff : (r : ℝ) = n + φ ↔ φ = 0 := by
  constructor
  · intro hr
    rcases h.eq_or with rfl | rfl
    · linarith
    · have := h.lt_one
      push_cast at hr
      linarith
  · intro h0
    rw [h.eq_of_zero h0, h0, add_zero]

theorem of_truncates (hm : mode = 1 ∨ mode = 2 ∧ neg = true ∨ mode = 3 ∧ neg = false) : r = n := by
  refine h.stay ?_
  rcases hm with rfl | ⟨rfl, rfl⟩ | ⟨rfl, rfl⟩ <;> simp [goesUp]

theorem of_away (hm : mode = 2 ∧ neg = false ∨ mode = 3 ∧ neg = true) (h0 : φ ≠ 0) : r = n + 1 := by
  refine h.up ?_
  rcases hm with ⟨rfl, rfl⟩ | ⟨rfl, rfl⟩ <;> exact ⟨rfl, h0⟩

/-- Toward zero, nothing outside lies between what is rounded and the result. -/
theorem below (hm : mode = 1 ∨ mode = 2 ∧ neg = true ∨ mode = 3 ∧ neg = false) :
    (r : ℝ) ≤ n + φ ∧ (Outside n ζ → ζ ≤ n + φ → ζ ≤ r) := by
  have h0 := h.nonneg
  have h1 := h.lt_one
  rw [h.of_truncates hm]
  exact ⟨by linarith, fun hζ hle => hζ.resolve_right (by linarith)⟩

/-- Away from zero, the same. -/
theorem above (hm : mode = 2 ∧ neg = false ∨ mode = 3 ∧ neg = true) :
    (n : ℝ) + φ ≤ r ∧ (Outside n ζ → n + φ ≤ ζ → r ≤ ζ) := by
  by_cases h0 : φ = 0
  · rw [h.eq_of_zero h0, h0, add_zero]
    exact ⟨le_rfl, fun _ => id⟩
  · have hpos := lt_of_le_of_ne h.nonneg (Ne.symm h0)
    have h1 := h.lt_one
    rw [h.of_away hm h0]
    push_cast
    exact ⟨by linarith, fun hζ hle => hζ.resolve_left (by linarith)⟩

/-- To the nearest, nothing outside is nearer than the result, and of two as near the result is the even one. -/
theorem nearest (hm : mode = 0) (hζ : Outside n ζ) :
    |n + φ - r| ≤ |n + φ - ζ| ∧ (|n + φ - r| = |n + φ - ζ| → ζ ≠ r → r % 2 = 0) := by
  subst hm
  have h0 := h.nonneg
  have h1 := h.lt_one
  by_cases hu : goesUp 0 neg draw n φ
  · have hhalf : 1 ≤ 2 * φ := hu.elim le_of_lt fun h => h.1.ge
    have htie : 2 * φ = 1 → r % 2 = 0 := fun ht => by
      have := (hu.resolve_left (by linarith)).2
      have := h.up hu
      omega
    rw [h.up hu]
    push_cast
    rw [abs_of_nonpos (by linarith)]
    rcases hζ with hζ | hζ
    · rw [abs_of_nonneg (by linarith)]
      exact ⟨by linarith, fun he _ => h.up hu ▸ htie (by linarith)⟩
    · rw [abs_of_nonpos (by linarith)]
      exact ⟨by linarith, fun he hne => absurd (by linarith) hne⟩
  · have hn := not_or.1 hu
    have hhalf : 2 * φ ≤ 1 := not_lt.1 hn.1
    have htie : 2 * φ = 1 → n % 2 = 0 := fun ht => by
      have := not_and.1 hn.2 ht
      omega
    rw [h.stay hu, add_sub_cancel_left, abs_of_nonneg h0]
    rcases hζ with hζ | hζ
    · rw [abs_of_nonneg (by linarith)]
      exact ⟨by linarith, fun he hne => absurd (by linarith) hne⟩
    · rw [abs_of_nonpos (by linarith)]
      exact ⟨by linarith, fun he _ => htie (by linarith)⟩

end Landing

end Sys2Proof.Machine
end

section
/-! SUPPORT. Codes, their signs and their values as real numbers, and the parts of Round by name (R307 to R311, R315). -/

namespace Sys2Proof.Machine

/-! ### Codes and their values as real numbers (R307 to R311) -/

/-- A sign, as a real factor. -/
def sgn (neg : Bool) : ℝ := if neg then -1 else 1

@[simp] theorem sgn_true : sgn true = -1 := rfl
@[simp] theorem sgn_false : sgn false = 1 := rfl

theorem cast_signOf (neg : Bool) : ((signOf neg : ℚ) : ℝ) = sgn neg := by cases neg <;> simp [signOf]

theorem abs_sgn_mul (neg : Bool) (a : ℝ) : |sgn neg * a| = |a| := by cases neg <;> simp

theorem sgn_mul_self (neg : Bool) : sgn neg * sgn neg = 1 := by cases neg <;> simp

/-- A code with its sign. -/
def Fmt.signed (f : Fmt) (neg : Bool) (k : Nat) : Nat := (if neg then 2 ^ (f.eb + f.mb) else 0) + k

section Codes
variable {f : Fmt} {k : Nat}

theorem signed_false (f : Fmt) (k : Nat) : f.signed false k = k := Nat.zero_add k

theorem signed_lt (neg : Bool) (hk : k < 2 ^ (f.eb + f.mb)) : f.signed neg k < 2 ^ f.width := by
  have hw : 2 ^ f.width = 2 * 2 ^ (f.eb + f.mb) := by rw [Fmt.width, Nat.add_assoc, Nat.add_comm 1, pow_succ']
  unfold Fmt.signed
  split <;> omega

theorem testBit_signed (neg : Bool) (hk : k < 2 ^ (f.eb + f.mb)) : (f.signed neg k).testBit (f.eb + f.mb) = neg := by
  cases neg with
  | true => rw [Fmt.signed, if_pos rfl, Nat.testBit_two_pow_add_eq, Nat.testBit_lt_two_pow hk]; rfl
  | false => rw [signed_false, Nat.testBit_lt_two_pow hk]

theorem signed_mod (neg : Bool) (hk : k < 2 ^ (f.eb + f.mb)) : f.signed neg k % 2 ^ (f.eb + f.mb) = k := by
  unfold Fmt.signed
  split
  · rw [Nat.add_mod_left, Nat.mod_eq_of_lt hk]
  · rw [zero_add, Nat.mod_eq_of_lt hk]

/-- The value of a finite code with its sign. -/
theorem unpack_signed (hf : f.Regular) (neg : Bool) (hk : k ≤ f.maxBits) : (unpack f (f.signed neg k)).finite = true ∧
    ((unpack f (f.signed neg k)).rat : ℝ) = sgn neg * (f.ulps k * 2 ^ f.emin) := by
  have hlt := hk.trans_lt hf.maxBits_lt
  have hfin := unpack_of_le_maxBits hf (x := f.signed neg k) (by rwa [signed_mod neg hlt])
  refine ⟨by rw [hfin]; rfl, ?_⟩
  rw [rat_unpack hf ⟨_, _, _, hfin⟩, signed_mod neg hlt, testBit_signed neg hlt, ← cast_signOf, signOf]
  push_cast
  rfl

theorem finite_iff {v : FV} : v.finite = true ↔ ∃ n m e, v = .fin n m e := by
  cases v <;> simp [FV.finite]

/-- A finite code without its sign, and its magnitude. -/
theorem magnitude_of_finite (hf : f.Regular) {c : Nat} (h : (unpack f c).finite = true) :
    c % 2 ^ (f.eb + f.mb) ≤ f.maxBits ∧ |((unpack f c).rat : ℝ)| = f.ulps (c % 2 ^ (f.eb + f.mb)) * 2 ^ f.emin := by
  have hfin := finite_iff.1 h
  constructor
  · obtain ⟨v, hv, hx⟩ := unpack_eq hf c
    by_contra hgt
    rw [if_neg hgt] at hx
    obtain ⟨n, m, e, he⟩ := hfin
    exact hv n m e (hx ▸ he)
  · have hr := rat_unpack hf hfin
    rw [show (if c.testBit (f.eb + f.mb) then (-1 : ℚ) else 1) = signOf (c.testBit (f.eb + f.mb)) from rfl] at hr
    rw [hr, Rat.cast_mul, cast_signOf, abs_sgn_mul, abs_of_nonneg (by positivity)]
    push_cast
    rfl

theorem largest_eq (hf : f.Regular) : (f.largest : ℝ) = f.ulps f.maxBits * 2 ^ f.emin := by
  have h := (unpack_signed hf false le_rfl).2
  rwa [signed_false, sgn_false, one_mul] at h

/-- Where the highest exponent holds no finite value, infinity's code follows the largest finite one. -/
theorem infBits_eq (hf : f.Regular) (ht : f.top = false) : f.infBits = f.maxBits + 1 := by
  have h := hf.two_pow_le_maxBits
  have := Nat.two_pow_pos f.mb
  simp only [Fmt.maxBits, ht, Bool.false_eq_true, if_false] at h ⊢
  rw [Fmt.infBits]
  omega

theorem maxBits_odd (hf : f.Regular) (ht : f.top = false) : f.maxBits % 2 = 1 := by
  have hdvd : 2 ∣ f.infBits := (dvd_pow_self 2 (Nat.ne_of_gt hf.mb_pos)).mul_left _
  have := infBits_eq hf ht
  omega

/-- Infinity's code holds the value that would follow the largest finite one. -/
theorem ulps_infBits (hf : f.Regular) : (f.ulps f.infBits : ℝ) * 2 ^ f.emin = 2 ^ (f.bias + 1) := by
  obtain ⟨b, hb⟩ := Nat.exists_eq_add_of_le hf.two_le_eb
  have h2 : 2 ^ f.eb = 2 * 2 ^ (f.eb - 1) := by rw [← pow_succ', hb]; congr 1; omega
  have hpos := Nat.two_pow_pos (f.eb - 1)
  have hcode : f.infBits = (2 ^ f.eb - 2) * 2 ^ f.mb + 2 ^ f.mb := by
    rw [Fmt.infBits, ← Nat.succ_mul]
    congr 1
    omega
  have hexp : f.bias + 1 = ((f.mb + (2 ^ f.eb - 2) : Nat) : Int) + f.emin := by
    unfold Fmt.emin Fmt.bias
    omega
  rw [hcode, Fmt.ulps_code (Nat.pow_lt_pow_right (by norm_num) (Nat.lt_succ_self _)) (.inr le_rfl), ← pow_add, hexp,
    zpow_add₀ two_ne_zero, zpow_natCast]
  push_cast
  rfl

end Codes

/-! ### Round by its cases (R133, R315) -/

/-- The exponent of the last place with an unbounded exponent (R186). -/
def Fmt.freePlace (f : Fmt) (m : Nat) (e : Int) : Int := e + (Nat.log2 m + 1 : Nat) - (f.mb + 1 : Nat)

section Cases
variable (f : Fmt) (mode : Nat) (neg : Bool) (draw m : Nat) (e : Int)

/-- What Round gives without its sign, where it does not overflow. -/
def Fmt.roundedCode : Nat :=
  let t := splitAt m e (f.lastPlace m e)
  f.codeAt (f.lastPlace m e) (roundInt mode neg draw t.1 t.2.1 t.2.2)

/-- Round overflows. -/
def Fmt.exceeds : Bool := if f.top || mode == 4 then f.tooLarge m e else decide (f.maxBits < f.roundedCode mode neg draw m e)

/-- What Round gives is tiny. -/
def Fmt.tiny : Bool :=
  let t := splitAt m e (f.freePlace m e)
  let p := f.mb + 1
  decide (f.freePlace m e + (p : Nat) - 1 < f.emin + f.mb) &&
    !(roundInt mode neg draw t.1 t.2.1 t.2.2 == 2 ^ p && decide (f.freePlace m e + (p : Nat) = f.emin + f.mb))

theorem roundTo_of_ne_zero {m : Nat} (hm : m ≠ 0) : roundTo f mode draw neg m e =
    if f.exceeds mode neg draw m e then
      (f.signed neg (if f.top || mode == 4 || mode == 1 || (mode == 2 && neg) || (mode == 3 && !neg) then f.maxBits else f.infBits), 5)
    else
      let inexact := decide ((splitAt m e (f.lastPlace m e)).2.1 ≠ 0)
      (f.signed neg (f.roundedCode mode neg draw m e),
        (if inexact then 1 else 0) + if inexact && f.tiny mode neg draw m e then 2 else 0) := by
  have hq : f.emin ≤ f.lastPlace m e := le_max_left _ _
  have hcarry := fun r => codeAt_carry (r := r) hq
  unfold roundTo
  rw [if_neg hm]
  dsimp only
  rw [show max f.emin (e + (Nat.log2 m + 1 : Nat) - (f.mb + 1 : Nat)) = f.lastPlace m e from rfl]
  simp only [hcarry]
  rfl

end Cases

end Sys2Proof.Machine
end

section
/-! SUPPORT. Where Round overflows, against the real number it is given (R245, R315). -/

namespace Sys2Proof.Machine

/-! ### Overflow (R245, R315) -/

/-- The exact value exceeds the largest finite one. -/
theorem tooLarge_iff {f : Fmt} (hf : f.Regular) {m : Nat} {t : ℝ} (h : StandsFor f m t) (e : Int) :
    f.tooLarge m e = true ↔ (f.largest : ℝ) < t * 2 ^ e := by
  have hlarge : (f.largest : ℝ) = (f.maxBits % 2 ^ f.mb + 2 ^ f.mb : Nat) * 2 ^ (f.emin + (f.maxBits / 2 ^ f.mb : Nat) - 1) := by
    have hpos : 1 ≤ f.maxBits / 2 ^ f.mb := Nat.div_pos hf.two_pow_le_maxBits (Nat.two_pow_pos _)
    rw [largest_eq hf, Fmt.ulps, Fmt.sig, Fmt.exp, if_neg (Nat.not_lt.mpr hf.two_pow_le_maxBits), Nat.cast_mul, Nat.cast_pow,
      mul_assoc, Nat.cast_ofNat, ← zpow_natCast, ← zpow_add₀ two_ne_zero]
    congr 2
    omega
  have ha : f.maxBits % 2 ^ f.mb + 2 ^ f.mb < 2 ^ (f.mb + 1) := by
    have := Nat.mod_lt f.maxBits (Nat.two_pow_pos f.mb)
    rw [pow_succ]
    omega
  rw [hlarge]
  unfold Fmt.tooLarge
  dsimp only
  generalize f.maxBits % 2 ^ f.mb + 2 ^ f.mb = a at ha ⊢
  generalize f.emin + (f.maxBits / 2 ^ f.mb : Nat) - 1 = b
  have h2e : (0 : ℝ) < 2 ^ e := by positivity
  have h2b : (0 : ℝ) < 2 ^ b := by positivity
  split
  case isTrue hle =>
    have he : (2 : ℝ) ^ e = 2 ^ (e - b).toNat * 2 ^ b := by
      rw [← zpow_natCast, ← zpow_add₀ two_ne_zero]
      congr 1
      omega
    rw [decide_eq_true_eq, he, ← mul_assoc, mul_lt_mul_iff_left₀ h2b]
    rcases h with rfl | ⟨hbig, h⟩
    · exact_mod_cast Iff.rfl
    · -- a sticky bit stands below bits that exceed the largest value by themselves
      have hpow := Nat.two_pow_pos (e - b).toNat
      have hpow' : (1 : ℝ) ≤ 2 ^ (e - b).toNat := one_le_pow₀ (by norm_num)
      have ham : 2 ^ (f.mb + 1) ≤ m := (Nat.pow_le_pow_right (by norm_num) (by omega)).trans hbig
      have hat : ((2 ^ (f.mb + 1) : Nat) : ℝ) ≤ t :=
        not_lt.1 ((h _ (Nat.even_pow.2 ⟨even_two, by omega⟩)).1.not.1 (Nat.not_lt.mpr ham))
      have haR : (a : ℝ) < (2 ^ (f.mb + 1) : Nat) := by exact_mod_cast ha
      refine iff_of_true ?_ ?_
      · nlinarith
      · nlinarith
  case isFalse hle =>
    have hb : (2 : ℝ) ^ b = 2 ^ (b - e).toNat * 2 ^ e := by
      rw [← zpow_natCast, ← zpow_add₀ two_ne_zero]
      congr 1
      omega
    rw [decide_eq_true_eq, hb, ← mul_assoc, mul_lt_mul_iff_left₀ h2e]
    rcases h with rfl | ⟨-, h⟩
    · exact_mod_cast Iff.rfl
    · obtain ⟨hlt, heq⟩ := h (a * 2 ^ (b - e).toNat) ((Nat.even_pow.2 ⟨even_two, by omega⟩).mul_left a)
      have hle : a * 2 ^ (b - e).toNat < m ↔ ¬ (m < a * 2 ^ (b - e).toNat ∨ m = a * 2 ^ (b - e).toNat) := by omega
      rw [hle, hlt, heq, ← le_iff_lt_or_eq, not_le]
      push_cast
      exact Iff.rfl

theorem ulps_maxBits_pos {f : Fmt} (hf : f.Regular) : 0 < f.ulps f.maxBits := by
  have h1 : f.maxBits ≤ f.ulps f.maxBits := Fmt.ulps_strictMono.le_apply
  have h2 := hf.two_pow_le_maxBits
  have h3 := Nat.two_pow_pos f.mb
  omega

/-- How the steps n and n + 1 of the last place lie to the largest finite value μ and to the value β that would follow it, in such
steps. -/
structure NearTop (n : Nat) (μ β : ℝ) : Prop where
  pos : 0 < μ
  lt : μ < β
  outside : Outside n μ
  next : μ < n → β ≤ n
  top : μ = n → β = n + 1 ∧ n % 2 = 1

theorem nearTop {f : Fmt} (hf : f.Regular) (ht : f.top = false) {d n : Nat} (hn : n < 2 ^ (f.mb + 1)) (hd : d = 0 ∨ 2 ^ f.mb ≤ n) :
    NearTop n (f.ulps f.maxBits / 2 ^ d) (f.ulps f.infBits / 2 ^ d) := by
  have h2d : (0 : ℝ) < 2 ^ d := by positivity
  have hmono := Fmt.ulps_strictMono (f := f)
  have hcode : f.ulps (d * 2 ^ f.mb + n) = n * 2 ^ d := Fmt.ulps_code hn hd
  have hinf := infBits_eq hf ht
  refine ⟨?_, ?_, ?_, fun h => ?_, fun h => ?_⟩
  · have := ulps_maxBits_pos hf
    positivity
  · rw [div_lt_div_iff_of_pos_right h2d]
    exact_mod_cast hmono (by omega)
  · rw [Outside, div_le_iff₀ h2d, le_div_iff₀ h2d]
    exact (Fmt.ulps_le_or_le f.maxBits hd).imp (by intro h; exact_mod_cast h) (by intro h; exact_mod_cast h)
  · rw [div_lt_iff₀ h2d] at h
    rw [div_le_iff₀ h2d]
    have hlt : f.ulps f.maxBits < f.ulps (d * 2 ^ f.mb + n) := by rw [hcode]; exact_mod_cast h
    have hle : f.infBits ≤ d * 2 ^ f.mb + n := by
      have := hmono.lt_iff_lt.1 hlt
      omega
    have := hmono.monotone hle
    rw [hcode] at this
    exact_mod_cast this
  · rw [div_eq_iff h2d.ne'] at h
    have heq : f.maxBits = d * 2 ^ f.mb + n := hmono.injective (by rw [hcode]; exact_mod_cast h)
    have hnext : f.ulps f.infBits = (n + 1) * 2 ^ d := by
      rw [hinf, heq]
      exact Fmt.ulps_codeAt (r := n + 1) (by omega) (hd.imp_right (by omega))
    have hodd := maxBits_odd hf ht
    have hdvd : 2 ∣ d * 2 ^ f.mb := (dvd_pow_self 2 (Nat.ne_of_gt hf.mb_pos)).mul_left d
    refine ⟨?_, by omega⟩
    rw [div_eq_iff h2d.ne']
    exact_mod_cast hnext

section Overflow
variable {mode draw n r : Nat} {neg : Bool} {φ μ β : ℝ} (h : Landing mode neg draw n φ r) (top : NearTop n μ β)
include h top

/-- A mode that truncates reaches the value behind the largest one only from there on. -/
theorem Landing.exceeds_truncating (hm : mode = 1 ∨ mode = 2 ∧ neg = true ∨ mode = 3 ∧ neg = false) : β ≤ n + φ ↔ μ < r := by
  have h0 := h.nonneg
  have h1 := h.lt_one
  rw [h.of_truncates hm]
  constructor
  · intro hβ
    rcases top.outside with hμ | hμ
    · exact lt_of_le_of_ne hμ fun he => by linarith [(top.top he).1]
    · linarith [top.lt]
  · intro hμ
    linarith [top.next hμ]

/-- One that goes away from zero does so from the largest value on. -/
theorem Landing.exceeds_away (hm : mode = 2 ∧ neg = false ∨ mode = 3 ∧ neg = true) : μ < n + φ ↔ μ < r := by
  by_cases hφ : φ = 0
  · rw [h.eq_of_zero hφ, hφ, add_zero]
  · have h0 := lt_of_le_of_ne h.nonneg (Ne.symm hφ)
    have h1 := h.lt_one
    rw [h.of_away hm hφ]
    push_cast
    refine ⟨fun hμ => by linarith, fun hμ => ?_⟩
    rcases top.outside with ho | ho <;> linarith

/-- RNE does so from the middle between the two on. -/
theorem Landing.exceeds_nearest (hm : mode = 0) : μ + β ≤ 2 * (n + φ) ↔ μ < r := by
  subst hm
  have h0 := h.nonneg
  have h1 := h.lt_one
  have hlt := top.lt
  have hr : (n : ℝ) ≤ r ∧ (r : ℝ) ≤ n + 1 := by rcases h.eq_or with rfl | rfl <;> simp
  rcases top.outside with hμ | hμ
  · rcases hμ.lt_or_eq with hμ | hμ
    · exact iff_of_true (by linarith [top.next hμ]) (by linarith)
    · obtain ⟨hβ, hodd⟩ := top.top hμ
      by_cases hu : goesUp 0 neg draw n φ
      · have hhalf : 1 ≤ 2 * φ := hu.elim le_of_lt fun h => h.1.ge
        rw [h.up hu]
        push_cast
        exact iff_of_true (by linarith) (by linarith)
      · have hn := not_or.1 hu
        have hhalf : 2 * φ < 1 := lt_of_le_of_ne (not_lt.1 hn.1) fun he => hn.2 ⟨he, hodd⟩
        rw [h.stay hu]
        exact iff_of_false (by linarith) (by linarith)
  · exact iff_of_false (by linarith) (by linarith)

end Overflow

/-- Overflow where the highest exponent holds no finite value, in the modes but RS: the code that rounding gives is beyond the largest
finite one. -/
theorem overflows_iff_maxBits_lt {f : Fmt} (hf : f.Regular) (ht : f.top = false) {mode draw d n r : Nat} {neg : Bool} {φ x : ℝ}
    (hmode : mode < 4) (hn : n < 2 ^ (f.mb + 1)) (hd : d = 0 ∨ 2 ^ f.mb ≤ n) (h : Landing mode neg draw n φ r)
    (hx : x = sgn neg * ((n + φ) * (2 ^ d * 2 ^ f.emin))) : Overflows f mode x ↔ f.maxBits < d * 2 ^ f.mb + r := by
  have top := nearTop hf ht hn hd
  have h2d : (0 : ℝ) < 2 ^ d := by positivity
  have hu : (0 : ℝ) < 2 ^ d * 2 ^ f.emin := by positivity
  have hcode : f.ulps (d * 2 ^ f.mb + r) = r * 2 ^ d :=
    Fmt.ulps_codeAt (by rcases h.eq_or with h | h <;> omega) (hd.imp_right (by rcases h.eq_or with h | h <;> omega))
  have hmax : f.maxBits < d * 2 ^ f.mb + r ↔ (f.ulps f.maxBits : ℝ) / 2 ^ d < r := by
    rw [← Fmt.ulps_strictMono.lt_iff_lt, hcode, div_lt_iff₀ h2d]
    exact_mod_cast Iff.rfl
  have hlargest : (f.largest : ℝ) = f.ulps f.maxBits / 2 ^ d * (2 ^ d * 2 ^ f.emin) := by rw [largest_eq hf]; field_simp
  have hnext : (2 : ℝ) ^ (f.bias + 1) = f.ulps f.infBits / 2 ^ d * (2 ^ d * 2 ^ f.emin) := by rw [← ulps_infBits hf]; field_simp
  unfold Overflows
  dsimp only
  rw [hmax, hx, ht, hlargest, hnext]
  generalize (2 : ℝ) ^ d * 2 ^ f.emin = w at hu ⊢
  generalize (f.ulps f.maxBits : ℝ) / 2 ^ d = μ at top ⊢
  generalize (f.ulps f.infBits : ℝ) / 2 ^ d = β at top ⊢
  have h0 : 0 ≤ n + φ := add_nonneg (Nat.cast_nonneg n) h.nonneg
  have hμw : 0 < μ * w := mul_pos top.pos hu
  have hβw : 0 < β * w := mul_pos (top.pos.trans top.lt) hu
  have h0w : 0 ≤ (n + φ) * w := mul_nonneg h0 hu.le
  have habs : |sgn neg * ((n + φ) * w)| = (n + φ) * w := by rw [abs_sgn_mul, abs_of_nonneg (by positivity)]
  simp only [Bool.false_eq_true, if_false, habs]
  interval_cases mode
  · change μ * w + β * w ≤ 2 * ((n + φ) * w) ↔ μ < r
    rw [← h.exceeds_nearest top rfl, ← add_mul, ← mul_assoc, mul_le_mul_iff_left₀ hu]
  · change β * w ≤ (n + φ) * w ↔ μ < r
    rw [← h.exceeds_truncating top (.inl rfl), mul_le_mul_iff_left₀ hu]
  · change μ * w < sgn neg * ((n + φ) * w) ∨ sgn neg * ((n + φ) * w) ≤ -(β * w) ↔ μ < r
    cases neg with
    | true =>
      rw [← h.exceeds_truncating top (.inr (.inl ⟨rfl, rfl⟩)), sgn_true, neg_one_mul, neg_le_neg_iff, mul_le_mul_iff_left₀ hu]
      exact or_iff_right (by linarith)
    | false =>
      rw [← h.exceeds_away top (.inl ⟨rfl, rfl⟩), sgn_false, one_mul, mul_lt_mul_iff_left₀ hu]
      exact or_iff_left (by linarith)
  · change sgn neg * ((n + φ) * w) < -(μ * w) ∨ β * w ≤ sgn neg * ((n + φ) * w) ↔ μ < r
    cases neg with
    | true =>
      rw [← h.exceeds_away top (.inr ⟨rfl, rfl⟩), sgn_true, neg_one_mul, neg_lt_neg_iff, mul_lt_mul_iff_left₀ hu]
      exact or_iff_left (by linarith)
    | false =>
      rw [← h.exceeds_truncating top (.inr (.inr ⟨rfl, rfl⟩)), sgn_false, one_mul, mul_le_mul_iff_left₀ hu]
      exact or_iff_right (by linarith)

end Sys2Proof.Machine
end

section
/-! SUPPORT. Where Round finds a result tiny, against the real number it is given (R186). -/

namespace Sys2Proof.Machine

/-! ### Tininess after rounding (R186) -/

section Tiny
variable {f : Fmt} {mode draw n r : Nat} {neg : Bool} {φ x w : ℝ}

/-- The least normal value of a format, and the value that would precede it with an unbounded exponent. -/
noncomputable def Fmt.normal (f : Fmt) : ℝ := 2 ^ (f.emin + f.mb)
noncomputable def Fmt.last (f : Fmt) : ℝ := f.normal - 2 ^ (f.emin - 1)

theorem normal_eq (f : Fmt) : (2 : ℝ) ^ (1 - f.bias) = f.normal := by
  rw [Fmt.normal, Fmt.emin]
  congr 1
  ring

theorem last_eq (f : Fmt) : f.normal - (2 : ℝ) ^ (-f.bias - f.mb) = f.last := by
  rw [Fmt.last, Fmt.emin]
  congr 2
  ring

theorem last_lt_normal (f : Fmt) : f.last < f.normal := sub_lt_self _ (by positivity)

/-- Tininess mode by mode, by those two values. -/
def TinyAt (mode draw : Nat) (normal last x : ℝ) : Prop :=
  match mode with
  | 0 => 2 * |x| < normal + last
  | 1 => |x| < normal
  | 2 => -normal < x ∧ x ≤ last
  | 3 => -last ≤ x ∧ x < normal
  | _ => |x| < normal ∧ ¬ (draw : ℤ) < ⌊2 ^ 32 * (|x| - last) / (normal - last)⌋

theorem tinyAfterRounding_iff (f : Fmt) (mode draw : Nat) (x : ℝ) :
    TinyAfterRounding f mode draw x ↔ TinyAt mode draw f.normal f.last x := by
  rw [← last_eq, ← normal_eq]
  exact Iff.rfl

theorem lt_normal_of_tiny (hmode : mode ≤ 4) (h : TinyAfterRounding f mode draw x) : |x| < f.normal := by
  have hlast := last_lt_normal f
  rw [tinyAfterRounding_iff] at h
  interval_cases mode
  · have h : 2 * |x| < f.normal + f.last := h
    linarith
  · exact h
  · exact abs_lt.2 ⟨h.1, h.2.trans_lt hlast⟩
  · have h : -f.last ≤ x ∧ x < f.normal := h
    exact abs_lt.2 ⟨by linarith, h.2⟩
  · exact h.1

theorem tiny_of_le_last (hmode : mode ≤ 4) (h : |x| ≤ f.last) : TinyAfterRounding f mode draw x := by
  have hlast := last_lt_normal f
  obtain ⟨hlo, hhi⟩ := abs_le.1 h
  rw [tinyAfterRounding_iff]
  interval_cases mode
  · change 2 * |x| < f.normal + f.last
    linarith
  · exact h.trans_lt hlast
  · exact ⟨by linarith, hhi⟩
  · exact ⟨hlo, by linarith⟩
  · refine ⟨h.trans_lt hlast, not_lt.2 ?_⟩
    have hneg : 2 ^ 32 * (|x| - f.last) / (f.normal - f.last) ≤ 0 :=
      div_nonpos_of_nonpos_of_nonneg (by linarith) (by linarith)
    have := Int.floor_nonpos hneg
    omega

/-- In the last step before the least normal value, what goes up is not tiny. -/
theorem tiny_last_step (hmode : mode ≤ 4) (hw : 0 < w) (h0 : 0 ≤ φ) (h1 : φ < 1) (hodd : n % 2 = 1) (hnormal : f.normal = (n + 1) * w)
    (hlast : f.last = n * w) (hx : x = sgn neg * ((n + φ) * w)) :
    TinyAfterRounding f mode draw x ↔ ¬ goesUp mode neg draw n φ := by
  have hn : (0 : ℝ) ≤ n := Nat.cast_nonneg n
  have habs : |x| = (n + φ) * w := by rw [hx, abs_sgn_mul, abs_of_nonneg (by positivity)]
  have hlt : |x| < f.normal := by rw [habs, hnormal]; exact mul_lt_mul_of_pos_right (by linarith) hw
  have hle : |x| ≤ f.last ↔ φ = 0 := by
    rw [habs, hlast, mul_le_mul_iff_left₀ hw]
    exact ⟨fun h => by linarith, fun h => by linarith⟩
  have hlast0 : 0 ≤ f.last := by rw [hlast]; positivity
  have hln := last_lt_normal f
  have hsign : neg = true ∧ x = -|x| ∨ neg = false ∧ x = |x| := by
    rw [habs, hx]
    cases neg <;> simp
  rw [tinyAfterRounding_iff]
  interval_cases mode
  · change 2 * |x| < f.normal + f.last ↔ ¬ (1 < 2 * φ ∨ 2 * φ = 1 ∧ n % 2 = 1)
    rw [habs, hnormal, hlast, ← add_mul, ← mul_assoc, mul_lt_mul_iff_left₀ hw, and_iff_left hodd, eq_comm (b := (1 : ℝ)),
      ← le_iff_lt_or_eq, not_le]
    constructor <;> intro h <;> linarith
  · exact iff_of_true hlt id
  · change -f.normal < x ∧ x ≤ f.last ↔ ¬ (neg = false ∧ φ ≠ 0)
    rcases hsign with ⟨rfl, hs⟩ | ⟨rfl, hs⟩
    · exact iff_of_true ⟨by linarith, by linarith [abs_nonneg x]⟩ (by simp)
    · rw [and_iff_right (show -f.normal < x by linarith [abs_nonneg x]), hs, hle]
      simp
  · change -f.last ≤ x ∧ x < f.normal ↔ ¬ (neg = true ∧ φ ≠ 0)
    rcases hsign with ⟨rfl, hs⟩ | ⟨rfl, hs⟩
    · rw [and_iff_left (show x < f.normal by linarith [abs_nonneg x]), hs, neg_le_neg_iff, hle]
      simp
    · exact iff_of_true ⟨by linarith [abs_nonneg x], by linarith⟩ (by simp)
  · change |x| < f.normal ∧ ¬ (draw : ℤ) < ⌊2 ^ 32 * (|x| - f.last) / (f.normal - f.last)⌋ ↔ ¬ (draw : ℤ) < ⌊2 ^ 32 * φ⌋
    have hfrac : 2 ^ 32 * (|x| - f.last) / (f.normal - f.last) = 2 ^ 32 * φ := by
      rw [habs, hnormal, hlast]
      field_simp
      ring
    rw [and_iff_right hlt, hfrac]

/-- Tininess as Round computes it, with n steps and a fraction of the last place of an unbounded exponent. -/
theorem tiny_iff {q : Int} (hmode : mode ≤ 4) (hlo : 2 ^ f.mb ≤ n) (hhi : n < 2 ^ (f.mb + 1)) (h : Landing mode neg draw n φ r)
    (hx : x = sgn neg * ((n + φ) * 2 ^ q)) :
    (decide (q + (f.mb + 1 : Nat) - 1 < f.emin + f.mb) && !(r == 2 ^ (f.mb + 1) && decide (q + (f.mb + 1 : Nat) = f.emin + f.mb))) = true ↔
      TinyAfterRounding f mode draw x := by
  have h0 := h.nonneg
  have h1 := h.lt_one
  have hw : (0 : ℝ) < 2 ^ q := by positivity
  have hloR : (2 : ℝ) ^ f.mb ≤ n := by exact_mod_cast hlo
  have hhiR : (n : ℝ) + 1 ≤ 2 ^ (f.mb + 1) := by exact_mod_cast hhi
  have habs : |x| = (n + φ) * 2 ^ q := by rw [hx, abs_sgn_mul, abs_of_nonneg (by positivity)]
  have hnormal (j : Nat) (p : Int) (hj : p + j = f.emin + f.mb) : f.normal = 2 ^ j * 2 ^ p := by
    rw [Fmt.normal, ← hj, add_comm, zpow_add₀ two_ne_zero, zpow_natCast]
  have hhalf : f.normal / 2 ≤ f.last := by
    have hn := hnormal (f.mb + 1) (f.emin - 1) (by push_cast; ring)
    have hp : (2 : ℝ) ≤ 2 ^ (f.mb + 1) := le_self_pow₀ (by norm_num) (by omega)
    have hu : (0 : ℝ) < 2 ^ (f.emin - 1) := by positivity
    rw [Fmt.last]
    nlinarith
  have hpos : 0 < f.normal := by rw [Fmt.normal]; positivity
  rcases lt_trichotomy (q + (f.mb + 1 : Nat)) (f.emin + f.mb) with hq | hq | hq
  · -- below half of the least normal value
    have hle : |x| ≤ f.last := by
      have hn := hnormal (f.emin + f.mb - q).toNat q (by omega)
      have hp : (2 : ℝ) ^ (f.mb + 1) * 2 ≤ 2 ^ (f.emin + f.mb - q).toNat := by
        rw [← pow_succ]
        exact pow_le_pow_right₀ (by norm_num) (by omega)
      rw [habs]
      nlinarith
    refine iff_of_true ?_ (tiny_of_le_last hmode hle)
    rw [decide_eq_true (by omega), decide_eq_false hq.ne, Bool.and_false]
    rfl
  · have hn := hnormal _ _ hq
    have hlast : f.last = (2 ^ (f.mb + 1) - 1) * 2 ^ q := by
      rw [Fmt.last, hn, show f.emin - 1 = q by push_cast at hq; omega]
      ring
    rw [decide_eq_true (by omega), decide_eq_true hq, Bool.true_and, Bool.and_true, Bool.not_eq_true', beq_eq_false_iff_ne]
    by_cases htop : n + 1 = 2 ^ (f.mb + 1)
    · have htopR : (n : ℝ) + 1 = 2 ^ (f.mb + 1) := by exact_mod_cast htop
      have hodd : n % 2 = 1 := by rw [pow_succ] at htop; omega
      rw [tiny_last_step hmode hw h0 h1 hodd (by rw [hn, htopR]) (by rw [hlast, ← htopR]; ring) hx]
      constructor
      · intro hr hu
        exact hr ((h.up hu).trans htop)
      · intro hu
        rw [h.stay hu]
        omega
    · have hr := h.eq_or
      refine iff_of_true (by omega) (tiny_of_le_last hmode ?_)
      have hlt : (n : ℝ) + 2 ≤ 2 ^ (f.mb + 1) := by exact_mod_cast (show n + 2 ≤ 2 ^ (f.mb + 1) by omega)
      rw [habs, hlast]
      exact mul_le_mul_of_nonneg_right (by linarith) hw.le
  · -- at or above the least normal value
    refine iff_of_false ?_ fun ht => absurd (lt_normal_of_tiny hmode ht) (not_lt.2 ?_)
    · rw [decide_eq_false (by omega), Bool.false_and]
      exact Bool.false_ne_true
    · have hn := hnormal f.mb f.emin rfl
      have hqe : (2 : ℝ) ^ f.emin ≤ 2 ^ q := zpow_le_zpow_right₀ (by norm_num) (by push_cast at hq; omega)
      have hp : (0 : ℝ) < 2 ^ f.mb := by positivity
      rw [habs, hn]
      exact mul_le_mul (by linarith) hqe (by positivity) (by positivity)

end Tiny

end Sys2Proof.Machine
end

section
/-! SUPPORT. Round gives what `RoundsTo` asks of the real number it is given (R133, R186, R239, R315). -/

namespace Sys2Proof.Machine

/-! ### Round of what stands for a real number (R133, R186, R239, R315) -/

theorem sgn_mul_le (neg : Bool) {a b w : ℝ} (hw : 0 < w) :
    sgn neg * (a * w) ≤ sgn neg * (b * w) ↔ if neg then b ≤ a else a ≤ b := by
  cases neg <;> simp [hw]

theorem abs_sgn_mul_sub (neg : Bool) {a b w : ℝ} (hw : 0 < w) : |sgn neg * (a * w) - sgn neg * (b * w)| = |a - b| * w := by
  rw [← mul_sub, ← sub_mul, abs_sgn_mul, abs_mul, abs_of_pos hw]

/-- Where Round puts the real number x: n and n + 1 steps of the last place are its neighbours, r is the one chosen. -/
structure Placed (f : Fmt) (mode : Nat) (neg : Bool) (draw m : Nat) (e : Int) (x : ℝ) (d n r : Nat) (φ : ℝ) : Prop where
  value : x = sgn neg * ((n + φ) * (2 ^ d * 2 ^ f.emin))
  pos : 0 < n + φ
  lt : n < 2 ^ (f.mb + 1)
  adjacent : d = 0 ∨ 2 ^ f.mb ≤ n
  landing : Landing mode neg draw n φ r
  code : f.roundedCode mode neg draw m e = d * 2 ^ f.mb + r
  exact : (splitAt m e (f.lastPlace m e)).2.1 = 0 ↔ φ = 0

theorem placed {f : Fmt} {mode draw m : Nat} {t : ℝ} (hmode : mode ≤ 4) (h : StandsFor f m t) (hm : m ≠ 0) (neg : Bool) (e : Int) :
    ∃ d n r φ, Placed f mode neg draw m e (sgn neg * (t * 2 ^ e)) d n r φ := by
  have st := steps_splitAt (f := f) e hm
  obtain ⟨φ, hval, hst⟩ := h.split hm (show e + (Nat.log2 m + 1 : Nat) - (f.mb + 1 : Nat) ≤ f.lastPlace m e from le_max_right _ _)
  have hq : (2 : ℝ) ^ f.lastPlace m e = 2 ^ (f.lastPlace m e - f.emin).toNat * 2 ^ f.emin := by
    rw [← zpow_natCast, ← zpow_add₀ two_ne_zero]
    congr 1
    have : f.emin ≤ f.lastPlace m e := le_max_left _ _
    omega
  refine ⟨_, _, _, φ, ⟨by rw [hval, hq], ?_, st.lt, st.adjacent, landing_roundInt hmode hst, rfl, hst.eq_zero⟩⟩
  have ht : 0 < t := (pow_pos two_pos _).trans_le (h.two_pow_log_le hm).1
  have : 0 < t * 2 ^ e := by positivity
  rw [hval] at this
  exact pos_of_mul_pos_left this (by positivity)

/-- A step of the last place. -/
theorem step_pos (f : Fmt) (d : Nat) : (0 : ℝ) < 2 ^ d * 2 ^ f.emin := by positivity

namespace Placed
variable {f : Fmt} {mode draw m d n r : Nat} {neg : Bool} {e : Int} {x φ : ℝ} (h : Placed f mode neg draw m e x d n r φ)
include h

theorem abs_eq : |x| = (n + φ) * (2 ^ d * 2 ^ f.emin) := by
  have := h.pos
  rw [h.value, abs_sgn_mul, abs_of_nonneg (by positivity)]

theorem neg_iff : x < 0 ↔ neg = true := by
  have : 0 < (n + φ) * (2 ^ d * 2 ^ f.emin) := mul_pos h.pos (step_pos f d)
  rw [h.value]
  cases neg with
  | true => simpa using this
  | false => simpa using this.le

theorem ne_zero : x ≠ 0 := by
  intro h0
  have := mul_pos h.pos (step_pos f d)
  rw [← h.abs_eq, h0, abs_zero] at this
  exact lt_irrefl _ this

/-- The neighbours' magnitudes. -/
theorem ulps_neighbour {j : Nat} (hj : j = n ∨ j = n + 1) : f.ulps (d * 2 ^ f.mb + j) = j * 2 ^ d := by
  have := h.lt
  exact Fmt.ulps_codeAt (by omega) (h.adjacent.imp_right (by omega))

theorem neighbour_le {j : Nat} (hj : j = n ∨ j = n + 1) : d * 2 ^ f.mb + j ≤ f.maxBits ↔ (j : ℝ) * 2 ^ d ≤ f.ulps f.maxBits := by
  rw [← Fmt.ulps_strictMono.le_iff_le, h.ulps_neighbour hj]
  exact_mod_cast Iff.rfl

theorem exceeds_iff (hf : f.Regular) (hmode : mode ≤ 4) {t : ℝ} (ht : StandsFor f m t) (hx : |x| = t * 2 ^ e) :
    f.exceeds mode neg draw m e = true ↔ Overflows f mode x := by
  unfold Fmt.exceeds
  by_cases htop : f.top = true ∨ mode = 4
  · have hlarge : Overflows f mode x ↔ (f.largest : ℝ) < |x| := by
      unfold Overflows
      rcases htop with htop | rfl
      · rw [if_pos htop]
      · exact iff_of_eq (ite_self _)
    rw [if_pos (by simpa using htop), tooLarge_iff hf ht, hlarge, hx]
  · obtain ⟨htop, h4⟩ := not_or.1 htop
    have htop := Bool.eq_false_of_not_eq_true htop
    rw [if_neg (by simp [htop, h4]), decide_eq_true_eq, h.code,
      overflows_iff_maxBits_lt hf htop (by omega) h.lt h.adjacent h.landing h.value]

theorem code_le (hf : f.Regular) (hmode : mode ≤ 4) (ho : ¬ Overflows f mode x) : d * 2 ^ f.mb + r ≤ f.maxBits := by
  by_cases htop : f.top = true ∨ mode = 4
  · have hlarge : |x| ≤ f.largest := by
      unfold Overflows at ho
      rcases htop with htop | rfl
      · rw [if_pos htop] at ho
        exact not_lt.1 ho
      · exact not_lt.1 fun hlt => ho ((iff_of_eq (ite_self _)).2 hlt)
    have h0 := h.landing.nonneg
    have h2d : (0 : ℝ) < 2 ^ d := by positivity
    rw [h.abs_eq, largest_eq hf, ← mul_assoc] at hlarge
    have hlarge := le_of_mul_le_mul_right hlarge (by positivity : (0 : ℝ) < 2 ^ f.emin)
    rw [h.neighbour_le h.landing.eq_or]
    rcases Fmt.ulps_le_or_le (n := n) (d := d) f.maxBits h.adjacent with hmx | hmx
    · have hmx : (f.ulps f.maxBits : ℝ) ≤ n * 2 ^ d := by exact_mod_cast hmx
      have hφ : φ = 0 := le_antisymm (by nlinarith) h0
      rw [h.landing.eq_of_zero hφ]
      rwa [hφ, add_zero] at hlarge
    · have hmx : ((n : ℝ) + 1) * 2 ^ d ≤ f.ulps f.maxBits := by exact_mod_cast hmx
      have hr : (r : ℝ) ≤ n + 1 := by rcases h.landing.eq_or with hr | hr <;> rw [hr] <;> push_cast <;> linarith
      exact (mul_le_mul_of_nonneg_right hr h2d.le).trans hmx
  · obtain ⟨htop, h4⟩ := not_or.1 htop
    exact not_lt.1 (ho ∘ (overflows_iff_maxBits_lt hf (Bool.eq_false_of_not_eq_true htop) (by omega) h.lt h.adjacent h.landing
      h.value).2)

/-- The value of a neighbour's code. -/
theorem rat_neighbour (hf : f.Regular) {j : Nat} (hj : j = n ∨ j = n + 1) (hle : d * 2 ^ f.mb + j ≤ f.maxBits) (b : Bool) :
    ((unpack f (f.signed b (d * 2 ^ f.mb + j))).rat : ℝ) = sgn b * (j * (2 ^ d * 2 ^ f.emin)) := by
  rw [(unpack_signed hf b hle).2, h.ulps_neighbour hj]
  push_cast
  ring

/-- Every finite value, in steps of the last place, lies outside the neighbours. -/
theorem outside (hf : f.Regular) {c : Nat} (hc : (unpack f c).finite = true) :
    ∃ ζ : ℝ, ((unpack f c).rat : ℝ) = sgn neg * (ζ * (2 ^ d * 2 ^ f.emin)) ∧ Outside n |ζ| := by
  have hu := step_pos f d
  refine ⟨sgn neg * (unpack f c).rat / (2 ^ d * 2 ^ f.emin), ?_, ?_⟩
  · rw [div_mul_cancel₀ _ hu.ne', ← mul_assoc, sgn_mul_self, one_mul]
  · have h2d : (0 : ℝ) < 2 ^ d := by positivity
    have h2e : (0 : ℝ) < 2 ^ f.emin := by positivity
    rw [abs_div, abs_sgn_mul, abs_of_pos hu, (magnitude_of_finite hf hc).2, mul_div_mul_right _ _ h2e.ne', Outside, div_le_iff₀ h2d,
      le_div_iff₀ h2d]
    exact (Fmt.ulps_le_or_le _ h.adjacent).imp (by intro h; exact_mod_cast h) (by intro h; exact_mod_cast h)

/-- What the deterministic modes choose among all finite values. -/
theorem neighbour_chosen {y z ζ : ℝ} (hy : y = sgn neg * (r * (2 ^ d * 2 ^ f.emin))) (hz : z = sgn neg * (ζ * (2 ^ d * 2 ^ f.emin)))
    (hζ : Outside n |ζ|) :
    (mode = 0 → |x - y| ≤ |x - z| ∧ (|x - y| = |x - z| → z ≠ y → r % 2 = 0)) ∧
    (mode = 1 → |y| ≤ |x| ∧ (|z| ≤ |x| → |z| ≤ |y|)) ∧
    (mode = 2 → x ≤ y ∧ (x ≤ z → y ≤ z)) ∧ (mode = 3 → y ≤ x ∧ (z ≤ x → z ≤ y)) := by
  have hw := step_pos f d
  have hl := h.landing
  rw [h.value, hy, hz]
  generalize (2 : ℝ) ^ d * 2 ^ f.emin = w at hw
  refine ⟨fun hm => ?_, fun hm => ?_, fun hm => ?_, fun hm => ?_⟩
  · obtain ⟨hle, htie⟩ := hl.nearest hm hζ.of_abs
    rw [abs_sgn_mul_sub neg hw, abs_sgn_mul_sub neg hw, mul_left_inj' hw.ne']
    exact ⟨mul_le_mul_of_nonneg_right hle hw.le, fun he hne => htie he fun h => hne (by rw [h])⟩
  · have habs (a : ℝ) : |sgn neg * (a * w)| = |a| * w := by rw [abs_sgn_mul, abs_mul, abs_of_pos hw]
    rw [habs, habs, habs, abs_of_pos h.pos, Nat.abs_cast, mul_le_mul_iff_left₀ hw, mul_le_mul_iff_left₀ hw, mul_le_mul_iff_left₀ hw]
    exact (hl.below (.inl hm)).imp_right fun h => h hζ
  · rw [sgn_mul_le neg hw, sgn_mul_le neg hw, sgn_mul_le neg hw]
    cases neg with
    | true => exact (hl.below (.inr (.inl ⟨hm, rfl⟩))).imp_right fun h => h hζ.of_abs
    | false => exact (hl.above (.inl ⟨hm, rfl⟩)).imp_right fun h => h hζ.of_abs
  · rw [sgn_mul_le neg hw, sgn_mul_le neg hw, sgn_mul_le neg hw]
    cases neg with
    | true => exact (hl.above (.inr ⟨hm, rfl⟩)).imp_right fun h => h hζ.of_abs
    | false => exact (hl.below (.inr (.inr ⟨hm, rfl⟩))).imp_right fun h => h hζ.of_abs

/-- RS between the two values of the format that x lies between (R239). -/
theorem neighbour_drawn (hf : f.Regular) (hm : mode = 4) {y : ℝ} (hy : y = sgn neg * (r * (2 ^ d * 2 ^ f.emin))) {c b : Nat}
    (hc : (unpack f c).finite = true) (hb : (unpack f b).finite = true)
    (hcx : 0 ≤ ((unpack f c).rat : ℝ) * x) (hbx : 0 < ((unpack f b).rat : ℝ) * x) (hlt : |((unpack f c).rat : ℝ)| < |x|)
    (hgt : |x| < |((unpack f b).rat : ℝ)|)
    (hall : ∀ k, k < 2 ^ f.width → (unpack f k).finite = true →
      |((unpack f k).rat : ℝ)| ≤ |((unpack f c).rat : ℝ)| ∨ |((unpack f b).rat : ℝ)| ≤ |((unpack f k).rat : ℝ)|) :
    y = if (draw : ℤ) < ⌊2 ^ 32 * |x - (unpack f c).rat| / |((unpack f b).rat : ℝ) - (unpack f c).rat|⌋ then ((unpack f b).rat : ℝ)
      else (unpack f c).rat := by
  subst hm
  have hw := step_pos f d
  have h0 := h.landing.nonneg
  have h1 := h.landing.lt_one
  have hpos := h.pos
  obtain ⟨ζ, hz, hζ⟩ := h.outside hf hc
  obtain ⟨β, hβ, hβo⟩ := h.outside hf hb
  have hbmax : |β| * 2 ^ d ≤ f.ulps f.maxBits := by
    obtain ⟨hle, hmag⟩ := magnitude_of_finite hf hb
    have hule : (f.ulps (b % 2 ^ (f.eb + f.mb)) : ℝ) ≤ f.ulps f.maxBits := by exact_mod_cast Fmt.ulps_strictMono.monotone hle
    rw [hβ, abs_sgn_mul, abs_mul, abs_of_pos hw, ← mul_assoc] at hmag
    exact (mul_right_cancel₀ (by positivity) hmag).le.trans hule
  -- z and b in steps of the last place, on x's side of zero
  have hval (a : ℝ) : sgn neg * (a * (2 ^ d * 2 ^ f.emin)) * x = a * (n + φ) * ((2 ^ d * 2 ^ f.emin) * (2 ^ d * 2 ^ f.emin)) := by
    rw [h.value]
    linear_combination (a * (2 ^ d * 2 ^ f.emin) * ((n + φ) * (2 ^ d * 2 ^ f.emin))) * sgn_mul_self neg
  have hζ0 : 0 ≤ ζ := by
    rw [hz, hval] at hcx
    exact nonneg_of_mul_nonneg_left (nonneg_of_mul_nonneg_left hcx (by positivity)) hpos
  have hβ0 : 0 < β := by
    rw [hβ, hval] at hbx
    exact pos_of_mul_pos_left (pos_of_mul_pos_left hbx (by positivity)) hpos.le
  have hmag (a : ℝ) (ha : 0 ≤ a) : |sgn neg * (a * (2 ^ d * 2 ^ f.emin))| = a * (2 ^ d * 2 ^ f.emin) := by
    rw [abs_sgn_mul, abs_of_nonneg (by positivity)]
  rw [hz, hmag _ hζ0, h.abs_eq, mul_lt_mul_iff_left₀ hw] at hlt
  rw [hβ, hmag _ hβ0.le, h.abs_eq, mul_lt_mul_iff_left₀ hw] at hgt
  rw [abs_of_nonneg hζ0] at hζ
  rw [abs_of_pos hβ0] at hβo hbmax
  have hζn : ζ ≤ n := hζ.resolve_right (by linarith)
  have hβn : (n : ℝ) + 1 ≤ β := hβo.resolve_left (by linarith)
  -- no value between them but the neighbours
  have hnear {j : Nat} (hj : j = n ∨ j = n + 1) (hle : (j : ℝ) ≤ β) : (j : ℝ) ≤ ζ ∨ β ≤ j := by
    have hcode : d * 2 ^ f.mb + j ≤ f.maxBits := (h.neighbour_le hj).2 ((mul_le_mul_of_nonneg_right hle (by positivity)).trans hbmax)
    have hk := hall (f.signed false (d * 2 ^ f.mb + j)) (signed_lt false (hcode.trans_lt hf.maxBits_lt)) (unpack_signed hf false hcode).1
    rwa [h.rat_neighbour hf hj hcode, hz, hβ, hmag _ hζ0, hmag _ hβ0.le, abs_sgn_mul, abs_of_nonneg (by positivity),
      mul_le_mul_iff_left₀ hw, mul_le_mul_iff_left₀ hw] at hk
  have hζeq : ζ = n := le_antisymm hζn ((hnear (.inl rfl) (by linarith)).resolve_right (by linarith))
  have hβeq : β = (n + 1 : Nat) :=
    le_antisymm ((hnear (.inr rfl) (by push_cast; linarith)).resolve_left (by push_cast; linarith)) (by push_cast; linarith)
  have hfrac : 2 ^ 32 * |x - (unpack f c).rat| / |((unpack f b).rat : ℝ) - (unpack f c).rat| = 2 ^ 32 * φ := by
    rw [h.value, hβ, hz, abs_sgn_mul_sub neg hw, abs_sgn_mul_sub neg hw, hζeq, hβeq]
    push_cast
    rw [add_sub_cancel_left, add_sub_cancel_left, abs_of_nonneg h0, abs_one, one_mul, ← mul_assoc, mul_div_cancel_right₀ _ hw.ne']
  rw [hfrac]
  by_cases hu : (draw : ℤ) < ⌊2 ^ 32 * φ⌋
  · rw [if_pos hu, hy, hβ, hβeq, h.landing.up hu]
  · rw [if_neg hu, hy, hz, hζeq, h.landing.stay hu]

/-- A value that x is leaves no fraction. -/
theorem exact_of_value {z ζ : ℝ} (hz : z = sgn neg * (ζ * (2 ^ d * 2 ^ f.emin))) (hζ : Outside n |ζ|) (hzx : z = x) : φ = 0 := by
  have hs : sgn neg ≠ 0 := by cases neg <;> simp
  rw [hz, h.value, mul_right_inj' hs, mul_left_inj' (step_pos f d).ne'] at hzx
  have h0 := h.landing.nonneg
  have h1 := h.landing.lt_one
  rcases (hzx ▸ hζ).of_abs with ho | ho <;> linarith

end Placed

/-- Round computes tininess after rounding. -/
theorem fmt_tiny_iff {f : Fmt} {mode draw m : Nat} {neg : Bool} {e : Int} {x t : ℝ} (hmode : mode ≤ 4)
    (ht : StandsFor f m t) (hm : m ≠ 0) (hx : x = sgn neg * (t * 2 ^ e)) :
    f.tiny mode neg draw m e = true ↔ TinyAfterRounding f mode draw x := by
  obtain ⟨φ, hval, hst⟩ := ht.split hm (le_refl (e + (Nat.log2 m + 1 : Nat) - (f.mb + 1 : Nat)))
  have h2q : (0 : ℝ) < 2 ^ f.freePlace m e := by positivity
  have hbounds : (2 : ℝ) ^ f.mb * 2 ^ f.freePlace m e ≤ t * 2 ^ e ∧ t * 2 ^ e < 2 ^ (f.mb + 1) * 2 ^ f.freePlace m e := by
    have hpow (j : Nat) : (2 : ℝ) ^ (f.mb + j) * 2 ^ f.freePlace m e = 2 ^ (Nat.log2 m + j) * 2 ^ e := by
      rw [← zpow_natCast, ← zpow_natCast, ← zpow_add₀ two_ne_zero, ← zpow_add₀ two_ne_zero, Fmt.freePlace]
      congr 1
      push_cast
      ring
    obtain ⟨hlo, hhi⟩ := ht.two_pow_log_le hm
    have h0 := hpow 0
    rw [add_zero, add_zero] at h0
    rw [h0, hpow 1]
    exact ⟨mul_le_mul_of_nonneg_right hlo (by positivity), mul_lt_mul_of_pos_right hhi (by positivity)⟩
  have h0 := hst.nonneg
  have h1 := hst.lt_one
  rw [show e + (Nat.log2 m + 1 : Nat) - (f.mb + 1 : Nat) = f.freePlace m e from rfl] at hval hst
  rw [hval, mul_le_mul_iff_left₀ h2q, mul_lt_mul_iff_left₀ h2q] at hbounds
  rw [hval] at hx
  have hl := landing_roundInt (neg := neg) (draw := draw) (n := (splitAt m e (f.freePlace m e)).1) hmode hst
  unfold Fmt.tiny
  dsimp only
  generalize (splitAt m e (f.freePlace m e)).1 = n at hbounds hx hl ⊢
  refine tiny_iff hmode ?_ ?_ hl hx
  · have : ((2 ^ f.mb : Nat) : ℝ) < (n + 1 : Nat) := by push_cast; linarith
    exact Nat.lt_succ_iff.1 (by exact_mod_cast this)
  · have : (n : ℝ) < (2 ^ (f.mb + 1) : Nat) := by push_cast; linarith
    exact_mod_cast this

/-- The sign of an exact zero does not matter elsewhere. -/
theorem RoundsTo.of_ne_zero {f : Fmt} {mode draw : Nat} {a : Bool} (b : Bool) {x : ℝ} {r : Nat × Nat} (hx : x ≠ 0)
    (h : RoundsTo f mode draw a x r) : RoundsTo f mode draw b x r := by
  obtain ⟨⟨hlt, -, hsign⟩, hrest⟩ := h
  exact ⟨⟨hlt, fun h0 => absurd h0 hx, hsign⟩, hrest⟩

theorem not_overflows_zero {f : Fmt} (hf : f.Regular) (mode : Nat) : ¬ Overflows f mode 0 := by
  have hlarge : (0 : ℝ) < f.largest := by
    rw [largest_eq hf]
    have := ulps_maxBits_pos hf
    positivity
  have hnext : (0 : ℝ) < 2 ^ (f.bias + 1) := by positivity
  unfold Overflows
  dsimp only
  rw [abs_zero]
  split
  · linarith
  · split
    · linarith
    · linarith
    · rintro (h | h) <;> linarith
    · rintro (h | h) <;> linarith
    · linarith

/-- An exact zero keeps its sign. -/
theorem roundsTo_zero {f : Fmt} (hf : f.Regular) (mode draw : Nat) (neg : Bool) : RoundsTo f mode draw neg 0 (f.signed neg 0, 0) := by
  have hlt : 0 < 2 ^ (f.eb + f.mb) := Nat.two_pow_pos _
  obtain ⟨hfin, hrat⟩ := unpack_signed hf neg (Nat.zero_le f.maxBits)
  have hy : ((unpack f (f.signed neg 0)).rat : ℝ) = 0 := by rw [hrat]; simp [Fmt.ulps, Fmt.sig]
  unfold RoundsTo
  dsimp only
  rw [hy]
  refine ⟨⟨signed_lt neg hlt, fun _ => rfl, fun h => absurd rfl h⟩, fun h => absurd h (not_overflows_zero hf mode), fun _ =>
    ⟨hfin, fun c _ _ => ⟨fun _ => ?_, fun _ => ⟨le_rfl, id⟩, fun _ => ⟨le_rfl, id⟩, fun _ => ⟨le_rfl, id⟩, fun _ =>
      ⟨fun _ => rfl, fun d _ _ _ hb => ?_⟩⟩, fun _ => rfl, fun h => absurd rfl h, fun h => absurd rfl h⟩⟩
  · rw [sub_self, abs_zero]
    exact ⟨abs_nonneg _, fun h hne => absurd (by simpa using h.symm) hne⟩
  · rw [mul_zero] at hb
    exact absurd hb (lt_irrefl _)

/-- The low bit of a code is its neighbour's in steps of the last place. -/
theorem signed_even {f : Fmt} (hf : f.Regular) (neg : Bool) {d r : Nat} (hr : r % 2 = 0) :
    f.signed neg (d * 2 ^ f.mb + r) % 2 = 0 := by
  have h1 : 2 ∣ d * 2 ^ f.mb := (dvd_pow_self 2 (Nat.ne_of_gt hf.mb_pos)).mul_left d
  have h2 : 2 ∣ 2 ^ (f.eb + f.mb) := dvd_pow_self 2 (by have := hf.mb_pos; omega)
  unfold Fmt.signed
  split <;> omega

namespace Placed
variable {f : Fmt} {mode draw m d n r : Nat} {neg : Bool} {e : Int} {x φ : ℝ} (h : Placed f mode neg draw m e x d n r φ)
include h

/-- What every result has: the width and the sign. -/
theorem signed_result {k : Nat} (hk : k < 2 ^ (f.eb + f.mb)) (fl : Nat) : f.signed neg k < 2 ^ f.width ∧
    (x = 0 → (f.signed neg k, fl) = (if neg then 2 ^ (f.eb + f.mb) else 0, 0)) ∧
    (x ≠ 0 → ((f.signed neg k).testBit (f.eb + f.mb) = true ↔ x < 0)) :=
  ⟨signed_lt neg hk, fun h0 => absurd h0 h.ne_zero, fun _ => by rw [testBit_signed neg hk, h.neg_iff]⟩

/-- The result of an overflow (R315, R317). -/
theorem roundsTo_of_overflows (hf : f.Regular) (ho : Overflows f mode x) : RoundsTo f mode draw neg x
    (f.signed neg (if f.top || mode == 4 || mode == 1 || (mode == 2 && neg) || (mode == 3 && !neg) then f.maxBits else f.infBits), 5) := by
  have hk : (if f.top || mode == 4 || mode == 1 || (mode == 2 && neg) || (mode == 3 && !neg) then f.maxBits else f.infBits) <
      2 ^ (f.eb + f.mb) := by
    split
    · exact hf.maxBits_lt
    · rw [pow_add]
      exact Nat.mul_lt_mul_of_pos_right (Nat.sub_lt (Nat.two_pow_pos _) Nat.one_pos) (Nat.two_pow_pos _)
  refine ⟨h.signed_result hk 5, fun _ => ⟨rfl, (signed_mod neg hk).trans (if_congr ?_ rfl rfl)⟩, fun hn => absurd ho hn⟩
  have hneg : x < 0 ↔ neg = true := h.neg_iff
  have hpos : 0 < x ↔ neg = false := by
    rw [← Bool.not_eq_true, ← hneg, not_lt]
    exact ⟨le_of_lt, fun h0 => lt_of_le_of_ne h0 h.ne_zero.symm⟩
  rw [hneg, hpos]
  simp only [Bool.or_eq_true, Bool.and_eq_true, beq_iff_eq, Bool.not_eq_true']
  tauto

/-- The result where there is none: the neighbour chosen, with INX where a fraction was left, and UNF where it is tiny too. -/
theorem roundsTo_of_not_overflows (hf : f.Regular) (hmode : mode ≤ 4) (ho : ¬ Overflows f mode x) {inexact tiny : Bool}
    (hinexact : inexact = false ↔ φ = 0) (htiny : tiny = true ↔ TinyAfterRounding f mode draw x) : RoundsTo f mode draw neg x
      (f.signed neg (d * 2 ^ f.mb + r), (if inexact then 1 else 0) + if inexact && tiny then 2 else 0) := by
  have hle := h.code_le hf hmode ho
  have hy := h.rat_neighbour hf h.landing.eq_or hle neg
  have hexact : ((unpack f (f.signed neg (d * 2 ^ f.mb + r))).rat : ℝ) = x ↔ φ = 0 := by
    have hs : sgn neg ≠ 0 := by cases neg <;> simp
    rw [hy, h.value, mul_right_inj' hs, mul_left_inj' (step_pos f d).ne', h.landing.eq_iff]
  rw [← hexact] at hinexact
  refine ⟨h.signed_result (hle.trans_lt hf.maxBits_lt) _, fun hn => absurd hn ho, fun _ => ⟨(unpack_signed hf neg hle).1,
    fun c _ hc => ?_, fun he => ?_, fun he ht => ?_, fun he ht => ?_⟩⟩
  · obtain ⟨ζ, hz, hζ⟩ := h.outside hf hc
    obtain ⟨h0, h1, h2, h3⟩ := h.neighbour_chosen hy hz hζ
    refine ⟨fun hm => ⟨(h0 hm).1, fun he hne => ?_⟩, h1, h2, h3, fun hm => ⟨fun hzx => ?_, fun b _ hb => ?_⟩⟩
    · exact signed_even hf neg ((h0 hm).2 he hne)
    · exact hexact.2 (h.exact_of_value hz hζ hzx)
    · exact h.neighbour_drawn hf hm hy hc hb
  · rw [hinexact.2 he]
    rfl
  · rw [Bool.eq_true_of_not_eq_false (he ∘ hinexact.1), htiny.2 ht]
    rfl
  · rw [Bool.eq_true_of_not_eq_false (he ∘ hinexact.1), Bool.eq_false_of_not_eq_true (ht ∘ htiny.1)]
    rfl

end Placed

/-- Round gives a real number, rounded once: whatever stands for the number is enough. -/
theorem roundsTo_roundTo {f : Fmt} (hf : f.Regular) {mode m : Nat} {t : ℝ} (hmode : mode ≤ 4) (draw : Nat) (neg : Bool) (e : Int)
    (ht : StandsFor f m t) : RoundsTo f mode draw neg (sgn neg * (t * 2 ^ e)) (roundTo f mode draw neg m e) := by
  by_cases hm : m = 0
  · subst hm
    have ht0 : t = 0 := by
      rcases ht with h | ⟨h, -⟩
      · simpa using h
      · exact absurd h (Nat.not_le.mpr (Nat.two_pow_pos _))
    rw [ht0, zero_mul, mul_zero]
    exact roundsTo_zero hf mode draw neg
  · obtain ⟨d, n, r, φ, h⟩ := placed (draw := draw) hmode ht hm neg e
    have ht0 : 0 < t := (pow_pos two_pos _).trans_le (ht.two_pow_log_le hm).1
    have hexceeds := h.exceeds_iff hf hmode ht (by rw [abs_sgn_mul, abs_of_nonneg (by positivity)])
    rw [roundTo_of_ne_zero f mode neg draw e hm]
    by_cases ho : Overflows f mode (sgn neg * (t * 2 ^ e))
    · rw [if_pos (hexceeds.2 ho)]
      exact h.roundsTo_of_overflows hf ho
    · rw [if_neg (ho ∘ hexceeds.1), h.code]
      refine h.roundsTo_of_not_overflows hf hmode ho ?_ (fmt_tiny_iff hmode ht hm rfl)
      rw [decide_eq_false_iff_not, not_not, h.exact]

end Sys2Proof.Machine
end

section
/-! SUPPORT. The arithmetic of R188 on finite values: exact results, a quotient and a root with a sticky bit, each rounded once. -/

namespace Sys2Proof.Machine

/-! ### Exact results (R188, R315) -/

theorem rat_fin (n : Bool) (m : Nat) (e : Int) : ((FV.fin n m e).rat : ℝ) = sgn n * (m * 2 ^ e) := by
  rw [FV.rat, show (if n then (-1 : ℚ) else 1) = signOf n from rfl, Rat.cast_mul, Rat.cast_mul, cast_signOf]
  push_cast
  ring

theorem exists_of_finite {a : FV} (h : a.finite = true) : ∃ n m e, a = .fin n m e := finite_iff.1 h

/-- A finite value scaled to an exponent at or below its own. -/
theorem scaleTo_mul (n : Bool) (m : Nat) {e q : Int} (h : q ≤ e) : (scaleTo n m e q : ℝ) * 2 ^ q = (FV.fin n m e).rat := by
  have he : (2 : ℝ) ^ e = 2 ^ (e - q).toNat * 2 ^ q := by
    rw [← zpow_natCast, ← zpow_add₀ two_ne_zero]
    congr 1
    omega
  rw [rat_fin, he, scaleTo]
  cases n <;> push_cast <;> simp <;> ring

/-- The exact product. -/
theorem mulV_finite {a b : FV} (ha : a.finite = true) (hb : b.finite = true) : ∃ m e, mulV a b = (.fin (a.sign ^^ b.sign) m e, false) ∧
    ((FV.fin (a.sign ^^ b.sign) m e).rat : ℝ) = a.rat * b.rat := by
  obtain ⟨n₁, m₁, e₁, rfl⟩ := exists_of_finite ha
  obtain ⟨n₂, m₂, e₂, rfl⟩ := exists_of_finite hb
  refine ⟨_, _, rfl, ?_⟩
  have hs : sgn (n₁ ^^ n₂) = sgn n₁ * sgn n₂ := by cases n₁ <;> cases n₂ <;> simp
  rw [rat_fin, rat_fin, rat_fin]
  simp only [FV.sign]
  rw [hs, zpow_add₀ two_ne_zero]
  push_cast
  ring

section Exact
variable {f : Fmt} (hf : f.Regular) {mode : Nat} (hmode : mode ≤ 4) (draw : Nat)
include hf hmode

theorem roundsTo_roundV (n : Bool) (m : Nat) (e : Int) :
    RoundsTo f mode draw n ((FV.fin n m e).rat : ℝ) (roundV f mode draw (.fin n m e)) := by
  rw [rat_fin]
  exact roundsTo_roundTo hf hmode draw n e (.inl rfl)

/-- A sum of two exact terms, rounded once; z is the sign of a zero sum. -/
theorem roundsTo_exactSum (z n₁ n₂ : Bool) (m₁ m₂ : Nat) (e₁ e₂ : Int) :
    RoundsTo f mode draw z ((FV.fin n₁ m₁ e₁).rat + (FV.fin n₂ m₂ e₂).rat : ℝ)
      (roundV f mode draw (exactSum z [(n₁, m₁, e₁), (n₂, m₂, e₂)])) := by
  unfold exactSum
  simp only [List.foldl_cons, List.foldl_nil, zero_add]
  have h1 : min (min 0 e₁) e₂ ≤ e₁ := (min_le_left _ _).trans (min_le_right _ _)
  have h2 : min (min 0 e₁) e₂ ≤ e₂ := min_le_right _ _
  generalize min (min 0 e₁) e₂ = q at h1 h2
  rw [← scaleTo_mul n₁ m₁ h1, ← scaleTo_mul n₂ m₂ h2, ← add_mul, ← Int.cast_add]
  generalize scaleTo n₁ m₁ e₁ q + scaleTo n₂ m₂ e₂ q = v
  have h2q : (2 : ℝ) ^ q ≠ 0 := by positivity
  split
  case isTrue h0 =>
    have h := roundsTo_roundV hf hmode draw z 0 0
    rw [rat_fin] at h
    rw [h0]
    simpa using h
  case isFalse h0 =>
    have h := roundsTo_roundV hf hmode draw (decide (v < 0)) v.natAbs q
    have hv : sgn (decide (v < 0)) * (v.natAbs : ℝ) = v := by
      rw [Nat.cast_natAbs, Int.cast_abs]
      by_cases hneg : v < 0
      · rw [decide_eq_true hneg, sgn_true, abs_of_neg (by exact_mod_cast hneg)]
        ring
      · rw [decide_eq_false hneg, sgn_false, abs_of_nonneg (by exact_mod_cast not_lt.1 hneg), one_mul]
    rw [rat_fin, ← mul_assoc, hv] at h
    exact h.of_ne_zero z (mul_ne_zero (by exact_mod_cast h0) h2q)

variable {a b c : FV} (ha : a.finite = true) (hb : b.finite = true)
include ha hb

theorem roundsTo_fAdd : RoundsTo f mode draw (if a.sign = b.sign then a.sign else mode == 3) (a.rat + b.rat : ℝ)
    (fAdd f mode draw a b) := by
  obtain ⟨n₁, m₁, e₁, rfl⟩ := exists_of_finite ha
  obtain ⟨n₂, m₂, e₂, rfl⟩ := exists_of_finite hb
  exact roundsTo_exactSum hf hmode draw _ n₁ n₂ m₁ m₂ e₁ e₂

theorem roundsTo_fMul : RoundsTo f mode draw (a.sign ^^ b.sign) (a.rat * b.rat : ℝ) (fMul f mode draw a b) := by
  obtain ⟨m, e, hp, hrat⟩ := mulV_finite ha hb
  rw [fMul, hp, ← hrat]
  exact roundsTo_roundV hf hmode draw _ m e

theorem roundsTo_fFma (hc : c.finite = true) :
    RoundsTo f mode draw (if (a.sign ^^ b.sign) = c.sign then (a.sign ^^ b.sign) else mode == 3) (a.rat * b.rat + c.rat : ℝ)
      (fFma f mode draw a b c) := by
  obtain ⟨m, e, hp, hrat⟩ := mulV_finite ha hb
  have hsnan : c.isSnan = false := by cases c <;> simp_all [FV.finite, FV.isSnan]
  rw [fFma, hp, ← hrat]
  simp only [hsnan, Bool.or_self, Bool.false_eq_true, if_false]
  exact roundsTo_fAdd hf hmode draw rfl hc

end Exact

/-! ### Quotients (R188) -/

/-- The fraction of a code in a format. -/
theorem significand_lt {f : Fmt} {x m : Nat} {n : Bool} {e : Int} (h : unpack f x = .fin n m e) : m < 2 ^ (f.mb + 1) := by
  have hm := Nat.mod_lt x (Nat.two_pow_pos f.mb)
  have hpow : 2 ^ (f.mb + 1) = 2 ^ f.mb + 2 ^ f.mb := by rw [pow_succ]; omega
  unfold unpack at h
  dsimp only at h
  split_ifs at h <;> cases h <;> omega

/-- A quotient's bits and a sticky bit for its remainder. -/
theorem standsFor_quotient {f : Fmt} {p d : Nat} (hd : d ≠ 0) (hbig : 2 ^ (f.mb + 35) ≤ p / d) :
    StandsFor f (2 * (p / d) + if p % d = 0 then 0 else 1) (2 * (p / d : ℝ)) := by
  refine .inr ⟨by split <;> omega, fun T hT => ?_⟩
  obtain ⟨k, rfl⟩ := hT
  have hd0 : 0 < d := Nat.pos_of_ne_zero hd
  have hdR : (0 : ℝ) < d := by exact_mod_cast hd0
  have hlt : p / d < k ↔ (p / d : ℝ) < k := by
    rw [Nat.div_lt_iff_lt_mul hd0, div_lt_iff₀ hdR]
    exact_mod_cast Iff.rfl
  have heq : (p / d = k ∧ p % d = 0) ↔ (p / d : ℝ) = k := by
    rw [div_eq_iff hdR.ne']
    have hdiv := Nat.div_add_mod' p d
    constructor
    · rintro ⟨rfl, h0⟩
      rw [h0, add_zero] at hdiv
      exact_mod_cast hdiv.symm
    · intro h
      have h : p = k * d := by exact_mod_cast h
      rw [h]
      exact ⟨Nat.mul_div_cancel _ hd0, Nat.mul_mod_left _ _⟩
  push_cast
  rw [← two_mul (k : ℝ), mul_lt_mul_iff_right₀ two_pos, mul_right_inj' two_ne_zero, ← hlt, ← heq]
  split <;> omega

/-- A quotient of two fractions, sh bits beyond the point. -/
theorem standsFor_scaledQuotient {f : Fmt} (m₁ : Nat) {m₂ sh : Nat} (hm₂ : m₂ ≠ 0) (hlt : m₂ < 2 ^ (f.mb + 1))
    (hsh : f.mb + 35 + (f.mb + 1) ≤ sh) :
    StandsFor f (2 * (m₁ * 2 ^ sh / m₂) + if m₁ * 2 ^ sh % m₂ = 0 then 0 else 1) (2 * (m₁ * 2 ^ sh / m₂ : ℝ)) := by
  by_cases hm₁ : m₁ = 0
  · subst hm₁
    exact .inl (by simp)
  · have hbig : 2 ^ (f.mb + 35) ≤ m₁ * 2 ^ sh / m₂ := by
      rw [Nat.le_div_iff_mul_le (Nat.pos_of_ne_zero hm₂)]
      calc 2 ^ (f.mb + 35) * m₂ ≤ 2 ^ (f.mb + 35) * 2 ^ (f.mb + 1) := Nat.mul_le_mul_left _ hlt.le
        _ = 2 ^ (f.mb + 35 + (f.mb + 1)) := (pow_add ..).symm
        _ ≤ 2 ^ sh := Nat.pow_le_pow_right two_pos hsh
        _ ≤ m₁ * 2 ^ sh := Nat.le_mul_of_pos_left _ (Nat.pos_of_ne_zero hm₁)
    have h := standsFor_quotient hm₂ hbig
    push_cast at h
    exact h

theorem rat_div_rat (n₁ n₂ : Bool) (m₁ m₂ : Nat) (e₁ e₂ : Int) (sh : Nat) :
    ((FV.fin n₁ m₁ e₁).rat / (FV.fin n₂ m₂ e₂).rat : ℝ) =
      sgn (n₁ ^^ n₂) * (2 * (m₁ * 2 ^ sh / m₂) * 2 ^ (e₁ - e₂ - sh - 1)) := by
  have hs : sgn (n₁ ^^ n₂) = sgn n₁ / sgn n₂ := by cases n₁ <;> cases n₂ <;> simp
  have hpow : (2 : ℝ) ^ e₁ = 2 ^ e₂ * (2 * 2 ^ sh * 2 ^ (e₁ - e₂ - sh - 1)) := by
    rw [← pow_succ', ← zpow_natCast, ← zpow_add₀ two_ne_zero, ← zpow_add₀ two_ne_zero]
    congr 1
    push_cast
    ring
  have h2 : (2 : ℝ) ^ e₂ ≠ 0 := by positivity
  rw [rat_fin, rat_fin, hs, hpow]
  field_simp

theorem fDiv_fin (f : Fmt) (mode draw : Nat) (n₁ n₂ : Bool) (m₁ : Nat) {m₂ : Nat} (e₁ e₂ : Int) (hm₂ : m₂ ≠ 0) :
    fDiv f mode draw (.fin n₁ m₁ e₁) (.fin n₂ m₂ e₂) = roundTo f mode draw (n₁ ^^ n₂)
      (2 * (m₁ * 2 ^ 192 / m₂) + if m₁ * 2 ^ 192 % m₂ = 0 then 0 else 1) (e₁ - e₂ - (192 : Nat) - 1) := by
  rw [fDiv]
  simp only [FV.isNan, FV.sign, Bool.or_self, Bool.false_eq_true, if_false, if_neg hm₂]

theorem roundsTo_fDiv {f : Fmt} (hf : f.Regular) (hmb : f.mb ≤ 52) {mode : Nat} (hmode : mode ≤ 4) (draw : Nat) {a b : FV}
    (ha : a.finite = true) (hb : b.finite = true) (h0 : b.isZero = false) {y : Nat} (hy : unpack f y = b) :
    RoundsTo f mode draw (a.sign ^^ b.sign) (a.rat / b.rat : ℝ) (fDiv f mode draw a b) := by
  obtain ⟨n₁, m₁, e₁, rfl⟩ := exists_of_finite ha
  obtain ⟨n₂, m₂, e₂, rfl⟩ := exists_of_finite hb
  have hm₂ : m₂ ≠ 0 := by
    rintro rfl
    exact Bool.false_ne_true h0.symm
  rw [rat_div_rat n₁ n₂ m₁ m₂ e₁ e₂ 192, fDiv_fin f mode draw n₁ n₂ m₁ e₁ e₂ hm₂]
  exact roundsTo_roundTo hf hmode draw _ _ (standsFor_scaledQuotient m₁ hm₂ (significand_lt hy) (by omega))

/-! ### Square roots (R188) -/

/-- The bits of a root that are still to be found. -/
theorem isqrtAux_spec (x n r : Nat) (hlo : r * r ≤ x) (hhi : x < (r + 2 ^ n) * (r + 2 ^ n)) :
    isqrtAux x n r * isqrtAux x n r ≤ x ∧ x < (isqrtAux x n r + 1) * (isqrtAux x n r + 1) := by
  induction n generalizing r with
  | zero => exact ⟨hlo, hhi⟩
  | succ n ih =>
    rw [pow_succ, Nat.mul_two, ← Nat.add_assoc] at hhi
    rw [isqrtAux]
    split
    case isTrue h => exact ih _ h hhi
    case isFalse h => exact ih _ hlo (Nat.lt_of_not_le h)

theorem isqrt_eq_sqrt (x : Nat) : isqrt x = Nat.sqrt x := by
  have hlog : x < (0 + 2 ^ (Nat.log2 x / 2 + 1)) * (0 + 2 ^ (Nat.log2 x / 2 + 1)) := by
    rw [zero_add, ← pow_add]
    exact Nat.lt_log2_self.trans_le (Nat.pow_le_pow_right (by norm_num) (by omega))
  exact Nat.eq_sqrt.2 (isqrtAux_spec x _ 0 (Nat.zero_le _) hlog)

/-- A root's bits and a sticky bit. -/
theorem standsFor_sqrt {f : Fmt} {x : Nat} (hbig : 2 ^ (f.mb + 35) * 2 ^ (f.mb + 35) ≤ x) :
    StandsFor f (2 * isqrt x + if isqrt x * isqrt x = x then 0 else 1) (2 * Real.sqrt x) := by
  rw [isqrt_eq_sqrt]
  have hroot : 2 ^ (f.mb + 35) ≤ Nat.sqrt x := Nat.le_sqrt.2 hbig
  refine .inr ⟨by split <;> omega, fun T hT => ?_⟩
  obtain ⟨k, rfl⟩ := hT
  have hk : (0 : ℝ) ≤ k := Nat.cast_nonneg k
  have hlt : Nat.sqrt x < k ↔ Real.sqrt x < k := by
    rw [← not_le, ← not_le, Nat.le_sqrt', Real.le_sqrt hk (Nat.cast_nonneg x)]
    exact_mod_cast Iff.rfl
  have heq : (Nat.sqrt x = k ∧ Nat.sqrt x * Nat.sqrt x = x) ↔ Real.sqrt x = k := by
    rw [Real.sqrt_eq_iff_mul_self_eq (Nat.cast_nonneg x) hk]
    constructor
    · rintro ⟨rfl, h⟩
      exact_mod_cast h.symm
    · intro h
      have h : x = k * k := by exact_mod_cast h
      rw [h, Nat.sqrt_eq]
      exact ⟨rfl, rfl⟩
  push_cast
  rw [← two_mul (k : ℝ), mul_lt_mul_iff_right₀ two_pos, mul_right_inj' two_ne_zero, ← hlt, ← heq]
  split <;> omega

/-- The root of m · 2^e from that of m · 2^sh. -/
theorem sqrt_mul_zpow (m sh : Nat) {e q : Int} (hq : e = 2 * q + sh) :
    Real.sqrt (m * 2 ^ e) = 2 * Real.sqrt ((m * 2 ^ sh : Nat) : ℝ) * 2 ^ (q - 1) := by
  have hpow : (m : ℝ) * 2 ^ e = (m * 2 ^ sh : Nat) * (2 ^ q * 2 ^ q) := by
    rw [← zpow_add₀ two_ne_zero, hq, zpow_add₀ two_ne_zero, zpow_natCast, two_mul]
    push_cast
    ring
  rw [hpow, Real.sqrt_mul (Nat.cast_nonneg _), Real.sqrt_mul_self (by positivity), zpow_sub_one₀ two_ne_zero]
  ring

/-- The shift under a root's radicand: it leaves an even exponent. -/
def rootShift (e : Int) : Nat := 256 + if e % 2 = 0 then 0 else 1

theorem eq_rootShift (e : Int) : e = 2 * ((e - rootShift e) / 2) + rootShift e := by
  unfold rootShift
  split <;> omega

theorem fSqrt_fin (f : Fmt) (mode draw : Nat) {m : Nat} (e : Int) (hm : m ≠ 0) :
    fSqrt f mode draw (.fin false m e) = roundTo f mode draw false (2 * isqrt (m * 2 ^ rootShift e) +
      if isqrt (m * 2 ^ rootShift e) * isqrt (m * 2 ^ rootShift e) = m * 2 ^ rootShift e then 0 else 1)
      ((e - rootShift e) / 2 - 1) := by
  rw [fSqrt, if_neg hm]
  rfl

theorem fSqrt_zero (f : Fmt) (mode draw : Nat) (n : Bool) (e : Int) :
    fSqrt f mode draw (.fin n 0 e) = roundTo f mode draw n 0 0 := rfl

theorem roundsTo_fSqrt {f : Fmt} (hf : f.Regular) (hmb : f.mb ≤ 52) {mode : Nat} (hmode : mode ≤ 4) (draw : Nat) {a : FV}
    (ha : a.finite = true) (h0 : 0 ≤ a.rat) : RoundsTo f mode draw a.sign (Real.sqrt (a.rat : ℝ)) (fSqrt f mode draw a) := by
  obtain ⟨n, m, e, rfl⟩ := exists_of_finite ha
  have h0 : (0 : ℝ) ≤ (FV.fin n m e).rat := by exact_mod_cast h0
  rw [rat_fin] at h0 ⊢
  by_cases hm : m = 0
  · subst hm
    have h := roundsTo_roundTo hf hmode draw n 0 (.inl (rfl : ((0 : Nat) : ℝ) = _))
    simpa [fSqrt_zero, FV.sign] using h
  · have hpos : (0 : ℝ) < m * 2 ^ e := by
      have : (0 : ℝ) < m := by exact_mod_cast Nat.pos_of_ne_zero hm
      positivity
    cases n with
    | true =>
      rw [sgn_true] at h0
      linarith
    | false =>
      have hbig : 2 ^ (f.mb + 35) * 2 ^ (f.mb + 35) ≤ m * 2 ^ rootShift e := by
        rw [← pow_add]
        refine (Nat.pow_le_pow_right two_pos ?_).trans (Nat.le_mul_of_pos_left _ (Nat.pos_of_ne_zero hm))
        unfold rootShift
        omega
      rw [sgn_false, one_mul, fSqrt_fin f mode draw e hm, sqrt_mul_zpow m (rootShift e) (eq_rootShift e)]
      simpa [FV.sign] using roundsTo_roundTo hf hmode draw false ((e - rootShift e) / 2 - 1) (standsFor_sqrt hbig)

end Sys2Proof.Machine
end

section
/-! SUPPORT. The arithmetic of R188 on NaNs, infinities and zeros. -/

namespace Sys2Proof.Machine

theorem exists_of_isInf {a : FV} (h : a.isInf = true) : ∃ n, a = .inf n := by
  cases a with
  | inf n => exact ⟨n, rfl⟩
  | nan | fin => exact absurd h Bool.false_ne_true

theorem exists_of_isNan {a : FV} (h : a.isNan = true) : ∃ s, a = .nan s := by
  cases a with
  | nan s => exact ⟨s, rfl⟩
  | inf | fin => exact absurd h Bool.false_ne_true

theorem isSnan_of_not_nan {a : FV} (h : a.isNan = false) : a.isSnan = false := by
  cases a with
  | nan => exact absurd h.symm Bool.false_ne_true
  | inf | fin => rfl

/-- The operands of which one is infinite and one zero, which have no product. -/
def noProduct (a b : FV) : Bool := (a.isInf && b.isZero) || (a.isZero && b.isInf)

@[simp] theorem sign_inf (n : Bool) : (FV.inf n).sign = n := rfl

section Special
variable {f : Fmt} {mode draw : Nat} {a b c : FV}

@[simp] theorem finish_nan (inv : Bool) : finish f mode draw (.nan false, inv) = nanR f inv := by cases inv <;> rfl

/-! ### Sums -/

theorem addV_of_nan (h : a.isNan = true ∨ b.isNan = true) : addV mode a b = (.nan false, a.isSnan || b.isSnan) := by
  cases a with
  | nan s => cases b <;> simp [addV, FV.isSnan]
  | inf | fin =>
    obtain ⟨t, rfl⟩ := exists_of_isNan (h.resolve_left Bool.false_ne_true)
    rfl

theorem fAdd_of_nan (h : a.isNan = true ∨ b.isNan = true) : fAdd f mode draw a b = nanR f (a.isSnan || b.isSnan) := by
  rw [fAdd, addV_of_nan h, finish_nan]

theorem fAdd_inf_inf (ha : a.isInf = true) (hb : b.isInf = true) :
    fAdd f mode draw a b = if a.sign = b.sign then (infR f a.sign, 0) else (f.nan, 16) := by
  obtain ⟨n, rfl⟩ := exists_of_isInf ha
  obtain ⟨m, rfl⟩ := exists_of_isInf hb
  rw [fAdd, addV, apply_ite (finish f mode draw)]
  rfl

theorem fAdd_inf_finite (ha : a.isInf = true) (hb : b.finite = true) : fAdd f mode draw a b = (infR f a.sign, 0) := by
  obtain ⟨n, rfl⟩ := exists_of_isInf ha
  obtain ⟨m, v, e, rfl⟩ := exists_of_finite hb
  rfl

theorem fAdd_finite_inf (ha : a.finite = true) (hb : b.isInf = true) : fAdd f mode draw a b = (infR f b.sign, 0) := by
  obtain ⟨n, v, e, rfl⟩ := exists_of_finite ha
  obtain ⟨m, rfl⟩ := exists_of_isInf hb
  rfl

/-! ### Products -/

theorem mulV_of_nan (h : a.isNan = true ∨ b.isNan = true) : mulV a b = (.nan false, a.isSnan || b.isSnan) := by
  cases a with
  | nan s => cases b <;> simp [mulV, FV.isSnan]
  | inf | fin =>
    obtain ⟨t, rfl⟩ := exists_of_isNan (h.resolve_left Bool.false_ne_true)
    rfl

theorem isZero_fin (n : Bool) (m : Nat) (e : Int) : (FV.fin n m e).isZero = decide (m = 0) := by cases m <;> rfl

theorem mulV_of_noProduct (h : noProduct a b = true) : mulV a b = (.nan false, true) := by
  cases a with
  | nan => exact absurd h Bool.false_ne_true
  | inf n =>
    cases b with
    | nan | inf => exact absurd h Bool.false_ne_true
    | fin m v e => exact if_pos (by simpa [noProduct, isZero_fin, FV.isInf] using h)
  | fin n v e =>
    cases b with
    | nan | fin => simp [noProduct, FV.isInf] at h
    | inf m => exact if_pos (by simpa [noProduct, isZero_fin, FV.isInf] using h)

theorem mulV_of_inf (ha : a.isNan = false) (hb : b.isNan = false) (hinf : a.isInf = true ∨ b.isInf = true)
    (h : noProduct a b = false) : mulV a b = (.inf (a.sign ^^ b.sign), false) := by
  cases a with
  | nan => exact absurd ha.symm Bool.false_ne_true
  | inf n =>
    cases b with
    | nan => exact absurd hb.symm Bool.false_ne_true
    | inf => rfl
    | fin m v e => exact if_neg (by simpa [noProduct, isZero_fin, FV.isInf] using h)
  | fin n v e =>
    obtain ⟨m, rfl⟩ := exists_of_isInf (hinf.resolve_left Bool.false_ne_true)
    exact if_neg (by simpa [noProduct, isZero_fin, FV.isInf] using h)

theorem fMul_of_nan (h : a.isNan = true ∨ b.isNan = true) : fMul f mode draw a b = nanR f (a.isSnan || b.isSnan) := by
  rw [fMul, mulV_of_nan h, finish_nan]

theorem fMul_of_noProduct (h : noProduct a b = true) : fMul f mode draw a b = (f.nan, 16) := by
  rw [fMul, mulV_of_noProduct h]
  rfl

theorem fMul_of_inf (ha : a.isNan = false) (hb : b.isNan = false) (hinf : a.isInf = true ∨ b.isInf = true)
    (h : noProduct a b = false) : fMul f mode draw a b = (infR f (a.sign ^^ b.sign), 0) := by
  rw [fMul, mulV_of_inf ha hb hinf h]
  rfl

/-- A product is a NaN only of a NaN, or of operands that have no product; it is never a signalling one. -/
theorem mulV_of_not_nan (ha : a.isNan = false) (hb : b.isNan = false) (h : noProduct a b = false) :
    (mulV a b).1.isNan = false ∧ (mulV a b).2 = false := by
  by_cases hinf : a.isInf = true ∨ b.isInf = true
  · rw [mulV_of_inf ha hb hinf h]
    exact ⟨rfl, rfl⟩
  · obtain ⟨ha', hb'⟩ := not_or.1 hinf
    cases a with
    | nan => exact absurd ha.symm Bool.false_ne_true
    | inf => exact absurd rfl ha'
    | fin =>
      cases b with
      | nan => exact absurd hb.symm Bool.false_ne_true
      | inf => exact absurd rfl hb'
      | fin => exact ⟨rfl, rfl⟩

theorem fFma_eq : fFma f mode draw a b c =
    if (mulV a b).2 || c.isSnan then nanR f true else fAdd f mode draw (mulV a b).1 c := rfl

theorem fFma_of_noProduct (h : noProduct a b = true) : fFma f mode draw a b c = (f.nan, 16) := by
  rw [fFma_eq, mulV_of_noProduct h]
  rfl

theorem fFma_of_nan (h : noProduct a b = false) (hnan : a.isNan = true ∨ b.isNan = true ∨ c.isNan = true) :
    fFma f mode draw a b c = nanR f (a.isSnan || b.isSnan || c.isSnan) := by
  rw [fFma_eq]
  by_cases hab : a.isNan = true ∨ b.isNan = true
  · rw [mulV_of_nan hab]
    split
    case isTrue hs => rw [hs]
    case isFalse hs =>
      rw [fAdd_of_nan (.inl rfl), Bool.eq_false_of_not_eq_true hs]
      have hc : c.isSnan = false := by simp_all
      rw [hc]
      rfl
  · obtain ⟨ha, hb⟩ := not_or.1 hab
    have ha := Bool.eq_false_of_not_eq_true ha
    have hb := Bool.eq_false_of_not_eq_true hb
    obtain ⟨hp, hi⟩ := mulV_of_not_nan ha hb h
    have hc : c.isNan = true := by simpa [ha, hb] using hnan
    rw [hi, isSnan_of_not_nan ha, isSnan_of_not_nan hb, fAdd_of_nan (.inr hc), isSnan_of_not_nan hp]
    cases c.isSnan <;> rfl

theorem fFma_of_inf (ha : a.isNan = false) (hb : b.isNan = false) (hinf : a.isInf = true ∨ b.isInf = true)
    (h : noProduct a b = false) (hc : c.isNan = false) : fFma f mode draw a b c =
      if c.isInf = true ∧ c.sign ≠ (a.sign ^^ b.sign) then (f.nan, 16) else (infR f (a.sign ^^ b.sign), 0) := by
  rw [fFma_eq, mulV_of_inf ha hb hinf h, isSnan_of_not_nan hc]
  simp only [Bool.or_self, Bool.false_eq_true, if_false]
  by_cases hci : c.isInf = true
  · rw [fAdd_inf_inf rfl hci, sign_inf]
    simp only [hci, true_and, ne_eq, ite_not, eq_comm (a := c.sign)]
  · rw [if_neg (fun h => hci h.1)]
    refine fAdd_inf_finite rfl ?_
    cases c with
    | nan => exact absurd hc.symm Bool.false_ne_true
    | inf => exact absurd rfl hci
    | fin => rfl

theorem fFma_finite_inf (ha : a.finite = true) (hb : b.finite = true) (hc : c.isInf = true) :
    fFma f mode draw a b c = (infR f c.sign, 0) := by
  obtain ⟨m, e, hp, -⟩ := mulV_finite ha hb
  obtain ⟨n, rfl⟩ := exists_of_isInf hc
  rw [fFma_eq, hp]
  rfl

/-! ### Quotients -/

theorem fDiv_of_nan (h : a.isNan = true ∨ b.isNan = true) : fDiv f mode draw a b = nanR f (a.isSnan || b.isSnan) :=
  if_pos (by simpa using h)

theorem fDiv_of_zero (ha : a.finite = true) (hb : b.finite = true) (h0 : b.isZero = true) :
    fDiv f mode draw a b = if a.isZero then (f.nan, 16) else (infR f (a.sign ^^ b.sign), 8) := by
  obtain ⟨n, v, e, rfl⟩ := exists_of_finite ha
  obtain ⟨m, w, d, rfl⟩ := exists_of_finite hb
  rw [isZero_fin, decide_eq_true_eq] at h0
  subst h0
  rw [isZero_fin]
  cases v <;> rfl

theorem fDiv_inf_inf (ha : a.isInf = true) (hb : b.isInf = true) : fDiv f mode draw a b = (f.nan, 16) := by
  obtain ⟨n, rfl⟩ := exists_of_isInf ha
  obtain ⟨m, rfl⟩ := exists_of_isInf hb
  rfl

theorem fDiv_inf_finite (ha : a.isInf = true) (hb : b.finite = true) :
    fDiv f mode draw a b = (infR f (a.sign ^^ b.sign), 0) := by
  obtain ⟨n, rfl⟩ := exists_of_isInf ha
  obtain ⟨m, v, e, rfl⟩ := exists_of_finite hb
  rfl

theorem fDiv_finite_inf (ha : a.finite = true) (hb : b.isInf = true) :
    fDiv f mode draw a b = (if a.sign ^^ b.sign then 2 ^ (f.eb + f.mb) else 0, 0) := by
  obtain ⟨n, v, e, rfl⟩ := exists_of_finite ha
  obtain ⟨m, rfl⟩ := exists_of_isInf hb
  rfl

/-! ### Square roots -/

theorem fSqrt_neg (ha : a.finite = true) (h : a.rat < 0) : fSqrt f mode draw a = (f.nan, 16) := by
  obtain ⟨n, m, e, rfl⟩ := exists_of_finite ha
  have h : ((FV.fin n m e).rat : ℝ) < 0 := by exact_mod_cast h
  rw [rat_fin] at h
  cases n with
  | false =>
    have : (0 : ℝ) ≤ m * 2 ^ e := by positivity
    rw [sgn_false] at h
    linarith
  | true =>
    have hm : m ≠ 0 := by
      rintro rfl
      simp at h
    exact if_neg hm

theorem fSqrt_inf (ha : a.isInf = true) : fSqrt f mode draw a = if a.sign then (f.nan, 16) else (infR f false, 0) := by
  obtain ⟨n, rfl⟩ := exists_of_isInf ha
  rfl

end Special

/-- The canonical NaN, with INV when an operand is a signalling one. -/
def quietNan (f : Fmt) (l : List FV) : Nat × Nat := (f.nan, if l.any FV.isSnan then 16 else 0)

theorem quietNan_two (f : Fmt) (a b : FV) : quietNan f [a, b] = nanR f (a.isSnan || b.isSnan) := by
  simp [quietNan, nanR, fINV]

theorem quietNan_three (f : Fmt) (a b c : FV) : quietNan f [a, b, c] = nanR f (a.isSnan || b.isSnan || c.isSnan) := by
  simp [quietNan, nanR, fINV, or_assoc]

theorem fSqrt_of_nan {f : Fmt} {mode draw : Nat} {a : FV} (h : a.isNan = true) : fSqrt f mode draw a = quietNan f [a] := by
  obtain ⟨s, rfl⟩ := exists_of_isNan h
  cases s <;> rfl

/-- All of R188, clause by clause. -/
theorem arithmeticIsRight {f : Fmt} (hf : f.Regular) (hmb : f.mb ≤ 52) {mode : Nat} (hmode : mode ≤ 4) (draw : Nat) :
    ArithmeticIsRight f mode draw := by
  intro a b c invalid quiet n np
  refine ⟨fun ha hb => ⟨roundsTo_fAdd hf hmode draw ha hb, roundsTo_fMul hf hmode draw ha hb, roundsTo_fFma hf hmode draw ha hb, ?_,
      fDiv_of_zero ha hb⟩, fun ha => ⟨roundsTo_fSqrt hf hmb hmode draw ha, fSqrt_neg ha⟩, fun h => ?_, fSqrt_of_nan,
    fun hp => ⟨fMul_of_noProduct hp, fFma_of_noProduct hp⟩, fun hp h => ?_, fun ha hb => ⟨fAdd_inf_inf ha hb, fDiv_inf_inf ha hb⟩,
    fun ha hb => ⟨fAdd_inf_finite ha hb, fDiv_inf_finite ha hb⟩, fun ha hb => ⟨fAdd_finite_inf ha hb, fDiv_finite_inf ha hb⟩,
    fun ha hb h hp => ⟨fMul_of_inf ha hb h hp, fFma_of_inf ha hb h hp⟩, fFma_finite_inf, fSqrt_inf⟩
  · rintro h0 ⟨x, y, -, -, -, hy⟩
    exact roundsTo_fDiv hf hmb hmode draw ha hb h0 hy
  · have hq := quietNan_two f a b
    exact ⟨(fAdd_of_nan h).trans hq.symm, (fMul_of_nan h).trans hq.symm, (fDiv_of_nan h).trans hq.symm⟩
  · exact (fFma_of_nan hp h).trans (quietNan_three f a b c).symm

end Sys2Proof.Machine
end

section
/-! SUPPORT and PROOFS. The lesser and the greater operand (R189), the instructions, and with them O21. -/

namespace Sys2Proof.Machine

/-! ### The order of the values that are no NaN -/

theorem lt_fin_iff (n₁ n₂ : Bool) (m₁ m₂ : Nat) (e₁ e₂ : Int) :
    (FV.fin n₁ m₁ e₁).lt (.fin n₂ m₂ e₂) = true ↔ (FV.fin n₁ m₁ e₁).rat < (FV.fin n₂ m₂ e₂).rat := by
  have hpos : (0 : ℝ) < 2 ^ min e₁ e₂ := by positivity
  rw [← Rat.cast_lt (K := ℝ), ← scaleTo_mul n₁ m₁ (min_le_left e₁ e₂), ← scaleTo_mul n₂ m₂ (min_le_right e₁ e₂),
    mul_lt_mul_iff_left₀ hpos, Int.cast_lt]
  exact decide_eq_true_iff

/-- A value that is no NaN among the extended rational numbers. -/
def FV.extended : FV → WithBot (WithTop Rat)
  | .inf n => if n then ⊥ else ⊤
  | a => ((a.rat : WithTop Rat) : WithBot (WithTop Rat))

@[simp] theorem extended_inf (n : Bool) : (FV.inf n).extended = if n then ⊥ else ⊤ := rfl
@[simp] theorem extended_fin (n : Bool) (m : Nat) (e : Int) :
    (FV.fin n m e).extended = (((FV.fin n m e).rat : WithTop Rat) : WithBot (WithTop Rat)) := rfl

section Order
variable {a b : FV} (ha : a.isNan = false) (hb : b.isNan = false)
include ha hb

theorem FV.atMost_iff : a.AtMost b ↔ a.extended ≤ b.extended := by
  cases a with
  | nan => exact absurd ha.symm Bool.false_ne_true
  | inf n =>
    cases b with
    | nan => exact absurd hb.symm Bool.false_ne_true
    | inf m => cases n <;> cases m <;> simp [FV.AtMost, FV.isInf, FV.finite]
    | fin => cases n <;> simp [FV.AtMost, FV.isInf, FV.sign, FV.finite]
  | fin n₁ m₁ e₁ =>
    cases b with
    | nan => exact absurd hb.symm Bool.false_ne_true
    | inf m => cases m <;> simp [FV.AtMost, FV.isInf, FV.sign, FV.finite]
    | fin n₂ m₂ e₂ => simp [FV.AtMost, FV.isInf, FV.finite]

theorem FV.lt_iff : a.lt b = true ↔ a.extended < b.extended := by
  cases a with
  | nan => exact absurd ha.symm Bool.false_ne_true
  | inf n =>
    cases b with
    | nan => exact absurd hb.symm Bool.false_ne_true
    | inf m => cases n <;> cases m <;> simp [FV.lt]
    | fin => cases n <;> simp [FV.lt]
  | fin n₁ m₁ e₁ =>
    cases b with
    | nan => exact absurd hb.symm Bool.false_ne_true
    | inf m =>
      cases m with
      | true => simp [FV.lt]
      | false => exact iff_of_true rfl (WithBot.coe_lt_coe.2 (WithTop.coe_lt_top _))
    | fin n₂ m₂ e₂ =>
      rw [lt_fin_iff]
      simp

theorem FV.eq_iff : a.eq b = true ↔ a.extended = b.extended := by
  rw [le_antisymm_iff (a := a.extended), ← not_lt, ← not_lt, ← FV.lt_iff ha hb, ← FV.lt_iff hb ha, FV.eq, ha, hb]
  simp [and_comm]

/-- a goes before b: it is less, or it is −0 and b +0 (R189). -/
def FV.before (a b : FV) : Bool := a.lt b || (a.eq b && a.sign && !b.sign)

theorem FV.before_iff : a.before b = true ↔
    a.extended < b.extended ∨ a.extended = b.extended ∧ a.sign = true ∧ b.sign = false := by
  rw [← FV.lt_iff ha hb, ← FV.eq_iff ha hb]
  simp [FV.before, and_assoc]

/-- The one that goes before is at most the other, and of two zeros it is the negative one. -/
theorem FV.atMost_of_before (h : a.before b = true) :
    a.AtMost b ∧ (b.AtMost a → a.sign ≠ b.sign → a.sign = true ∧ b.sign = false) := by
  rw [FV.atMost_iff ha hb, FV.atMost_iff hb ha]
  obtain hlt | ⟨heq, hs⟩ := (FV.before_iff ha hb).1 h
  · exact ⟨hlt.le, fun hle => absurd hle (not_le.2 hlt)⟩
  · exact ⟨heq.le, fun _ _ => hs⟩

theorem FV.atMost_of_not_before (h : a.before b = false) :
    b.AtMost a ∧ (a.AtMost b → a.sign ≠ b.sign → a.sign = false ∧ b.sign = true) := by
  rw [FV.atMost_iff ha hb, FV.atMost_iff hb ha]
  have hn := mt (FV.before_iff ha hb).2 (Bool.eq_false_iff.1 h)
  obtain ⟨hlt, heq⟩ := not_or.1 hn
  refine ⟨not_lt.1 hlt, fun hle hs => ?_⟩
  have hsign := fun h => heq ⟨le_antisymm hle (not_lt.1 hlt), h⟩
  revert hs hsign
  cases a.sign <;> cases b.sign <;> simp

end Order

theorem FV.atMost_refl {a : FV} (ha : a.isNan = false) : a.AtMost a := (FV.atMost_iff ha ha).2 le_rfl

/-! ### FMIN and FMAX (R189) -/

theorem fMinMax_of_not_nan (f : Fmt) (isMax : Bool) {x y : Nat} (ha : (unpack f x).isNan = false)
    (hb : (unpack f y).isNan = false) :
    (fMinMax f isMax x y).1 = if (unpack f x).before (unpack f y) = isMax then y else x := by
  unfold fMinMax FV.before
  simp only [ha, hb, Bool.and_self, Bool.false_eq_true, if_false, bne_iff_ne, ne_eq, ite_not]

/-- The one that FMIN gives. -/
theorem picks_lesser {a b r : FV} (hr : r.AtMost a ∧ r.AtMost b)
    (hs : a.AtMost b → b.AtMost a → a.sign ≠ b.sign → r.sign = true) :
    (false = false → r.AtMost a ∧ r.AtMost b) ∧ (false = true → a.AtMost r ∧ b.AtMost r) ∧
      (a.AtMost b → b.AtMost a → a.sign ≠ b.sign → r.sign = !false) :=
  ⟨fun _ => hr, fun h => absurd h Bool.false_ne_true, hs⟩

theorem picks_greater {a b r : FV} (hr : a.AtMost r ∧ b.AtMost r)
    (hs : a.AtMost b → b.AtMost a → a.sign ≠ b.sign → r.sign = false) :
    (true = false → r.AtMost a ∧ r.AtMost b) ∧ (true = true → a.AtMost r ∧ b.AtMost r) ∧
      (a.AtMost b → b.AtMost a → a.sign ≠ b.sign → r.sign = !true) :=
  ⟨fun h => absurd h.symm Bool.false_ne_true, fun _ => hr, hs⟩

theorem picksExtreme (f : Fmt) (isMax : Bool) (x y : Nat) : PicksExtreme f isMax x y (fMinMax f isMax x y) := by
  refine ⟨rfl, fun ha hb => ?_, fun ha hb => ?_, fun ha hb => ?_, fun ha hb => ?_⟩
  · simp [fMinMax, ha, hb]
  · simp [fMinMax, ha, hb]
  · simp [fMinMax, ha, hb]
  rw [fMinMax_of_not_nan f isMax ha hb]
  refine ⟨by split <;> simp, ?_⟩
  cases hxy : (unpack f x).before (unpack f y) with
  | false =>
    obtain ⟨hle, hsign⟩ := FV.atMost_of_not_before ha hb hxy
    cases isMax with
    | false => exact picks_lesser ⟨hle, FV.atMost_refl hb⟩ fun h _ hs => (hsign h hs).2
    | true => exact picks_greater ⟨FV.atMost_refl ha, hle⟩ fun h _ hs => (hsign h hs).1
  | true =>
    obtain ⟨hle, hsign⟩ := FV.atMost_of_before ha hb hxy
    cases isMax with
    | false => exact picks_lesser ⟨FV.atMost_refl ha, hle⟩ fun _ h hs => (hsign h hs).1
    | true => exact picks_greater ⟨hle, FV.atMost_refl hb⟩ fun _ h hs => (hsign h hs).2

/-! ### The instructions (R188, R189) -/

section Instructions
variable {i : Instr} {s : State} {op : Nat} (hm : majorOf i = some op) (hr : Runs i s)
include hm hr

theorem floatResult_opF2 {g : Fmt → Nat → Nat → FV → FV → Nat × Nat} (h : exec i s = opF2 g (fieldsOf i) s) :
    FloatResult i s (g (fmtK (fieldsOf i).m) (fieldsOf i).rm 0 (floatOf i (opA i s)) (floatOf i (opB i s))) := by
  rw [floatOf, floatOf, ← vA_eq_opA, ← vB_eq_opB]
  unfold opF2 at h
  exact .of_run hm hr h

theorem floatResult_opFfma (h : exec i s = opFfma (fieldsOf i) s) : FloatResult i s
    (fFma (fmtK (fieldsOf i).m) (fieldsOf i).rm 0 (floatOf i (opA i s)) (floatOf i (opB i s)) (floatOf i (opC i s))) := by
  rw [floatOf, floatOf, floatOf, ← vA_eq_opA, ← vB_eq_opB, ← vC_eq_opC]
  unfold opFfma at h
  exact .of_run hm hr h

theorem floatResult_opFsqrt (h : exec i s = opFsqrt (fieldsOf i) s) :
    FloatResult i s (fSqrt (fmtK (fieldsOf i).m) (fieldsOf i).rm 0 (floatOf i (opA i s))) := by
  rw [floatOf, ← vA_eq_opA]
  unfold opFsqrt at h
  exact .of_run hm hr h

theorem floatResult_opFMinMax {isMax : Bool} (h : exec i s = opFMinMax isMax (fieldsOf i) s) :
    FloatResult i s (fMinMax (fmtK (fieldsOf i).m) isMax ((opA i s).toNat % 2 ^ (fmtK (fieldsOf i).m).width)
      ((opB i s).toNat % 2 ^ (fmtK (fieldsOf i).m).width)) := by
  rw [← vA_eq_opA, ← vB_eq_opB]
  unfold opFMinMax at h
  exact .of_run hm hr h

end Instructions

/-- Settles O21: the operations on values by their own lemmas, then each instruction as the operation behind its guards. -/
theorem floatArithmeticResults : Obligations.FloatArithmeticResults := by
  refine ⟨fun code hcode mode draw hmode => ?_, fun code _ isMax x y _ _ => picksExtreme _ isMax x y, by decide, ?_⟩
  · have hmb : ∀ code ∈ [1, 2, 3, 11], (fmtOf code).mb ≤ 52 := by decide
    have hsub : ∀ code ∈ [1, 2, 3, 11], code ∈ [1, 2, 3, 4, 5, 6, 11] := by decide
    exact arithmeticIsRight (regular_fmtOf (hsub code hcode)) (hmb code hcode) hmode draw
  · intro i s hw hr f rm a b
    have hexec {op : Nat} (hm : majorOf i = some op) : exec i s = byMajor op (fieldsOf i) s := exec_core hm s
    exact ⟨fun hm => floatResult_opF2 hm hr (hexec hm),
      fun hm => floatResult_opF2 (g := fSub) hm hr (hexec hm),
      fun hm => floatResult_opF2 hm hr (hexec hm), fun hm => floatResult_opFfma hm hr (hexec hm),
      fun hm => floatResult_opF2 hm hr (hexec hm), fun hm => floatResult_opFsqrt hm hr (hexec hm),
      fun hm => floatResult_opFMinMax hm hr (hexec hm), fun hm => floatResult_opFMinMax hm hr (hexec hm)⟩

end Sys2Proof.Machine
end
